-- ==== Sys2Proof/Word.lean ====
section
/-! DEFINITION. The word types of the TX9 (R6, R12): bytes, 32-bit registers and instruction words, 64-bit addresses.
Bit-field and byte-order helpers that a reading of the spec could get wrong stand in Machine/Bits.lean. -/

namespace Sys2Proof

/-- One byte of memory. -/
abbrev Byte := BitVec 8
/-- One v or k register, one instruction word. -/
abbrev W32 := BitVec 32
/-- One register pair, an address, a program counter. -/
abbrev W64 := BitVec 64

end Sys2Proof
end

