-- ==== Sys2Proof/Syntax.lean ====
section
/-! DEFINITION. The instructions and events of the TX9, one constructor per row of spec/opcode_table.json.
A row of Iveel 9 carries its decoded fields (`Short` for the 32-bit forms, `Long` for the longer ones, R56 to R59);
a row that is an event of the module carries what the event brings with it. -/

namespace Sys2Proof

/-- Fields of a 32-bit form (R57, R59): DST, SRC or IMM8, GRD, STL. -/
structure Short where
  d   : BitVec 8
  s   : BitVec 8
  grd : BitVec 3
  stl : BitVec 3
  deriving DecidableEq, Repr

/-- The part of words 1 to 4 in which the longer formats differ (R58, R59). `imf` is the IMF bit of a 96- or 160-bit
form, which has to be 0; in the 64-bit forms IMF selects between `b` and `bi`. -/
inductive Tail where
  | b  (mod : BitVec 6) (sb : BitVec 10)
  | bi (imm : BitVec 16)
  | c  (imf : Bool) (mod : BitVec 6) (sb : BitVec 10) (imm : BitVec 16) (modb : BitVec 6) (sc : BitVec 10)
  | cm (imf : Bool) (mod : BitVec 6) (sb : BitVec 10) (off : BitVec 32)
  | l  (imf : Bool) (mod : BitVec 6) (sb : BitVec 10) (imm : BitVec 16) (modb : BitVec 6) (sc : BitVec 10) (lit : W64)
  deriving DecidableEq, Repr

/-- Fields of a 64-, 96- or 160-bit form (R57, R58). -/
structure Long where
  sub  : BitVec 6
  dst  : BitVec 10
  grd  : BitVec 3
  stl  : BitVec 3
  gneg : Bool
  sat  : Bool
  kc   : Bool
  kb   : Bool
  ka   : Bool
  sa   : BitVec 10
  tail : Tail
  deriving DecidableEq, Repr

/-- The long formats (R59). -/
inductive Form where
  | b | bi | c | cm | l
  deriving DecidableEq, Repr

/-- The two control ports (R403). -/
inductive Port where
  | a | b
  deriving DecidableEq, Repr

/-- A fabric packet: the header of R356 and its payload. `rsv` is bits [55:52]. -/
structure Packet where
  ftag  : BitVec 16
  schip : BitVec 4
  dchip : BitVec 4
  score : BitVec 7
  dcore : BitVec 7
  chan  : BitVec 6
  kind  : BitVec 4
  len   : BitVec 9
  rly   : Bool
  be    : Bool
  seq   : BitVec 12
  win   : Bool
  rsv   : BitVec 4
  addr  : BitVec 52
  data  : List Byte
  deriving DecidableEq, Repr

/-- A flit as the link layer receives it (R354, R355): its sequence number, the cumulative acknowledgement, whether
its CRC holds, the permits it returns and the shared permits it grants by channel (R360), and the packet when the flit
is a packet's last one. -/
structure Flit where
  seq   : BitVec 10
  ack   : BitVec 10
  crcOk : Bool
  back  : List (Nat × Nat)
  grant : List (Nat × Nat)
  pkt   : Option Packet
  /-- channels for which the peer's sender signals demand (R360) -/
  want  : List Nat := []
  /-- the peer asks for replay from the flit after `ack` (R355) -/
  again : Bool := false
  deriving DecidableEq, Repr

/-- How a rank on another chip stands at a chunk boundary (R197, R290): it goes on, it has stopped, or its parameters differ. -/
inductive RankWord where
  | goes | stopped | differs
  deriving DecidableEq, Repr

/-- The word of a rank on another chip at a chunk boundary, and where the source of its next chunk lies, for this chip to read (R357):
pieces of (window, address, bytes). -/
structure RemoteRank where
  rank : Nat
  word : RankWord := .goes
  src  : List (Bool × Nat × Nat) := []
  deriving DecidableEq, Repr

/-- Where the scrubber or a read finds an error (R396, R397). -/
inductive ErrPlace where
  | line (pa : Nat)
  | slice (core off : Nat)
  | regfile (core : Nat)
  | accum (core : Nat)
  | cleanLine (core : Nat)
  deriving DecidableEq, Repr

/-- A translation asked of the host (R351, R389): function, PASID and 4 KiB page number of the PCIe address. -/
structure AtsReq where
  fn    : Nat
  pasid : Option Nat
  page  : Nat
  deriving DecidableEq, Repr

/-- Response codes of a Page Request Group (R389). -/
inductive PrgCode where
  | success | invalid | failure
  deriving DecidableEq, Repr

/-- A host access to device memory (R276), by physical address or by slice of this chip, or a host atomic. -/
inductive HostAccess where
  | read  (pa len : Nat)
  | write (pa : Nat) (data : List Byte)
  | readSlice  (core off len : Nat)
  | writeSlice (core off : Nat) (data : List Byte)
  | fetchAdd (pa : Nat) (addend : W64)
  deriving DecidableEq, Repr

/-- The three signed objects of the module flash (R404). -/
inductive FlashObj where
  | firmware | owner | config
  deriving DecidableEq, Repr

/-- What the start steps meet outside the logic (R407): whether the memories trained, whether the self-test passed,
and the chip id that each Termifer Link port's peer reports, if it trained. -/
structure StartInput where
  memTrained : Bool
  selfTest   : Bool
  peers      : List (Option Nat)
  deriving DecidableEq, Repr

/-- One constructor per row of spec/opcode_table.json. -/
inductive Instr where
  /-- IADD_A (R86): 32-bit form: DST := DST + SRC as .i32, wrapping. -/
  | iaddA (o : Short)
  /-- IADD (R86): 64, 96 or 160-bit integer add, with optional third source, .sat and k operands. -/
  | iadd (o : Long)
  /-- ISUB_A (R86): 32-bit form: DST := DST - SRC as .i32. -/
  | isubA (o : Short)
  /-- ISUB (R86): Long-form integer subtract. -/
  | isub (o : Long)
  /-- IADDC (R88): Unsigned add with carry in and carry out predicates. -/
  | iaddc (o : Long)
  /-- ISUBB (R88): Unsigned subtract with borrow in and borrow out predicates. -/
  | isubb (o : Long)
  /-- IMUL_A (R86): 32-bit form: DST := low 32 bits of DST x SRC. -/
  | imulA (o : Short)
  /-- IMUL (R86): Long-form integer multiply, low bits or clamped. -/
  | imul (o : Long)
  /-- IMULH (R86): High half of the exact integer product. -/
  | imulh (o : Long)
  /-- IMAD (R86): Integer multiply-add a x b + c. -/
  | imad (o : Long)
  /-- IMIN_A (R86): 32-bit form: smaller of DST and SRC. -/
  | iminA (o : Short)
  /-- IMIN (R86): Long-form integer minimum. -/
  | imin (o : Long)
  /-- IMAX_A (R86): 32-bit form: larger of DST and SRC. -/
  | imaxA (o : Short)
  /-- IMAX (R86): Long-form integer maximum. -/
  | imax (o : Long)
  /-- IABS_A (R86): 32-bit form: DST := |SRC|. -/
  | iabsA (o : Short)
  /-- IABS (R86): B-form integer absolute value. -/
  | iabs (o : Long)
  /-- INEG_A (R86): 32-bit form: DST := -SRC. -/
  | inegA (o : Short)
  /-- INEG (R86): B-form integer negation. -/
  | ineg (o : Long)
  /-- ISET (R89): Compares two integers and writes a predicate, optionally combined with another. -/
  | iset (o : Long)
  /-- AND_A (R90): 32-bit form: DST := DST & SRC. -/
  | andA (o : Short)
  /-- AND (R90): Long-form bitwise and. -/
  | and (o : Long)
  /-- OR_A (R90): 32-bit form: DST := DST | SRC. -/
  | orA (o : Short)
  /-- OR (R90): Long-form bitwise or. -/
  | or (o : Long)
  /-- XOR_A (R90): 32-bit form: DST := DST ^ SRC. -/
  | xorA (o : Short)
  /-- XOR (R90): Long-form bitwise exclusive or. -/
  | xor (o : Long)
  /-- ANDN_A (R90): 32-bit form: DST := DST & ~SRC. -/
  | andnA (o : Short)
  /-- ANDN (R90): Long-form and-not. -/
  | andn (o : Long)
  /-- NOT_A (R90): 32-bit form: DST := ~SRC. -/
  | notA (o : Short)
  /-- NOT (R90): B-form bitwise complement. -/
  | not (o : Long)
  /-- SHL_AI (R91): 32-bit form: DST := DST shifted left by IMM8. -/
  | shlAi (o : Short)
  /-- SHL (R91): Long-form shift left, C form adding SC. -/
  | shl (o : Long)
  /-- SHR_AI (R91): 32-bit form: logical shift right by IMM8. -/
  | shrAi (o : Short)
  /-- SHR (R91): Long-form logical shift right. -/
  | shr (o : Long)
  /-- SAR_AI (R91): 32-bit form: arithmetic shift right by IMM8. -/
  | sarAi (o : Short)
  /-- SAR (R91): Long-form arithmetic shift right. -/
  | sar (o : Long)
  /-- ROL_AI (R91): 32-bit form: rotate left by IMM8. -/
  | rolAi (o : Short)
  /-- ROL (R91): Long-form rotate left. -/
  | rol (o : Long)
  /-- ROR_AI (R91): 32-bit form: rotate right by IMM8. -/
  | rorAi (o : Short)
  /-- ROR (R91): Long-form rotate right. -/
  | ror (o : Long)
  /-- POPC_A (R92): 32-bit form: counts the one bits of SRC. -/
  | popcA (o : Short)
  /-- POPC (R92): B-form population count. -/
  | popc (o : Long)
  /-- CLZ_A (R92): 32-bit form: counts leading zeros of SRC. -/
  | clzA (o : Short)
  /-- CLZ (R92): B-form count leading zeros. -/
  | clz (o : Long)
  /-- CTZ_A (R92): 32-bit form: counts trailing zeros of SRC. -/
  | ctzA (o : Short)
  /-- CTZ (R92): B-form count trailing zeros. -/
  | ctz (o : Long)
  /-- BREV_A (R92): 32-bit form: reverses the bit order of SRC. -/
  | brevA (o : Short)
  /-- BREV (R92): B-form bit reversal. -/
  | brev (o : Long)
  /-- BFX (R93): Extracts a bit field, sign- or zero-extended. -/
  | bfx (o : Long)
  /-- BFI (R93): Inserts a bit field into a base value. -/
  | bfi (o : Long)
  /-- PRMT (R94): Builds a word from selected bytes of two sources. -/
  | prmt (o : Long)
  /-- SEL (R95): Chooses between two values by a predicate. -/
  | sel (o : Long)
  /-- MOV_A (R96): 32-bit form: DST := SRC with its tag. -/
  | movA (o : Short)
  /-- MOV (R96): B-form move of 32, 64 or 128 bits. -/
  | mov (o : Long)
  /-- MOVI_AI (R96): 32-bit form: DST := IMM8 sign-extended. -/
  | moviAi (o : Short)
  /-- MOVI (R96): BI-form move of IMM16 read in the SUB type. -/
  | movi (o : Long)
  /-- MOVL (R96): Moves a 64-bit literal in the SUB type. -/
  | movl (o : Long)
  /-- LEA (R97): Forms a 64-bit address from a base and a scaled index. -/
  | lea (o : Long)
  /-- PAND (R98): Predicate and. -/
  | pand (o : Long)
  /-- POR (R98): Predicate or. -/
  | por (o : Long)
  /-- PXOR (R98): Predicate exclusive or. -/
  | pxor (o : Long)
  /-- PNOT (R98): Predicate not. -/
  | pnot (o : Long)
  /-- PMOV (R98): Predicate move. -/
  | pmov (o : Long)
  /-- PMOV_SAVE (R98): Writes p0 to p7 into a v register. -/
  | pmovSave (o : Long)
  /-- PMOV_LOAD (R98): Loads p0 to p6 from a register. -/
  | pmovLoad (o : Long)
  /-- VOTE (R102): Combines a predicate across the participants of a segment (all, any, uni, ballot). -/
  | vote (o : Long)
  /-- SHFL (R103): Reads a value from another thread of the same segment. -/
  | shfl (o : Long)
  /-- GRED (R104): Reduces across the participants of a segment. -/
  | gred (o : Long)
  /-- GSCAN (R104): Forms inclusive or exclusive prefixes across a segment. -/
  | gscan (o : Long)
  /-- MATCH (R105): Returns the mask of participants holding an equal value. -/
  | matchG (o : Long)
  /-- ELECT (R106): Sets a predicate true for the lowest-positioned participant of the cohort. -/
  | elect (o : Long)
  /-- BRA (R107): PC-relative branch. -/
  | bra (o : Long)
  /-- BRX (R108): Indirect branch through a register, with landing check. -/
  | brx (o : Long)
  /-- LAND (R109): Marks a valid indirect target and clears the landing flag. -/
  | land (o : Short)
  /-- CALL (R107): PC-relative call that pushes the return address. -/
  | call (o : Long)
  /-- CALLX (R108): Indirect call through a register. -/
  | callx (o : Long)
  /-- RET (R110): Pops the newest return-stack entry into PC. -/
  | ret (o : Short)
  /-- SWITCH (R111): Sends each thread to one of up to nine arms by case value. -/
  | switch (o : Long)
  /-- RECONV (R112): Waits until every live thread of the gang reaches it or exits, then merges them. -/
  | reconv (o : Short)
  /-- EXIT (R113): Parks the thread and leaves its cohort; may retire the gang. -/
  | exit (o : Short)
  /-- TAIL (R113): Parks the thread, letting the gang retire before its stores drain. -/
  | tail (o : Short)
  /-- YIELD (R114): Saves the thread if a pre-emption request is pending. -/
  | yield (o : Short)
  /-- PAUSE (R115): Lowers the thread's issue class for 64 cycles. -/
  | pause (o : Short)
  /-- NOP_A (R116): 32-bit form that does nothing. -/
  | nopA (o : Short)
  /-- NOP (R116): 64 or 96-bit form that does nothing. -/
  | nop (o : Long)
  /-- TRAP (R117): Raises TRAP_INSTR with IMM8 in the record. -/
  | trap (o : Short)
  /-- BKPT (R117): Raises BREAKPOINT with IMM8 in the record. -/
  | bkpt (o : Short)
  /-- HRET (R119): Returns from the in-context handler according to ACTION. -/
  | hret (o : Short)
  /-- FADD_A (R122): 32-bit form: F32 DST := DST + SRC, RNE. -/
  | faddA (o : Short)
  /-- FADD (R122): Long-form F32 add. -/
  | fadd (o : Long)
  /-- FSUB_A (R122): 32-bit form: F32 DST := DST - SRC. -/
  | fsubA (o : Short)
  /-- FSUB (R122): Long-form F32 subtract. -/
  | fsub (o : Long)
  /-- FMUL_A (R122): 32-bit form: F32 DST := DST x SRC. -/
  | fmulA (o : Short)
  /-- FMUL (R122): Long-form F32 multiply. -/
  | fmul (o : Long)
  /-- FFMA (R122): Fused F32 a x b + c with one rounding. -/
  | ffma (o : Long)
  /-- FMIN_A (R124): 32-bit form: F32 minimum. -/
  | fminA (o : Short)
  /-- FMIN (R124): Long-form F32 minimum. -/
  | fmin (o : Long)
  /-- FMAX_A (R124): 32-bit form: F32 maximum. -/
  | fmaxA (o : Short)
  /-- FMAX (R124): Long-form F32 maximum. -/
  | fmax (o : Long)
  /-- FSET (R125): Compares F32 operands and writes a predicate. -/
  | fset (o : Long)
  /-- FRCP_A (R126): 32-bit form: correctly rounded 1 / SRC. -/
  | frcpA (o : Short)
  /-- FRCP (R126): B-form reciprocal. -/
  | frcp (o : Long)
  /-- FRSQ_A (R126): 32-bit form: reciprocal square root. -/
  | frsqA (o : Short)
  /-- FRSQ (R126): B-form reciprocal square root. -/
  | frsq (o : Long)
  /-- FSQRT_A (R126): 32-bit form: square root. -/
  | fsqrtA (o : Short)
  /-- FSQRT (R126): B-form square root. -/
  | fsqrt (o : Long)
  /-- FDIV_A (R126): 32-bit form: DST := DST / SRC. -/
  | fdivA (o : Short)
  /-- FDIV (R126): B or BI-form F32 division. -/
  | fdiv (o : Long)
  /-- FEX2_A (R126): 32-bit form: 2 to the power SRC. -/
  | fex2A (o : Short)
  /-- FEX2 (R126): B-form base-2 exponential. -/
  | fex2 (o : Long)
  /-- FLG2_A (R126): 32-bit form: base-2 logarithm. -/
  | flg2A (o : Short)
  /-- FLG2 (R126): B-form base-2 logarithm. -/
  | flg2 (o : Long)
  /-- FSIN_A (R126): 32-bit form: sine. -/
  | fsinA (o : Short)
  /-- FSIN (R126): B-form sine. -/
  | fsin (o : Long)
  /-- FCOS_A (R126): 32-bit form: cosine. -/
  | fcosA (o : Short)
  /-- FCOS (R126): B-form cosine. -/
  | fcos (o : Long)
  /-- FRND_A (R129): 32-bit form: rounds to an integral F32 value. -/
  | frndA (o : Short)
  /-- FRND (R129): B-form round to integral. -/
  | frnd (o : Long)
  /-- FFRC_A (R129): 32-bit form: fractional part a - floor(a). -/
  | ffrcA (o : Short)
  /-- FFRC (R129): B-form fractional part. -/
  | ffrc (o : Long)
  /-- FCLASS_A (R130): 32-bit form: writes a one-hot class mask of SRC. -/
  | fclassA (o : Short)
  /-- FCLASS (R130): B-form classification. -/
  | fclass (o : Long)
  /-- FSCALE (R131): Scales an F32 value by 2^n, optionally adding SC. -/
  | fscale (o : Long)
  /-- FQNT (R131): Quantises an F32 value to int64 on a common grid. -/
  | fqnt (o : Long)
  /-- FDEQ (R131): Dequantises an int64 value to F32. -/
  | fdeq (o : Long)
  /-- DADD (R122): F64 add. -/
  | dadd (o : Long)
  /-- DMUL (R122): F64 multiply. -/
  | dmul (o : Long)
  /-- DFMA (R122): Fused F64 multiply-add. -/
  | dfma (o : Long)
  /-- DMIN (R124): F64 minimum. -/
  | dmin (o : Long)
  /-- DMAX (R124): F64 maximum. -/
  | dmax (o : Long)
  /-- DSET (R125): Compares F64 operands and writes a predicate. -/
  | dset (o : Long)
  /-- DDIV (R126): F64 division. -/
  | ddiv (o : Long)
  /-- DSQRT (R126): F64 square root. -/
  | dsqrt (o : Long)
  /-- DFRND (R129): Rounds an F64 value to integral. -/
  | dfrnd (o : Long)
  /-- HADD2 (R122): Packed 16-bit add per element. -/
  | hadd2 (o : Long)
  /-- HMUL2 (R122): Packed 16-bit multiply per element. -/
  | hmul2 (o : Long)
  /-- HFMA2 (R122): Packed 16-bit fused multiply-add. -/
  | hfma2 (o : Long)
  /-- HMIN2 (R124): Packed 16-bit minimum. -/
  | hmin2 (o : Long)
  /-- HMAX2 (R124): Packed 16-bit maximum. -/
  | hmax2 (o : Long)
  /-- HSET2 (R125): Compares packed 16-bit elements into two predicates. -/
  | hset2 (o : Long)
  /-- CVT (R132): Converts one value between types. -/
  | cvt (o : Long)
  /-- PACK (R134): Narrows registers into one packed register. -/
  | pack (o : Long)
  /-- UNPK (R134): Widens packed elements into registers. -/
  | unpk (o : Long)
  /-- TAGSET (R135): Copies a value and sets its format tag. -/
  | tagset (o : Long)
  /-- TAGGET (R135): Reads the format tag of a register. -/
  | tagget (o : Long)
  /-- DOT4 (R137): Four-element narrow dot product with exact sum and one rounding. -/
  | dot4 (o : Long)
  /-- DOT8 (R137): Eight-element narrow dot product. -/
  | dot8 (o : Long)
  /-- RNGC (R138): Evaluates Philox-4x32-10 on a key and counter. -/
  | rngc (o : Long)
  /-- RNGF (R140): Turns generator words into uniform or normal F32 values. -/
  | rngf (o : Long)
  /-- LD (R148): Loads from memory into registers with the type's tag. -/
  | ld (o : Long)
  /-- ST (R148): Stores register data to memory, optionally masked. -/
  | st (o : Long)
  /-- LDK (R153): Loads team-uniform k registers from memory. -/
  | ldk (o : Long)
  /-- PREF (R154): Prefetches lines toward the core. -/
  | pref (o : Long)
  /-- CCHK (R155): Reports what an access to an address would meet. -/
  | cchk (o : Long)
  /-- STN4 (R152): Stores one 4-bit element atomically. -/
  | stn4 (o : Long)
  /-- ATOM (R158): Integer atomic read-modify-write at the home, returning the old value. -/
  | atom (o : Long)
  /-- CAS (R160): Compare and swap. -/
  | cas (o : Long)
  /-- FATOM (R161): Floating-point atomic add, min or max. -/
  | fatom (o : Long)
  /-- RED (R159): Atomic reduction without a result. -/
  | red (o : Long)
  /-- FENCE (R163): Performs the release and/or acquire part without an access. -/
  | fence (o : Long)
  /-- FLUSH_ICACHE (R164): Invalidates instruction-cache lines of a range at a scope. -/
  | flushIcache (o : Long)
  /-- FLUSH_NEAR (R164): Writes through and invalidates near-cache lines of a range. -/
  | flushNear (o : Long)
  /-- FLUSH_WCB (R164): Drains every write-combining buffer entry of the core. -/
  | flushWcb (o : Long)
  /-- SWARM (R166): Arms a sync word with a target. -/
  | swarm (o : Long)
  /-- SWWAIT (R166): Waits until a sync word's generation differs from an expected one. -/
  | swwait (o : Long)
  /-- SWADD (R166): Adds a byte count to a sync word, completing a generation at the target. -/
  | swadd (o : Long)
  /-- SWREAD (R166): Reads the 16 bytes of a sync word. -/
  | swread (o : Long)
  /-- BAR_INIT (R177): Sets a barrier's expected arrivals and clears its phase counts. -/
  | barInit (o : Long)
  /-- BAR_EXP (R177): Sets a barrier's byte target. -/
  | barExp (o : Long)
  /-- BAR_ARV (R177): Arrives at a barrier and returns the phase parity. -/
  | barArv (o : Long)
  /-- BAR_WAIT (R177): Waits until a barrier phase ends. -/
  | barWait (o : Long)
  /-- BAR_SYNC (R177): Arrives at a barrier and waits for the phase to complete. -/
  | barSync (o : Long)
  /-- BAR_TEST (R177): Tests whether a barrier phase has ended. -/
  | barTest (o : Long)
  /-- MMA (R182): Creates a matrix operation token from an MPB. -/
  | mma (o : Long)
  /-- MMAC (R183): Resumes a split matrix operation from its continuation block. -/
  | mmac (o : Long)
  /-- ACCRD (R185): Reads one accumulator entry. -/
  | accrd (o : Long)
  /-- ACCWR (R185): Writes one accumulator entry. -/
  | accwr (o : Long)
  /-- ACCCLR (R185): Clears accumulator rows or a tile. -/
  | accclr (o : Long)
  /-- ACCST (R186): Stores accumulator rows to memory with conversion. -/
  | accst (o : Long)
  /-- COPY (R188): Contributes a slice to a team-collective copy collection. -/
  | copy (o : Long)
  /-- COPYT (R188): Contributes a tiled slice described by a TLR. -/
  | copyt (o : Long)
  /-- COLL (R193): Issues one rank's collective from a CDB. -/
  | coll (o : Long)
  /-- SIREG (R200): Registers a held block in the SIT. -/
  | sireg (o : Long)
  /-- SIDROP (R201): Removes one side-information entry by id. -/
  | sidrop (o : Long)
  /-- SIDROP_ALL (R201): Removes every side-information entry of the context on the core. -/
  | sidropAll (o : Long)
  /-- TKWAIT (R205): Waits until a token is terminal or GONE. -/
  | tkwait (o : Long)
  /-- TKTEST (R205): Returns a token's result word at once. -/
  | tktest (o : Long)
  /-- TKCANCEL (R206): Asks a token's operation to stop. -/
  | tkcancel (o : Long)
  /-- TKDETACH (R207): Hands an attached token to the team's grid. -/
  | tkdetach (o : Long)
  /-- TKADOPT (R207): Attaches a detached token to the issuing team. -/
  | tkadopt (o : Long)
  /-- TKPRIO (R208): Sets a token's priority. -/
  | tkprio (o : Long)
  /-- TKDEP_ADD (R209): Adds a dependency to a held token. -/
  | tkdepAdd (o : Long)
  /-- TKDEP_REL (R209): Clears HOLD on a token. -/
  | tkdepRel (o : Long)
  /-- TKINFO (R210): Reads 16 bytes of a token's fault record. -/
  | tkinfo (o : Long)
  /-- MFLIP (R211): Publishes a mirror buffer page by flipping its selector. -/
  | mflip (o : Long)
  /-- LAUNCH (R214): Launches a child grid from an LRC, trapping if no room. -/
  | launch (o : Long)
  /-- LAUNCH_TRY (R214): Launches a child grid, reporting failure in a predicate. -/
  | launchTry (o : Long)
  /-- JOIN (R215): Waits for a child grid to retire. -/
  | join (o : Long)
  /-- JOIN_ALL (R215): Waits for every grid launched by the team to retire. -/
  | joinAll (o : Long)
  /-- JOIN_RNG (R215): Waits for a range to complete. -/
  | joinRng (o : Long)
  /-- RTSUB (R216): Submits a range to the chip's task pool. -/
  | rtsub (o : Long)
  /-- RTGET (R217): Hands the thread a piece of a range, halving another share if needed. -/
  | rtget (o : Long)
  /-- RTDONE (R218): Reports a finished piece of a range. -/
  | rtdone (o : Long)
  /-- QNOTE (R219): Rings a device queue after a .sy release. -/
  | qnote (o : Long)
  /-- DVNEW (R223): Creates a child device from a grant block. -/
  | dvnew (o : Long)
  /-- DVGRANT (R223): Replaces a child's grant as a whole. -/
  | dvgrant (o : Long)
  /-- DVFEAT (R224): Sets a child's feature mask. -/
  | dvfeat (o : Long)
  /-- DVFRZ (R225): Freezes a child's subtree. -/
  | dvfrz (o : Long)
  /-- DVTHAW (R225): Removes the caller's freeze of a child. -/
  | dvthaw (o : Long)
  /-- DVCKPT (R225): Writes a saved-context image of a child's subtree. -/
  | dvckpt (o : Long)
  /-- DVREVOKE (R349): Tears down a child's subtree in six steps. -/
  | dvrevoke (o : Long)
  /-- DVINV (R226): Invalidates Collimator entries for a range. -/
  | dvinv (o : Long)
  /-- HQBIND (R227): Makes the team the handler team for a child or all children. -/
  | hqbind (o : Long)
  /-- HQBIND_OFF (R227): Ends the team's handler binding. -/
  | hqbindOff (o : Long)
  /-- HQPOP (R227): Pops a queued handler-queue entry if one exists. -/
  | hqpop (o : Long)
  /-- HQPOP_WAIT (R227): Waits for and pops a handler-queue entry. -/
  | hqpopWait (o : Long)
  /-- HQRET (R346): Answers a handler-queue entry with replay, skip or kill. -/
  | hqret (o : Long)
  /-- RDSR (R228): Reads a special register. -/
  | rdsr (o : Long)
  /-- WRSR (R228): Writes a special register. -/
  | wrsr (o : Long)
  /-- RDCNT (R229): Reads a 64-bit counter. -/
  | rdcnt (o : Long)
  /-- TEAM_END (R239): A retired team's stores, tokens and children drain and its resources are freed. -/
  | teamEnd (team : Nat)
  /-- BARRIER_STALL (R242): A wait at a barrier, reconv or swwait reaches sr.bwd cycles and traps. -/
  | barrierStall (team tid : Nat)
  /-- STARVATION_PREEMPTION (R321): A context with D > 0 unplaced for 54,000 cycles causes a pre-emption request. -/
  | starvationPreemption (asid : Nat)
  /-- FORCED_SAVE (R246): The pre-emption deadline expires and the remaining threads are saved by force. -/
  | forcedSave (core asid : Nat)
  /-- TEAM_PLACEMENT (R324): The leaf controller checks resources and places a team's gangs on a core. -/
  | teamPlacement (grid : Nat)
  /-- TEAM_RESTORE (R248): A saved team is restored on a granted core. -/
  | teamRestore (team : Nat)
  /-- SCHEDULER_ROUND (R320): A deficit round begins and every active context adds its allowance. -/
  | schedulerRound
  /-- WCB_AGEING_DRAIN (R156): A write-combining entry reaches the ageing limit and drains as one fabric write. -/
  | wcbAgeingDrain (core entry : Nat)
  /-- TOKEN_START (R281): A PENDING token whose conditions all hold starts RUNNING. -/
  | tokenStart (core slot : Nat)
  /-- K_BLOCK_END (R295): A matrix k-block ends and its sums enter the entries together. -/
  | kBlockEnd (core slot : Nat)
  /-- SECTOR_ACKNOWLEDGED (R299): A tile-walk sector's write is acknowledged and its bytes are counted. -/
  | sectorAcknowledged (core slot slice sector : Nat)
  /-- COLL_CHUNK_END (R290): A collective chunk ends on every rank; cancels and faults take effect there. -/
  | collChunkEnd (core slot : Nat) (remote : List RemoteRank)
  /-- SHUFFLE_SEND_PHASE (R368): Every rank has issued and every announcement is acknowledged, so sending begins. -/
  | shuffleSendPhase (core slot : Nat)
  /-- PRISM_GROUP_TIMEOUT (R369): 128 cycles after a head segment, the Prism sends its group as it stands. -/
  | prismGroupTimeout (port : Nat)
  /-- SCRUB (R396): The scrubber reads and corrects a line or array. -/
  | scrub (at_ : ErrPlace) (bad : Bool)
  /-- FLIT_RECEIVE (R355): A flit arrives, is checked and acknowledged, or replay is requested. -/
  | flitReceive (port : Nat) (f : Flit)
  /-- LOSS_OF_LOCK (R355): A receiver loses lock for 10 us and the link is declared failed. -/
  | lossOfLock (port : Nat)
  /-- LINK_RETRAIN (R364): A failed link retrains and posts a link-up notice. -/
  | linkRetrain (port peer : Nat)
  /-- WR_PACKET (R357): A remote write packet arrives and is performed at its home. -/
  | wrPacket (port : Nat) (p : Packet)
  /-- RD_PACKET (R357): A remote read packet arrives and is answered. -/
  | rdPacket (port : Nat) (p : Packet)
  /-- RR_PACKET (R357): A read reply arrives and is matched to its request. -/
  | rrPacket (port : Nat) (p : Packet)
  /-- AT_PACKET (R357): An atomic or sync-word packet arrives and is performed. -/
  | atPacket (port : Nat) (p : Packet)
  /-- AR_PACKET (R357): An atomic reply arrives with the old value. -/
  | arPacket (port : Nat) (p : Packet)
  /-- ACK_PACKET (R357): A write acknowledgement arrives. -/
  | ackPacket (port : Nat) (p : Packet)
  /-- CSB_PACKET (R374): A coded shuffle packet arrives and is decoded at each destination core. -/
  | csbPacket (port : Nat) (p : Packet)
  /-- USB_PACKET (R374): An uncoded shuffle segment arrives and is delivered. -/
  | usbPacket (port : Nat) (p : Packet)
  /-- RSD_PACKET (R375): A resend request arrives and the segment is resent uncoded. -/
  | rsdPacket (port : Nat) (p : Packet)
  /-- HAVE_PACKET (R368): A side-information announcement or withdrawal updates the have-table. -/
  | havePacket (port : Nat) (p : Packet)
  /-- SACK_PACKET (R375): A shuffle segment acknowledgement arrives at the sender. -/
  | sackPacket (port : Nat) (p : Packet)
  /-- CTL_PACKET (R357): A firmware command packet arrives between chips. -/
  | ctlPacket (port : Nat) (p : Packet)
  /-- REPLY_RESERVATION_TIMEOUT (R361): A reply reservation is released 1 ms after its tag is revoked. -/
  | replyReservationTimeout (core : Nat) (seq : Nat)
  /-- PATH_HOLD_TIMEOUT (R398): An access held 1 ms without a path ends with DATA_FAULT. -/
  | pathHoldTimeout (peer : Nat)
  /-- DBELL (R315): A host write to DBELL rings a queue. -/
  | dbell (fn : Nat) (data : W32)
  /-- QUEUE_READ (R316): The scheduler reads and consumes a queue's packets. -/
  | queueRead (asid queue : Nat)
  /-- ATS_TRANSLATION_COMPLETION (R389): A host ATS translation returns for waiting accesses. -/
  | atsTranslationCompletion (rq : AtsReq) (rd wr : Bool)
  /-- PAGE_REQUEST_RESPONSE (R389): A Page Request Group response arrives; success replays, failure ends service. -/
  | pageRequestResponse (fn index : Nat) (code : PrgCode)
  /-- ATS_INVALIDATE_REQUEST (R389): A host ATS Invalidate Request completes once old translations are drained. -/
  | atsInvalidateRequest (rq : AtsReq) (pages : Nat)
  /-- NRESP (R393): A write to NRESP answers a notice as hqret by the root. -/
  | nresp (port : Port) (data : W64)
  /-- S0INVGO (R393): Writing 1 acts as dvinv by the root over S0INVA and S0INVL. -/
  | s0invgo (port : Port) (data : W32)
  /-- NRCTL (R393): A write to NRCTL sets EN and LOG and clears LOST. -/
  | nrctl (port : Port) (data : W32)
  /-- FUNCTION_LEVEL_RESET (R351): An FLR of a virtual function revokes its bound child. -/
  | functionLevelReset (vf : Nat)
  /-- HOST_MEMORY_ACCESS (R276): A host PCIe access to device memory arrives at the line's home. -/
  | hostMemoryAccess (acc : HostAccess)
  /-- SEMAPHORE_TAKE (R404): A TAKE = 1 write takes or renews a hardware semaphore. -/
  | semaphoreTake (port : Port) (n : Nat) (lease : Nat)
  /-- SEMAPHORE_RELEASE (R404): A TAKE = 0 write releases a semaphore owned by the port. -/
  | semaphoreRelease (port : Port) (n : Nat)
  /-- SEMAPHORE_LEASE_EXPIRY (R404): A semaphore lease expires and OWNER becomes 0. -/
  | semaphoreLeaseExpiry (n : Nat)
  /-- FLASH_WINDOW_WRITE (R404): A write to the flash window, ignored unless the port owns semaphore 0. -/
  | flashWindowWrite (port : Port) (obj : FlashObj) (off : Nat) (data : List Byte)
  /-- BOOTCTL_CLR (R407): Writing CLR clears ATT and LAST. -/
  | bootctlClr (port : Port)
  /-- BOOTCTL_RST (R407): Writing RST resets the module. -/
  | bootctlRst (port : Port) (both : Bool)
  /-- START (R407): The module runs its start steps after a reset. -/
  | start (r : StartInput)
  /-- WDOG (R407): A start not reaching step 8 within 30 s fails. -/
  | wdog
  /-- PCIE_FUNDAMENTAL_RESET (R407): A PCIe fundamental reset resets the module. -/
  | pcieFundamentalReset
  /-- SIDEBAND_RESET (R407): The sideband reset on the management connector resets the module. -/
  | sidebandReset
  /-- STANDBY_POWER_REMOVAL (R407): Removing standby power clears the retained domain. -/
  | standbyPowerRemoval
  /-- CHECKPOINT_SAVE (R410): GO with OP 0 freezes all contexts and writes the module checkpoint. -/
  | checkpointSave (port : Port) (data : W32)
  /-- CHECKPOINT_RESTORE (R410): GO with OP 1 restores memories and the tree from a checkpoint. -/
  | checkpointRestore (port : Port) (data : W32)
  /-- CHECKPOINT_THAW (R409): GO with OP 2 thaws the module after a save. -/
  | checkpointThaw (port : Port) (data : W32)
  /-- GET_VERSION (R408): SPDM request answered with supported versions. -/
  | getVersion (port : Port)
  /-- GET_CAPABILITIES (R408): SPDM request answered with capabilities. -/
  | getCapabilities (port : Port)
  /-- NEGOTIATE_ALGORITHMS (R408): SPDM request selecting Ed448 and SHAKE256. -/
  | negotiateAlgorithms (port : Port) (sig hash : Nat)
  /-- GET_DIGESTS (R408): SPDM request for certificate chain digests. -/
  | getDigests (port : Port)
  /-- GET_CERTIFICATE (R408): SPDM request for the slot 0 certificate chain. -/
  | getCertificate (port : Port) (slot off len : Nat)
  /-- CHALLENGE (R408): SPDM challenge answered with an alias-key signature. -/
  | challenge (port : Port) (slot : Nat) (nonce : List Byte)
  /-- GET_MEASUREMENTS (R408): SPDM request for measurements 1 to 5. -/
  | getMeasurements (port : Port) (index : Nat) (nonce : List Byte)
  /-- POWER_LIMIT_INTERVAL (R416): Each 1 ms power average adjusts the clock against PLIM and temperature. -/
  | powerLimitInterval (watts celsius : Nat)
  /-- THERMAL_TRIP (R416): A junction at or above 115 C for 10 ms removes power. -/
  | thermalTrip
  /-- REGISTER_WRITE (R403): A control-port write to a register with no behaviour of its own. -/
  | registerWrite (port : Port) (off : Nat) (data : W64)
  /-- PENDING_WRITE_COMPLETION (R69): The pending register or predicate write of a variable-latency instruction (load, atomic, gang, transcendental) completes and its interlock clears. -/
  | pendingWriteCompletion (team tid : Nat)
  /-- ACCESS_PERFORMED (R257): A thread's store, stn4 or atomic is performed at an on-chip home, or its HBM, CXL.mem or PCIe completion returns. -/
  | accessPerformed (core idx : Nat)
  /-- CYCLE_CHARGE (R320): In each cycle every occupied core charges deficits and static energy to the contexts holding its thread slots. -/
  | cycleCharge
  /-- REVOKE_DRAIN_DEADLINE (R349): The revoke's drain deadline (the child's PDL) expires and operations still running stop at once. -/
  | revokeDrainDeadline (asid : Nat)
  /-- TIER_PORT_LOST (R411): A CXL or expander tier port is lost during a checkpoint operation, which ends failed with FCAUSE 0xFF. -/
  | tierPortLost (expander : Bool) (n : Nat)
  /-- POWER_LOSS (R411): Main power is lost while standby power may remain, stopping the module and any checkpoint in progress. -/
  | powerLoss (standby : Bool)
  /-- NOTICE_RING_TAIL (R393): A host write to TAIL frees room in the notice ring, so waiting notices of kinds 1, 2 and 10 are written. -/
  | noticeRingTail (port : Port) (data : W32)
  deriving DecidableEq, Repr

/-- What the opcode map says of an instruction: a 32-bit form, a longer form, or an event (R57 to R59, R77). -/
inductive View where
  | short (opc lat : Nat) (o : Short)
  | long  (opc lat : Nat) (rows : List (Form × List Nat)) (o : Long)
  | event
  deriving DecidableEq, Repr

end Sys2Proof
end

