-- ==== Sys2Proof/Machine/Bits.lean ====
section
/-! DEFINITION. Bit-field, sign-extension, byte-order and type-code helpers (R6, R8, R12, R34, R56, R66), and the fields of a
decoded long form under one name each (R58). -/

namespace Sys2Proof

/-! ## The fields of a long form -/

/-- The format of a long form (R59). -/
def Long.form (o : Long) : Form :=
  match o.tail with
  | .b .. => .b
  | .bi .. => .bi
  | .c .. => .c
  | .cm .. => .cm
  | .l .. => .l

/-- MOD; a BI form has none and takes its zero meaning (R59). -/
def Long.mod (o : Long) : BitVec 6 :=
  match o.tail with
  | .b m _ => m
  | .bi _ => 0
  | .c _ m _ _ _ _ => m
  | .cm _ m _ _ => m
  | .l _ m _ _ _ _ _ => m

/-- SB; zero in a BI form. -/
def Long.sb (o : Long) : BitVec 10 :=
  match o.tail with
  | .b _ s => s
  | .bi _ => 0
  | .c _ _ s _ _ _ => s
  | .cm _ _ s _ => s
  | .l _ _ s _ _ _ _ => s

/-- The IMM16 of a BI form, or of word 2 of a C or L form. -/
def Long.imm (o : Long) : BitVec 16 :=
  match o.tail with
  | .b .. => 0
  | .bi i => i
  | .c _ _ _ i _ _ => i
  | .cm .. => 0
  | .l _ _ _ i _ _ _ => i

/-- MODB of a C or L form. -/
def Long.modb (o : Long) : BitVec 6 :=
  match o.tail with
  | .c _ _ _ _ m _ => m
  | .l _ _ _ _ m _ _ => m
  | _ => 0

/-- SC of a C or L form. -/
def Long.sc (o : Long) : BitVec 10 :=
  match o.tail with
  | .c _ _ _ _ _ s => s
  | .l _ _ _ _ _ s _ => s
  | _ => 0

/-- The literal of an L form. -/
def Long.lit (o : Long) : W64 :=
  match o.tail with
  | .l _ _ _ _ _ _ v => v
  | _ => 0

/-- The byte offset of a memory form: OFF32, or IMM16 in the BI form (R142), sign-extended. -/
def Long.off (o : Long) : W64 :=
  match o.tail with
  | .cm _ _ _ f => f.signExtend 64
  | .bi i => i.signExtend 64
  | _ => 0

/-- The IMF bit of a 96- or 160-bit form. -/
def Long.imf (o : Long) : Bool :=
  match o.tail with
  | .c f .. => f
  | .cm f .. => f
  | .l f .. => f
  | _ => false

/-- TRI, MODB bit 0 (R85). -/
def Long.tri (o : Long) : Bool := o.modb.getLsbD 0

/-- The rounding code, MOD bits [2:0] (R62). -/
def Long.rnd (o : Long) : Nat := o.mod.toNat % 8

/-- NA and NB, MOD bits 3 and 4 (R120). -/
def Long.na (o : Long) : Bool := o.mod.getLsbD 3
def Long.nb (o : Long) : Bool := o.mod.getLsbD 4

/-- Order and scope codes of a memory form, MOD bits [2:0] and [4:3] (R142). -/
def Long.order (o : Long) : Nat := o.mod.toNat % 8
def Long.scope (o : Long) : BitVec 2 := o.mod.extractLsb' 3 2
/-- MOD bit 5. -/
def Long.flag (o : Long) : Bool := o.mod.getLsbD 5

/-- Words of the form (R56, R59). -/
def Form.words (f : Form) : Nat :=
  match f with
  | .b => 2
  | .bi => 2
  | .c => 3
  | .cm => 3
  | .l => 5

/-! ## Type codes (R66) -/

/-- The type occupies a register pair. -/
def ty64 (t : BitVec 6) : Bool := t == 0x02 || t == 0x03 || t == 0x0B || t == 0x11

/-- An `.i` type. -/
def tySigned (t : BitVec 6) : Bool := t == 0x00 || t == 0x02 || t == 0x04 || t == 0x06

/-- Width in bits of the types, 128 for `.b128`. -/
def tyBits (t : BitVec 6) : Nat :=
  if ty64 t then 64
  else if t == 0x0C then 128
  else if t == 0x04 || t == 0x05 || t == 0x09 then 16
  else if t == 0x06 || t == 0x07 || t == 0x08 then 8
  else 32

/-! ## Words and bytes -/

/-- Bits [hi:lo] of a natural number. -/
def bitsAt (n hi lo : Nat) : Nat := n / 2 ^ lo % 2 ^ (hi + 1 - lo)

/-- A two's complement reading of the low w bits. -/
def toSigned (w n : Nat) : Int :=
  let m := n % 2 ^ w
  if m < 2 ^ (w - 1) then (m : Int) else (m : Int) - (2 : Int) ^ w

/-- The low w bits of an integer, as a natural number. -/
def wrapTo (w : Nat) (z : Int) : Nat := (z % (2 : Int) ^ w).toNat

/-- Little-endian bytes of a number (R8): n bytes, lowest first. -/
def natBytes : Nat → Nat → List Byte
  | 0, _ => []
  | n + 1, v => BitVec.ofNat 8 v :: natBytes n (v / 256)

/-- The number that little-endian bytes hold (R8). -/
def bytesNat : List Byte → Nat
  | [] => 0
  | b :: r => b.toNat + 256 * bytesNat r

/-- The 32-bit word of four bytes, and a whole stream of words (R56). -/
def bytesWords : List Byte → List W32
  | a :: b :: c :: d :: r => BitVec.ofNat 32 (bytesNat [a, b, c, d]) :: bytesWords r
  | _ => []

/-- n words of a number, bit 0 in the first. -/
def natWords : Nat → Nat → List W32
  | 0, _ => []
  | n + 1, v => BitVec.ofNat 32 v :: natWords n (v / 2 ^ 32)

/-- Low and high halves of a 64-bit value (R18). -/
def lo32 (v : W64) : W32 := v.extractLsb' 0 32
def hi32 (v : W64) : W32 := v.extractLsb' 32 32
def cat64 (lo hi : W32) : W64 := hi ++ lo

/-- The values 0 to n - 1 paired with list elements, and plain replacement helpers on association lists. -/
def setAt {α : Type} (l : List α) (i : Nat) (v : α) : List α := l.set i v

/-- Drop every pair with the key, then add the new one in front. -/
def putKey {β : Type} (l : List (Nat × β)) (k : Nat) (v : β) : List (Nat × β) :=
  (k, v) :: l.filter (fun p => p.1 != k)

def getKey {β : Type} (l : List (Nat × β)) (k : Nat) : Option β :=
  match l with
  | [] => none
  | (a, b) :: r => if a = k then some b else getKey r k

/-! ## Order -/

def insertBy {α : Type} (le : α → α → Bool) (x : α) : List α → List α
  | [] => [x]
  | y :: r => if le x y then x :: y :: r else y :: insertBy le x r

/-- In order, and equals as they stood. -/
def sortBy {α : Type} (le : α → α → Bool) (l : List α) : List α := l.foldr (insertBy le) []

end Sys2Proof
end

