-- ==== Sys2Proof/Machine/Forms.lean ====
section
/-! DEFINITION. The opcode map (R68, R77, R78) and the checks of a word's reserved content (R61 to R65), one entry per
instruction, as the instruction chapters give them. -/

namespace Sys2Proof

/-- SUB values of the integer and the bit types of 32 and 64 bits, and of `movi` and `movl` (R66, R96). -/
def intSubs : List Nat := [0, 1, 2, 3]
def bitSubs : List Nat := [0x0A, 0x0B]
def movSubs : List Nat := [0x00, 0x01, 0x02, 0x03, 0x0A, 0x0B, 0x10, 0x11, 0x12, 0x13, 0x14, 0x15, 0x16]

/-- A long form's formats with one list of SUB values. -/
def rowsOf (forms : List Form) (subs : List Nat) : List (Form × List Nat) := forms.map (fun f => (f, subs))

/-- An instruction's entry of the opcode map with its fields (R68, R77): major opcode, latency (0: variable), and for a
longer form the formats with the SUB values each accepts. An event has none. -/
def Instr.view (i : Instr) : View :=
  match i with
  | .iaddA o => .short 0x01 4 o
  | .iadd o => .long 0x01 4 (rowsOf [.b, .bi, .c, .l] intSubs) o
  | .isubA o => .short 0x02 4 o
  | .isub o => .long 0x02 4 (rowsOf [.b, .bi, .c, .l] intSubs) o
  | .iaddc o => .long 0x03 4 (rowsOf [.b, .c, .l] [1, 3]) o
  | .isubb o => .long 0x04 4 (rowsOf [.b, .c, .l] [1, 3]) o
  | .imulA o => .short 0x05 6 o
  | .imul o => .long 0x05 6 (rowsOf [.b, .bi, .c, .l] intSubs) o
  | .imulh o => .long 0x06 6 (rowsOf [.b, .bi, .c, .l] intSubs) o
  | .imad o => .long 0x07 6 (rowsOf [.b, .bi, .c, .l] intSubs) o
  | .iminA o => .short 0x08 4 o
  | .imin o => .long 0x08 4 (rowsOf [.b, .bi, .c, .l] intSubs) o
  | .imaxA o => .short 0x09 4 o
  | .imax o => .long 0x09 4 (rowsOf [.b, .bi, .c, .l] intSubs) o
  | .iabsA o => .short 0x0A 4 o
  | .iabs o => .long 0x0A 4 (rowsOf [.b] [0, 2]) o
  | .inegA o => .short 0x0B 4 o
  | .ineg o => .long 0x0B 4 (rowsOf [.b] [0, 2]) o
  | .iset o => .long 0x0C 4 (rowsOf [.b, .bi, .c, .l] intSubs) o
  | .andA o => .short 0x10 4 o
  | .and o => .long 0x10 4 (rowsOf [.b, .bi, .c, .l] bitSubs) o
  | .orA o => .short 0x11 4 o
  | .or o => .long 0x11 4 (rowsOf [.b, .bi, .c, .l] bitSubs) o
  | .xorA o => .short 0x12 4 o
  | .xor o => .long 0x12 4 (rowsOf [.b, .bi, .c, .l] bitSubs) o
  | .andnA o => .short 0x13 4 o
  | .andn o => .long 0x13 4 (rowsOf [.b, .bi, .c, .l] bitSubs) o
  | .notA o => .short 0x14 4 o
  | .not o => .long 0x14 4 (rowsOf [.b] bitSubs) o
  | .shlAi o => .short 0x15 4 o
  | .shl o => .long 0x15 4 (rowsOf [.b, .bi, .c] bitSubs) o
  | .shrAi o => .short 0x16 4 o
  | .shr o => .long 0x16 4 (rowsOf [.b, .bi, .c] bitSubs) o
  | .sarAi o => .short 0x17 4 o
  | .sar o => .long 0x17 4 (rowsOf [.b, .bi, .c] [0, 2]) o
  | .rolAi o => .short 0x18 4 o
  | .rol o => .long 0x18 4 (rowsOf [.b, .bi, .c] bitSubs) o
  | .rorAi o => .short 0x19 4 o
  | .ror o => .long 0x19 4 (rowsOf [.b, .bi, .c] bitSubs) o
  | .popcA o => .short 0x1A 4 o
  | .popc o => .long 0x1A 4 (rowsOf [.b] bitSubs) o
  | .clzA o => .short 0x1B 4 o
  | .clz o => .long 0x1B 4 (rowsOf [.b] bitSubs) o
  | .ctzA o => .short 0x1C 4 o
  | .ctz o => .long 0x1C 4 (rowsOf [.b] bitSubs) o
  | .brevA o => .short 0x1D 4 o
  | .brev o => .long 0x1D 4 (rowsOf [.b] bitSubs) o
  | .bfx o => .long 0x1E 4 (rowsOf [.b, .bi, .c, .l] intSubs) o
  | .bfi o => .long 0x1F 4 (rowsOf [.b, .bi, .c, .l] bitSubs) o
  | .prmt o => .long 0x20 4 (rowsOf [.b, .bi, .c, .l] [0x0A]) o
  | .sel o => .long 0x21 4 (rowsOf [.b, .c, .l] bitSubs) o
  | .movA o => .short 0x28 4 o
  | .mov o => .long 0x28 4 (rowsOf [.b] [0x0A, 0x0B, 0x0C]) o
  | .moviAi o => .short 0x29 4 o
  | .movi o => .long 0x29 4 (rowsOf [.bi] movSubs) o
  | .movl o => .long 0x2A 4 (rowsOf [.l] movSubs) o
  | .lea o => .long 0x2B 4 (rowsOf [.b, .bi, .c, .l] [0, 1, 2]) o
  | .pand o => .long 0x40 2 (rowsOf [.b] [0]) o
  | .por o => .long 0x41 2 (rowsOf [.b] [0]) o
  | .pxor o => .long 0x42 2 (rowsOf [.b] [0]) o
  | .pnot o => .long 0x43 2 (rowsOf [.b] [0]) o
  | .pmov o => .long 0x44 2 (rowsOf [.b] [0]) o
  | .pmovSave o => .long 0x44 2 (rowsOf [.b] [1]) o
  | .pmovLoad o => .long 0x44 2 (rowsOf [.b] [2]) o
  | .vote o => .long 0x48 0 (rowsOf [.b, .c] intSubs) o
  | .shfl o => .long 0x49 0 (rowsOf [.b, .bi, .c] intSubs) o
  | .gred o => .long 0x4A 0 (rowsOf [.b, .c] [0, 1, 2, 3, 0x10]) o
  | .gscan o => .long 0x4B 0 (rowsOf [.b, .c] [0, 1, 2, 3, 0x10]) o
  | .matchG o => .long 0x4C 0 (rowsOf [.b, .c] bitSubs) o
  | .elect o => .long 0x4D 0 (rowsOf [.b] [0]) o
  | .bra o => .long 0x50 0 (rowsOf [.bi, .cm] [0]) o
  | .brx o => .long 0x51 0 (rowsOf [.b] [0]) o
  | .land o => .short 0x52 0 o
  | .call o => .long 0x53 0 (rowsOf [.bi, .cm] [0]) o
  | .callx o => .long 0x54 0 (rowsOf [.b] [0]) o
  | .ret o => .short 0x55 0 o
  | .switch o => .long 0x56 0 (rowsOf [.c, .l] [0]) o
  | .reconv o => .short 0x57 0 o
  | .exit o => .short 0x58 0 o
  | .tail o => .short 0x59 0 o
  | .yield o => .short 0x5A 0 o
  | .pause o => .short 0x5B 0 o
  | .nopA o => .short 0x5C 0 o
  | .nop o => .long 0x5C 0 (rowsOf [.b, .c] [0]) o
  | .trap o => .short 0x5D 0 o
  | .bkpt o => .short 0x5E 0 o
  | .hret o => .short 0x5F 0 o
  | .faddA o => .short 0x60 4 o
  | .fadd o => .long 0x60 4 (rowsOf [.b, .bi, .c, .l] [0x10]) o
  | .fsubA o => .short 0x61 4 o
  | .fsub o => .long 0x61 4 (rowsOf [.b, .bi, .c, .l] [0x10]) o
  | .fmulA o => .short 0x62 4 o
  | .fmul o => .long 0x62 4 (rowsOf [.b, .bi, .c, .l] [0x10]) o
  | .ffma o => .long 0x63 4 (rowsOf [.c, .l] [0x10]) o
  | .fminA o => .short 0x64 4 o
  | .fmin o => .long 0x64 4 (rowsOf [.b, .bi, .c, .l] [0x10]) o
  | .fmaxA o => .short 0x65 4 o
  | .fmax o => .long 0x65 4 (rowsOf [.b, .bi, .c, .l] [0x10]) o
  | .fset o => .long 0x66 4 (rowsOf [.b, .bi, .c, .l] [0x10]) o
  | .frcpA o => .short 0x67 0 o
  | .frcp o => .long 0x67 0 (rowsOf [.b] [0x10]) o
  | .frsqA o => .short 0x68 0 o
  | .frsq o => .long 0x68 0 (rowsOf [.b] [0x10]) o
  | .fsqrtA o => .short 0x69 0 o
  | .fsqrt o => .long 0x69 0 (rowsOf [.b] [0x10]) o
  | .fdivA o => .short 0x6A 0 o
  | .fdiv o => .long 0x6A 0 (rowsOf [.b, .bi] [0x10]) o
  | .fex2A o => .short 0x6B 0 o
  | .fex2 o => .long 0x6B 0 (rowsOf [.b] [0x10]) o
  | .flg2A o => .short 0x6C 0 o
  | .flg2 o => .long 0x6C 0 (rowsOf [.b] [0x10]) o
  | .fsinA o => .short 0x6D 0 o
  | .fsin o => .long 0x6D 0 (rowsOf [.b] [0x10]) o
  | .fcosA o => .short 0x6E 0 o
  | .fcos o => .long 0x6E 0 (rowsOf [.b] [0x10]) o
  | .frndA o => .short 0x6F 4 o
  | .frnd o => .long 0x6F 4 (rowsOf [.b] [0x10]) o
  | .ffrcA o => .short 0x70 4 o
  | .ffrc o => .long 0x70 4 (rowsOf [.b] [0x10]) o
  | .fclassA o => .short 0x71 4 o
  | .fclass o => .long 0x71 4 (rowsOf [.b] [0x10]) o
  | .fscale o => .long 0x72 4 (rowsOf [.b, .bi, .c] [0x10]) o
  | .fqnt o => .long 0x73 4 (rowsOf [.b, .bi, .c] [0x10]) o
  | .fdeq o => .long 0x74 4 (rowsOf [.b, .bi, .c] [0x10]) o
  | .dadd o => .long 0x78 8 (rowsOf [.b, .bi, .c, .l] [0x11]) o
  | .dmul o => .long 0x79 8 (rowsOf [.b, .bi, .c, .l] [0x11]) o
  | .dfma o => .long 0x7A 8 (rowsOf [.c, .l] [0x11]) o
  | .dmin o => .long 0x7B 8 (rowsOf [.b, .bi, .c, .l] [0x11]) o
  | .dmax o => .long 0x7C 8 (rowsOf [.b, .bi, .c, .l] [0x11]) o
  | .dset o => .long 0x7D 8 (rowsOf [.b, .bi, .c, .l] [0x11]) o
  | .ddiv o => .long 0x7E 0 (rowsOf [.b, .bi] [0x11]) o
  | .dsqrt o => .long 0x7F 0 (rowsOf [.b] [0x11]) o
  | .dfrnd o => .long 0x80 8 (rowsOf [.b] [0x11]) o
  | .hadd2 o => .long 0x88 4 (rowsOf [.b, .bi, .c, .l] [0x12, 0x13]) o
  | .hmul2 o => .long 0x89 4 (rowsOf [.b, .bi, .c, .l] [0x12, 0x13]) o
  | .hfma2 o => .long 0x8A 4 (rowsOf [.c, .l] [0x12, 0x13]) o
  | .hmin2 o => .long 0x8B 4 (rowsOf [.b, .bi, .c, .l] [0x12, 0x13]) o
  | .hmax2 o => .long 0x8C 4 (rowsOf [.b, .bi, .c, .l] [0x12, 0x13]) o
  | .hset2 o => .long 0x8D 4 (rowsOf [.b, .bi, .c, .l] [0x12, 0x13]) o
  | .cvt o => .long 0x90 4 (rowsOf [.b] [0x00, 0x01, 0x02, 0x03, 0x04, 0x05, 0x06, 0x07, 0x08, 0x09, 0x0A, 0x0B, 0x0C, 0x10, 0x11, 0x12, 0x13,
      0x14, 0x15, 0x16]) o
  | .pack o => .long 0x91 4 (rowsOf [.b, .c] [0, 1, 2, 3, 4, 5, 6, 7]) o
  | .unpk o => .long 0x92 4 (rowsOf [.b, .bi] [0, 1, 2, 3, 4, 5, 6, 7]) o
  | .tagset o => .long 0x93 4 (rowsOf [.bi] [0]) o
  | .tagget o => .long 0x94 4 (rowsOf [.b] [0]) o
  | .dot4 o => .long 0x98 6 (rowsOf [.c] [0x00, 0x01, 0x08, 0x09, 0x12]) o
  | .dot8 o => .long 0x99 6 (rowsOf [.c] [0x00, 0x09]) o
  | .rngc o => .long 0x9A 12 (rowsOf [.c] [0]) o
  | .rngf o => .long 0x9B 0 [(.b, [0, 1]), (.c, [2])] o
  | .ld o => .long 0xA0 0 (rowsOf [.bi, .cm] [0x00, 0x01, 0x02, 0x03, 0x04, 0x05, 0x06, 0x07, 0x08, 0x09, 0x0A, 0x0B, 0x0C,
      0x10, 0x11, 0x12, 0x13, 0x14, 0x15, 0x16]) o
  | .st o => .long 0xA1 0 (rowsOf [.bi, .cm] [0x00, 0x01, 0x02, 0x03, 0x04, 0x05, 0x06, 0x07, 0x08, 0x09, 0x0A, 0x0B, 0x0C,
      0x10, 0x11, 0x12, 0x13, 0x14, 0x15, 0x16]) o
  | .ldk o => .long 0xA2 0 (rowsOf [.cm] (List.range 64)) o
  | .pref o => .long 0xA3 0 (rowsOf [.bi, .cm] [0, 1]) o
  | .cchk o => .long 0xA4 0 (rowsOf [.cm] [0]) o
  | .stn4 o => .long 0xA5 0 (rowsOf [.cm] [0]) o
  | .atom o => .long 0xA8 0 (rowsOf [.cm] [0, 1, 2, 3, 4, 5, 6, 7, 8, 9, 10, 11, 12, 14, 16, 18, 20, 22, 24, 26, 29, 31, 33, 35]) o
  | .cas o => .long 0xA9 0 (rowsOf [.cm] bitSubs) o
  | .fatom o => .long 0xAA 0 (rowsOf [.cm] [0, 1, 2, 3, 4, 5, 6, 7, 8, 9, 10, 11]) o
  | .red o => .long 0xAB 0 (rowsOf [.cm] [0, 1, 2, 3, 4, 5, 6, 7, 8, 9, 10, 11, 12, 14, 16, 18, 20, 22, 29, 31, 33, 35]) o
  | .fence o => .long 0xB0 0 (rowsOf [.b] [0]) o
  | .flushIcache o => .long 0xB1 0 (rowsOf [.bi, .cm] [0]) o
  | .flushNear o => .long 0xB1 0 (rowsOf [.bi, .cm] [1]) o
  | .flushWcb o => .long 0xB1 0 (rowsOf [.bi] [2]) o
  | .swarm o => .long 0xB8 0 (rowsOf [.cm] [0]) o
  | .swwait o => .long 0xB9 0 (rowsOf [.cm] [0]) o
  | .swadd o => .long 0xBA 0 (rowsOf [.cm] [0]) o
  | .swread o => .long 0xBB 0 (rowsOf [.cm] [0]) o
  | .barInit o => .long 0xD0 0 (rowsOf [.b, .bi] [0]) o
  | .barExp o => .long 0xD0 0 (rowsOf [.b, .bi] [1]) o
  | .barArv o => .long 0xD0 0 (rowsOf [.b] [2]) o
  | .barWait o => .long 0xD0 0 (rowsOf [.b, .bi] [3]) o
  | .barSync o => .long 0xD0 0 (rowsOf [.b] [4]) o
  | .barTest o => .long 0xD0 0 (rowsOf [.b, .bi] [5]) o
  | .mma o => .long 0xD4 0 (rowsOf [.c] [0]) o
  | .mmac o => .long 0xD5 0 (rowsOf [.c] [0]) o
  | .accrd o => .long 0xD6 0 (rowsOf [.b, .c] [0x00, 0x10]) o
  | .accwr o => .long 0xD7 0 (rowsOf [.b, .c] [0x00, 0x10]) o
  | .accclr o => .long 0xD8 0 (rowsOf [.b, .bi, .c] [0x00, 0x10]) o
  | .accst o => .long 0xD9 0 (rowsOf [.b, .c] [0x00, 0x10, 0x12, 0x13, 0x14, 0x15]) o
  | .copy o => .long 0xDA 0 (rowsOf [.c] [0]) o
  | .copyt o => .long 0xDB 0 (rowsOf [.c] [0]) o
  | .coll o => .long 0xDC 0 (rowsOf [.c] [0, 1, 2, 3, 4, 5, 6]) o
  | .sireg o => .long 0xDD 0 (rowsOf [.c] [0]) o
  | .sidrop o => .long 0xDE 0 (rowsOf [.c] [0]) o
  | .sidropAll o => .long 0xDE 0 (rowsOf [.c] [1]) o
  | .tkwait o => .long 0xDF 0 (rowsOf [.b] [0]) o
  | .tktest o => .long 0xE0 0 (rowsOf [.b] [0]) o
  | .tkcancel o => .long 0xE1 0 (rowsOf [.b] [0]) o
  | .tkdetach o => .long 0xE2 0 (rowsOf [.b] [0]) o
  | .tkadopt o => .long 0xE3 0 (rowsOf [.b] [0]) o
  | .tkprio o => .long 0xE4 0 (rowsOf [.b, .bi] [0]) o
  | .tkdepAdd o => .long 0xE5 0 (rowsOf [.b] [0]) o
  | .tkdepRel o => .long 0xE5 0 (rowsOf [.b] [1]) o
  | .tkinfo o => .long 0xE6 0 (rowsOf [.b] intSubs) o
  | .mflip o => .long 0xE7 0 (rowsOf [.b] [0]) o
  | .launch o => .long 0xE8 0 (rowsOf [.c] [0]) o
  | .launchTry o => .long 0xE8 0 (rowsOf [.c] [1]) o
  | .join o => .long 0xE9 0 (rowsOf [.b] [0]) o
  | .joinAll o => .long 0xE9 0 (rowsOf [.b] [1]) o
  | .joinRng o => .long 0xE9 0 (rowsOf [.b] [2]) o
  | .rtsub o => .long 0xEA 0 (rowsOf [.c] [0]) o
  | .rtget o => .long 0xEB 0 (rowsOf [.c] [0]) o
  | .rtdone o => .long 0xEC 0 (rowsOf [.c] [0]) o
  | .qnote o => .long 0xED 0 (rowsOf [.b, .bi] [0]) o
  | .dvnew o => .long 0xEE 0 (rowsOf [.c] [0]) o
  | .dvgrant o => .long 0xEF 0 (rowsOf [.c] [0]) o
  | .dvfeat o => .long 0xF0 0 (rowsOf [.c] [0]) o
  | .dvfrz o => .long 0xF1 0 (rowsOf [.c] [0]) o
  | .dvthaw o => .long 0xF2 0 (rowsOf [.c] [0]) o
  | .dvckpt o => .long 0xF3 0 (rowsOf [.c] [0]) o
  | .dvrevoke o => .long 0xF4 0 (rowsOf [.c] [0]) o
  | .dvinv o => .long 0xF5 0 (rowsOf [.c] [0]) o
  | .hqbind o => .long 0xF6 0 (rowsOf [.b] [0]) o
  | .hqbindOff o => .long 0xF6 0 (rowsOf [.b] [1]) o
  | .hqpop o => .long 0xF7 0 (rowsOf [.b] [0]) o
  | .hqpopWait o => .long 0xF7 0 (rowsOf [.b] [1]) o
  | .hqret o => .long 0xF8 0 (rowsOf [.b, .bi] [0]) o
  | .rdsr o => .long 0xF9 0 (rowsOf [.bi] [0]) o
  | .wrsr o => .long 0xFA 0 (rowsOf [.bi] [0]) o
  | .rdcnt o => .long 0xFB 0 (rowsOf [.bi] [0]) o
  | .teamEnd _ => .event
  | .barrierStall _ _ => .event
  | .starvationPreemption _ => .event
  | .forcedSave _ _ => .event
  | .teamPlacement _ => .event
  | .teamRestore _ => .event
  | .schedulerRound => .event
  | .wcbAgeingDrain _ _ => .event
  | .tokenStart _ _ => .event
  | .kBlockEnd _ _ => .event
  | .sectorAcknowledged _ _ _ _ => .event
  | .collChunkEnd _ _ _ => .event
  | .shuffleSendPhase _ _ => .event
  | .prismGroupTimeout _ => .event
  | .scrub _ _ => .event
  | .flitReceive _ _ => .event
  | .lossOfLock _ => .event
  | .linkRetrain _ _ => .event
  | .wrPacket _ _ => .event
  | .rdPacket _ _ => .event
  | .rrPacket _ _ => .event
  | .atPacket _ _ => .event
  | .arPacket _ _ => .event
  | .ackPacket _ _ => .event
  | .csbPacket _ _ => .event
  | .usbPacket _ _ => .event
  | .rsdPacket _ _ => .event
  | .havePacket _ _ => .event
  | .sackPacket _ _ => .event
  | .ctlPacket _ _ => .event
  | .replyReservationTimeout _ _ => .event
  | .pathHoldTimeout _ => .event
  | .dbell _ _ => .event
  | .queueRead _ _ => .event
  | .atsTranslationCompletion _ _ _ => .event
  | .pageRequestResponse _ _ _ => .event
  | .atsInvalidateRequest _ _ => .event
  | .nresp _ _ => .event
  | .s0invgo _ _ => .event
  | .nrctl _ _ => .event
  | .functionLevelReset _ => .event
  | .hostMemoryAccess _ => .event
  | .semaphoreTake _ _ _ => .event
  | .semaphoreRelease _ _ => .event
  | .semaphoreLeaseExpiry _ => .event
  | .flashWindowWrite _ _ _ _ => .event
  | .bootctlClr _ => .event
  | .bootctlRst _ _ => .event
  | .start _ => .event
  | .wdog => .event
  | .pcieFundamentalReset => .event
  | .sidebandReset => .event
  | .standbyPowerRemoval => .event
  | .checkpointSave _ _ => .event
  | .checkpointRestore _ _ => .event
  | .checkpointThaw _ _ => .event
  | .getVersion _ => .event
  | .getCapabilities _ => .event
  | .negotiateAlgorithms _ _ _ => .event
  | .getDigests _ => .event
  | .getCertificate _ _ _ _ => .event
  | .challenge _ _ _ => .event
  | .getMeasurements _ _ _ => .event
  | .powerLimitInterval _ _ => .event
  | .thermalTrip => .event
  | .registerWrite _ _ _ => .event
  | .pendingWriteCompletion _ _ => .event
  | .accessPerformed _ _ => .event
  | .cycleCharge => .event
  | .revokeDrainDeadline _ => .event
  | .tierPortLost _ _ => .event
  | .powerLoss _ => .event
  | .noticeRingTail _ _ => .event

/-! ## Reserved content (R61 to R65, check 4 of R76) -/

/-- How an instruction uses a source field: not at all, as a v register, or as a v or k register (R61). -/
inductive Src where
  | no | v | vk
  deriving DecidableEq, Repr

def srcOk (u : Src) (k : Bool) (x : BitVec 10) : Bool :=
  match u with
  | .no => !k && x == 0
  | .v => !k
  | .vk => !k || x.toNat < 64

def zero6 (m : BitVec 6) : Bool := m == 0
def zero16 (i : BitVec 16) : Bool := i == 0
def any6 (_ : BitVec 6) : Bool := true
def any16 (_ : BitVec 16) : Bool := true
def below6 (n : Nat) (m : BitVec 6) : Bool := m.toNat < n
def below16 (n : Nat) (i : BitVec 16) : Bool := i.toNat < n

/-- The fields that an instruction's entry defines in one form, and the values it allows. Everything left at its default
has to be zero (R62). `lit64`: the literal is taken whole (R63). `also` is a rule over several fields. -/
structure FieldUse where
  sa    : Src := .no
  sb    : Src := .no
  sc    : Src := .no
  dst   : Bool := true
  mod   : BitVec 6 → Bool := zero6
  modb  : BitVec 6 → Bool := zero6
  imm   : BitVec 16 → Bool := zero16
  sat   : Bool := false
  lit64 : Bool := false
  also  : Bool := true

/-- The reserved-content test of R61, R62 and R63 over one long form. -/
def FieldUse.ok (u : FieldUse) (o : Long) : Bool :=
  (u.sat || !o.sat) && (u.dst || o.dst == 0) && srcOk u.sa o.ka o.sa && u.also &&
  match o.tail with
  | .b m s => !o.kc && u.mod m && srcOk u.sb o.kb s
  | .bi i => !o.kc && !o.kb && u.imm i
  | .c f m s i mb sc => !f && u.mod m && srcOk u.sb o.kb s && u.imm i && u.modb mb && srcOk u.sc o.kc sc
  | .cm f m s _ => !f && !o.kc && u.mod m && srcOk u.sb o.kb s
  | .l f m s i mb sc v =>
    !f && !o.kb && s == 0 && u.mod m && u.imm i && u.modb mb && srcOk u.sc o.kc sc && (u.lit64 || hi32 v == 0)

/-- Rounding codes up to `top` in MOD [2:0], and which of NA and NB may be set in MOD [4:3] (R120). -/
def modRnd (top : Nat) (na nb : Bool) (m : BitVec 6) : Bool :=
  m.toNat % 8 ≤ top && (na || !m.getLsbD 3) && (nb || !m.getLsbD 4) && !m.getLsbD 5

/-- Order codes an instruction accepts in MOD [2:0] (R145), with whether bit 5 is defined. -/
def modOrder (codes : List Nat) (flag : Bool) (m : BitVec 6) : Bool :=
  codes.contains (m.toNat % 8) && (flag || !m.getLsbD 5)

def loadOrders : List Nat := [0, 1, 4]
def storeOrders : List Nat := [0, 2, 4]
def allOrders : List Nat := [0, 1, 2, 3, 4]

/-- A three-source instruction of R85 and R86, or a two-source one whose C form has no third source. -/
def useThree (o : Long) (sat : Bool) : FieldUse :=
  match o.form with
  | .bi => { sa := .vk, imm := any16, sat := sat }
  | _ => { sa := .vk, sb := .vk, sc := if o.tri then .vk else .no, modb := below6 2, sat := sat, lit64 := ty64 o.sub }

def useTwo (o : Long) (sat : Bool) : FieldUse :=
  match o.form with
  | .bi => { sa := .vk, imm := any16, sat := sat }
  | _ => { sa := .vk, sb := .vk, sat := sat, lit64 := ty64 o.sub }

/-- A B form with the one source SA. -/
def useUnary (sat : Bool) : FieldUse := { sa := .vk, sat := sat }

/-- Shifts (R91). -/
def useShift (o : Long) : FieldUse :=
  match o.form with
  | .bi => { sa := .vk, imm := below16 256 }
  | .c => { sa := .vk, sb := .vk, sc := .vk }
  | _ => { sa := .vk, sb := .vk }

/-- The combination fields of `iset`, `fset`, `dset` and `hset2` (R89, R125): with no combination, SC and MODB are zero. -/
def combOk (o : Long) : Bool :=
  o.modb.toNat < 8 && o.sc.toNat < 8 && !o.kc && (o.modb.toNat % 4 != 0 || (o.sc == 0 && o.modb == 0))

/-- A comparison: `also` holds the DST rule. SC is checked by `combOk`. -/
def useSet (o : Long) (mod : BitVec 6 → Bool) (dstOk : Bool) : FieldUse :=
  match o.form with
  | .bi => { sa := .vk, imm := any16, also := dstOk }
  | .b => { sa := .vk, sb := .vk, mod := mod, also := dstOk }
  | _ => { sa := .vk, sb := .vk, sc := .v, mod := mod, modb := any6, lit64 := ty64 o.sub, also := dstOk && combOk o }

/-- The two-operand arithmetic of R122, with the rounding codes up to `top`. -/
def useArith (o : Long) (top : Nat) (sat : Bool) : FieldUse :=
  match o.form with
  | .bi => { sa := .vk, imm := any16, sat := sat }
  | _ => { sa := .vk, sb := .vk, mod := modRnd top true true, sat := sat, lit64 := ty64 o.sub }

/-- The fused arithmetic of R122. -/
def useFma (o : Long) : FieldUse :=
  { sa := .vk, sb := .vk, sc := .vk, mod := modRnd 4 true true, modb := below6 2, sat := true, lit64 := ty64 o.sub }

/-- The single-operand instructions of R126 and R129. -/
def useRound (top : Nat) (sat : Bool) : FieldUse := { sa := .vk, mod := modRnd top true false, sat := sat }

/-- Divisions (R126). -/
def useDiv (o : Long) : FieldUse :=
  match o.form with
  | .bi => { sa := .vk, imm := any16, sat := true }
  | _ => { sa := .vk, sb := .vk, mod := modRnd 3 true true, sat := true }

/-- Segment codes of R101: S from 1 to 64. -/
def segImm (i : BitVec 16) : Bool := i.toNat ≤ 6

/-- `gred` and `gscan` (R104). -/
def useReduce (o : Long) (exc : Bool) : FieldUse :=
  let op := o.mod.toNat / 8
  let rnd := o.mod.toNat % 8
  let fl := o.sub == 0x10
  { sa := .vk, mod := any6, modb := if exc then below6 2 else zero6, imm := segImm, sat := true,
    also := op < 6 && (if fl then rnd < 4 && op < 3 else rnd == 0) && (!o.sat || (!fl && op == 0)) }

/-- `bra` and `call` (R107). -/
def useBranch (o : Long) : FieldUse :=
  { dst := false, imm := any16, also := match o.tail with | .cm _ _ _ f => f.extractLsb' 0 2 == 0 | _ => true }

/-- `switch` (R111): in the L form LIT bytes n to 7 and the IMM16 of word 2 are zero. -/
def useSwitch (o : Long) : FieldUse :=
  let n := o.modb.toNat % 8 + 1
  match o.form with
  | .l => { sa := .vk, dst := false, modb := any6, lit64 := true, also := o.lit.toNat < 2 ^ (8 * n) }
  | _ => { sa := .vk, dst := false, modb := any6, imm := any16 }

/-- Elements of a `pack` or `unpk` format (R133). -/
def packCount (sub : BitVec 6) : Nat :=
  if sub == 0 || sub == 1 then 2 else if sub == 4 || sub == 6 then 8 else 4

/-- The unpacked side of a packed format is F32 and not an integer (R133), so that NA may negate the source (R120). -/
def packFloat (sub : BitVec 6) : Bool := sub != 5 && sub != 6

/-- Permitted pairs of `cvt` (R132). -/
def cvtPair (d s : BitVec 6) : Bool :=
  let scalar := [0x00, 0x01, 0x02, 0x03, 0x04, 0x05, 0x06, 0x07, 0x10, 0x11]
  d != s && ((scalar.contains d.toNat && scalar.contains s.toNat)
    || ([0x12, 0x13].contains d.toNat && [0x12, 0x13].contains s.toNat)
    || ([0x14, 0x15].contains d.toNat && [0x14, 0x15].contains s.toNat))

/-- `dot4` and `dot8` (R136). -/
def useDot (o : Long) (int : Bool) : FieldUse :=
  let sce := o.modb.getLsbD 0
  { sa := .vk, sb := .vk, sc := .vk, mod := modRnd (if int then 0 else 4) false false,
    modb := fun m => m.toNat < 32 && (sce || m == 0), imm := fun i => if sce then i.toNat < 1024 else i == 0,
    sat := true, also := !(int && sce) }

/-- Indexes of the special-register table (R23). -/
def srIndex (n : Nat) : Bool := n < 0x0C || (0x10 ≤ n && n < 0x17)

/-- A memory instruction's CM or BI form (R142). -/
def useMem (codes : List Nat) (flag : Bool) (sb : Src) (dst : Bool) : FieldUse :=
  { sa := .vk, sb := sb, dst := dst, imm := any16, mod := modOrder codes flag }

/-- A sync-word instruction (R166). -/
def useSw (codes : List Nat) (flag : Bool) (sb : Src) : FieldUse := useMem codes flag sb true

/-- A barrier instruction (R176). -/
def useBar (o : Long) (x : Bool) (dstOk : Bool) : FieldUse :=
  { sa := .v, sb := if x then .vk else .no, imm := any16, also := o.sa.toNat < 16 && dstOk }

/-- An engine-creating instruction with the operands given (R173). -/
def useEngine (sb sc : Src) (flip : Nat) (imm : BitVec 16 → Bool) : FieldUse :=
  { sa := .vk, sb := sb, sc := sc, mod := any6, modb := below6 flip, imm := imm }

/-- A C or B form of ch. 7 with register operands and no modifier. -/
def usePlain (sa sb sc : Src) : FieldUse := { sa := sa, sb := sb, sc := sc }

/-- The fields each longer instruction defines (R84 to R229). -/
def Instr.use (i : Instr) (o : Long) : FieldUse :=
  match i with
  | .iadd _ | .isub _ | .imul _ => useThree o true
  | .imin _ | .imax _ | .and _ | .or _ | .xor _ | .andn _ => useThree o false
  | .imulh _ => useTwo o false
  | .imad _ =>
    match o.form with
    | .bi => { sa := .vk, imm := any16, sat := true }
    | .b => { sa := .vk, sb := .vk, sat := true }
    | _ => { sa := .vk, sb := .vk, sc := .vk, sat := true, lit64 := ty64 o.sub }
  | .iabs _ | .ineg _ => useUnary true
  | .not _ | .popc _ | .clz _ | .ctz _ | .brev _ => useUnary false
  | .iaddc _ | .isubb _ => { sa := .vk, sb := .vk, mod := any6, lit64 := ty64 o.sub }
  | .iset _ => useSet o zero6 (o.dst.toNat < 64 && o.dst.toNat / 8 % 8 < 6)
  | .shl _ | .shr _ | .sar _ | .rol _ | .ror _ => useShift o
  | .bfx _ => { sa := .vk, sb := .vk, imm := if o.form == .bi then any16 else zero16 }
  | .bfi _ =>
    match o.form with
    | .bi => { sa := .vk, imm := any16 }
    | .b => { sa := .vk, sb := .vk }
    | _ => { sa := .vk, sb := .vk, sc := .vk }
  | .prmt _ => { sa := .vk, sb := .vk, imm := any16 }
  | .sel _ => { sa := .vk, sb := .vk, mod := below6 16, lit64 := ty64 o.sub }
  | .mov _ => { sa := if o.sub == 0x0C then .v else .vk }
  | .movi _ => { imm := any16 }
  | .movl _ => { lit64 := ty64 o.sub }
  | .lea _ => { sa := .vk, sb := .vk, mod := below6 8, imm := any16, lit64 := o.sub == 0x02 }
  | .pand _ | .por _ | .pxor _ =>
    { sa := .v, sb := .v, mod := below6 4, also := o.dst.toNat < 8 && o.sa.toNat < 8 && o.sb.toNat < 8 }
  | .pnot _ | .pmov _ => { sa := .v, mod := below6 2, also := o.dst.toNat < 8 && o.sa.toNat < 8 }
  | .pmovSave _ => {}
  | .pmovLoad _ => { sa := .vk, dst := false }
  | .vote _ =>
    { sa := .v, mod := below6 2, imm := segImm, also := o.sa.toNat < 8 && (o.sub == 3 || o.dst.toNat < 8) }
  | .shfl _ => { sa := .vk, sb := .vk, imm := if o.form == .bi then any16 else segImm }
  | .gred _ => useReduce o false
  | .gscan _ => useReduce o (o.form == .c)
  | .matchG _ => { sa := .vk, imm := segImm }
  | .elect _ => { also := o.dst.toNat < 8 }
  | .bra _ | .call _ => useBranch o
  | .brx _ | .callx _ => { sa := .vk, dst := false }
  | .switch _ => useSwitch o
  | .nop _ => { dst := false }
  | .fadd _ | .fsub _ | .fmul _ | .dadd _ | .dmul _ | .hadd2 _ | .hmul2 _ => useArith o 4 true
  | .ffma _ | .dfma _ | .hfma2 _ => useFma o
  | .fmin _ | .fmax _ | .dmin _ | .dmax _ | .hmin2 _ | .hmax2 _ => useArith o 0 false
  | .fset _ | .dset _ => useSet o (modRnd 0 true true) (o.dst.toNat < 64)
  | .hset2 _ => useSet o (modRnd 0 true true) (o.dst.toNat < 512)
  | .frcp _ => useRound 3 true
  | .frsq _ | .fex2 _ | .flg2 _ | .fsin _ | .fcos _ | .ffrc _ => useRound 0 false
  | .fsqrt _ | .dsqrt _ | .frnd _ | .dfrnd _ => useRound 3 false
  | .fdiv _ | .ddiv _ => useDiv o
  | .fclass _ => useUnary false
  | .fscale _ =>
    { sa := .vk, sb := .vk, sc := .vk, mod := modRnd 4 true false, imm := if o.form == .bi then any16 else zero16,
      sat := true }
  | .fqnt _ =>
    { sa := .vk, sb := .vk, sc := .vk, mod := modRnd 4 true false, imm := if o.form == .bi then any16 else zero16,
      sat := o.form == .c }
  | .fdeq _ =>
    { sa := .vk, sb := .vk, sc := .vk, mod := modRnd 4 false false, imm := if o.form == .bi then any16 else zero16,
      sat := true }
  | .cvt _ =>
    { sa := .vk, sb := .v, mod := modRnd 4 false false, sat := true,
      also := o.sb.toNat < 64 && cvtPair o.sub (o.sb.setWidth 6) }
  | .pack _ =>
    match o.form with
    | .b => { sa := .v, mod := modRnd 4 (packFloat o.sub) false, sat := true }
    | _ => { sa := .vk, mod := modRnd 4 (packFloat o.sub) false, imm := below16 (packCount o.sub), sat := true }
  | .unpk _ =>
    match o.form with
    | .bi => { sa := .vk, imm := below16 (packCount o.sub) }
    | _ => { sa := .vk }
  | .tagset _ => { sa := .vk, imm := below16 13 }
  | .tagget _ => { sa := .v }
  | .dot4 _ => useDot o (o.sub == 0x12)
  | .dot8 _ => useDot o (o.sub == 0x09)
  | .rngc _ => { sa := .vk, sb := .v }
  | .rngf _ => { sa := .vk, sb := if o.form == .c then .vk else .no }
  | .ld _ => useMem loadOrders true .no true
  | .st _ => useMem storeOrders true (if o.flag then .vk else .no) true
  | .ldk _ =>
    { sa := .vk, mod := modOrder loadOrders false, also := o.dst.toNat < 64 && o.dst.toNat + o.sub.toNat + 1 ≤ 64 }
  | .pref _ => { sa := .vk, dst := false, imm := any16, mod := below6 8 }
  | .cchk _ => { sa := .vk }
  | .stn4 _ => useMem storeOrders false .vk true
  | .atom _ => useMem allOrders false .vk true
  | .cas _ => useMem allOrders false .vk true
  | .fatom _ => useMem allOrders true .vk (!o.flag)
  | .red _ => useMem storeOrders false .vk false
  | .fence _ => { dst := false, mod := modOrder [1, 2, 3, 4] false }
  | .flushIcache _ | .flushNear _ =>
    { sa := .vk, sb := .vk, dst := false, imm := any16, mod := fun m => m.toNat % 8 == 0 && !m.getLsbD 5 }
  | .flushWcb _ => { dst := false }
  | .swarm _ => useSw storeOrders true .vk
  | .swadd _ => useSw storeOrders false .vk
  | .swwait _ => useSw loadOrders false .vk
  | .swread _ => useSw loadOrders false .no
  | .barInit _ | .barExp _ | .barWait _ => useBar o true (o.dst == 0)
  | .barArv _ => useBar o false true
  | .barSync _ => useBar o false (o.dst == 0)
  | .barTest _ => useBar o true (o.dst.toNat < 8)
  | .mma _ | .mmac _ => useEngine .no .no 1 zero16
  | .accrd _ => { sa := .vk, imm := if o.form == .c then any16 else zero16 }
  | .accwr _ => { sa := .vk, sb := .vk, dst := false, imm := if o.form == .c then any16 else zero16 }
  | .accclr _ =>
    match o.form with
    | .bi => { dst := false, imm := below16 2 }
    | .b => { sa := .vk, dst := false }
    | _ => { sa := .vk, sb := .vk, dst := false }
  | .accst _ =>
    { sa := .vk, sb := .vk, dst := false, mod := modRnd 4 false false, sat := true,
      imm := if o.form == .c then (fun i => i != 0) else zero16 }
  | .copy _ => useEngine .vk .v 2 (below16 64)
  | .copyt _ => useEngine .no .no 2 (below16 64)
  | .coll _ => useEngine .no .no 4 zero16
  | .sireg _ => usePlain .vk .vk .vk
  | .sidrop _ => usePlain .vk .no .no
  | .sidropAll _ => usePlain .no .no .no
  | .tkwait _ => { sa := .vk, mod := modOrder [0, 1] false }
  | .tktest _ | .tkcancel _ | .tkdetach _ | .tkadopt _ | .tkdepRel _ | .tkinfo _ => usePlain .vk .no .no
  | .tkprio _ => { sa := .vk, sb := .vk, imm := any16 }
  | .tkdepAdd _ => usePlain .vk .vk .no
  | .mflip _ => { sa := .vk, mod := modOrder [2] false }
  | .launch _ => usePlain .vk .no .no
  | .launchTry _ => { sa := .vk, mod := below6 8 }
  | .join _ | .joinRng _ => usePlain .vk .no .no
  | .joinAll _ => usePlain .no .no .no
  | .rtsub _ => usePlain .vk .vk .no
  | .rtget _ => { sa := .vk, sb := .vk, mod := below6 8 }
  | .rtdone _ => usePlain .vk .vk .no
  | .qnote _ =>
    match o.form with
    | .bi => { dst := false, imm := any16 }
    | _ => { sa := .vk, dst := false }
  | .dvnew _ | .dvfrz _ | .dvthaw _ | .dvrevoke _ => usePlain .vk .no .no
  | .dvgrant _ | .dvfeat _ | .dvinv _ => usePlain .vk .vk .no
  | .dvckpt _ => usePlain .vk .vk .vk
  | .hqbind _ | .hqbindOff _ | .hqpop _ | .hqpopWait _ => usePlain .vk .no .no
  | .hqret _ => { sa := .vk, sb := .vk, imm := any16 }
  | .rdsr _ => { imm := fun i => srIndex i.toNat }
  | .wrsr _ => { sa := .vk, dst := false, imm := fun i => srIndex i.toNat }
  | .rdcnt _ => { imm := below16 5 }
  | _ => {}

/-- 32-bit forms whose fields an entry requires to be zero: (DST zero, SRC zero, GRD = 7) (R109 to R119). -/
def Instr.shortZero (i : Instr) : Bool × Bool × Bool :=
  match i with
  | .land _ | .ret _ | .exit _ | .tail _ | .yield _ | .pause _ | .nopA _ | .hret _ => (true, true, false)
  | .reconv _ => (true, true, true)
  | .trap _ | .bkpt _ => (true, false, false)
  | _ => (false, false, false)

/-- Checks of reserved content (check 4 of R76); a failure is RESERVED_FIELD. -/
def Instr.reservedOk (i : Instr) : Bool :=
  match i.view with
  | .event => true
  | .long _ _ _ o => (i.use o).ok o
  | .short _ _ o =>
    let z := i.shortZero
    (!z.1 || o.d == 0) && (!z.2.1 || o.s == 0) && (!z.2.2 || o.grd == 7)

/-- The encoding exists: format and SUB are ones that the entry lists (R78); a failure is ILLEGAL_OPC. -/
def Instr.allocated (i : Instr) : Bool :=
  match i.view with
  | .event => true
  | .short _ _ _ => true
  | .long _ _ rows o => rows.any (fun r => r.1 == o.form && r.2.contains o.sub.toNat)

/-! ## Feature bits (R224) -/

/-- Bit 3 when the instruction rounds stochastically. -/
def rsrBit (o : Long) : List Nat := if o.form != .bi && o.rnd == 4 then [3] else []

/-- The feature bits an instruction needs in the context's effective mask (R224). -/
def Instr.features (i : Instr) : List Nat :=
  match i with
  | .fadd o | .fsub o | .fmul o | .ffma o | .fscale o | .fqnt o | .fdeq o | .pack o => rsrBit o
  | .dadd o | .dmul o | .dfma o => 0 :: rsrBit o
  | .dmin _ | .dmax _ | .dset _ | .ddiv _ | .dsqrt _ | .dfrnd _ => [0]
  | .hadd2 o | .hmul2 o | .hfma2 o => 1 :: rsrBit o
  | .hmin2 _ | .hmax2 _ | .hset2 _ => [1]
  | .cvt o => (if o.sub == 0x11 || o.sb == 0x11 then [0] else []) ++ rsrBit o
  | .dot4 o | .dot8 o => 2 :: rsrBit o
  | .rngc _ | .rngf _ => [4]
  | .mma _ | .mmac _ | .accrd _ | .accwr _ | .accclr _ => [5]
  | .accst o => 5 :: rsrBit o
  | .copy _ | .copyt _ => [6]
  | .coll o => if o.sub == 6 then [8] else [7]
  | .sireg _ | .sidrop _ | .sidropAll _ => [8]
  | .fatom _ => [9]
  | .launch _ | .launchTry _ | .join _ | .joinAll _ | .joinRng _ => [10]
  | .rtsub _ | .rtget _ | .rtdone _ => [11]
  | .dvnew _ | .dvgrant _ | .dvfeat _ | .dvfrz _ | .dvthaw _ | .dvckpt _ | .dvrevoke _ | .dvinv _
  | .hqbind _ | .hqbindOff _ | .hqpop _ | .hqpopWait _ | .hqret _ => [12]
  | _ => []

end Sys2Proof
end

