-- ==== Sys2Proof/Decode.lean ====
section
/-! DEFINITION. The decoder of Iveel 9 words (R56 to R59, R63, R77, R78), total on any bytes, and the encoder written from
the same tables. -/

namespace Sys2Proof

/-- Why bytes hold no instruction. `short`: fewer words than LEN gives (R74). The others are ILLEGAL_OPC (R78): an OPC
without an entry at this length or SUB, or an entry that does not list the format and SUB. -/
inductive DecodeError where
  | short | opcode | form
  deriving DecidableEq, Repr

/-! ## From opcode and fields to instructions -/

/-- The instruction of a 32-bit form by major opcode (R77). -/
def shortInstr (opc : Nat) (o : Short) : Option Instr :=
  match opc with
  | 0x01 => some (.iaddA o)
  | 0x02 => some (.isubA o)
  | 0x05 => some (.imulA o)
  | 0x08 => some (.iminA o)
  | 0x09 => some (.imaxA o)
  | 0x0A => some (.iabsA o)
  | 0x0B => some (.inegA o)
  | 0x10 => some (.andA o)
  | 0x11 => some (.orA o)
  | 0x12 => some (.xorA o)
  | 0x13 => some (.andnA o)
  | 0x14 => some (.notA o)
  | 0x15 => some (.shlAi o)
  | 0x16 => some (.shrAi o)
  | 0x17 => some (.sarAi o)
  | 0x18 => some (.rolAi o)
  | 0x19 => some (.rorAi o)
  | 0x1A => some (.popcA o)
  | 0x1B => some (.clzA o)
  | 0x1C => some (.ctzA o)
  | 0x1D => some (.brevA o)
  | 0x28 => some (.movA o)
  | 0x29 => some (.moviAi o)
  | 0x52 => some (.land o)
  | 0x55 => some (.ret o)
  | 0x57 => some (.reconv o)
  | 0x58 => some (.exit o)
  | 0x59 => some (.tail o)
  | 0x5A => some (.yield o)
  | 0x5B => some (.pause o)
  | 0x5C => some (.nopA o)
  | 0x5D => some (.trap o)
  | 0x5E => some (.bkpt o)
  | 0x5F => some (.hret o)
  | 0x60 => some (.faddA o)
  | 0x61 => some (.fsubA o)
  | 0x62 => some (.fmulA o)
  | 0x64 => some (.fminA o)
  | 0x65 => some (.fmaxA o)
  | 0x67 => some (.frcpA o)
  | 0x68 => some (.frsqA o)
  | 0x69 => some (.fsqrtA o)
  | 0x6A => some (.fdivA o)
  | 0x6B => some (.fex2A o)
  | 0x6C => some (.flg2A o)
  | 0x6D => some (.fsinA o)
  | 0x6E => some (.fcosA o)
  | 0x6F => some (.frndA o)
  | 0x70 => some (.ffrcA o)
  | 0x71 => some (.fclassA o)
  | _ => none

/-- The instruction of a longer form by major opcode, and by SUB where one opcode holds several (R77). -/
def longInstr (opc : Nat) (o : Long) : Option Instr :=
  match opc with
  | 0x01 => some (.iadd o)
  | 0x02 => some (.isub o)
  | 0x03 => some (.iaddc o)
  | 0x04 => some (.isubb o)
  | 0x05 => some (.imul o)
  | 0x06 => some (.imulh o)
  | 0x07 => some (.imad o)
  | 0x08 => some (.imin o)
  | 0x09 => some (.imax o)
  | 0x0A => some (.iabs o)
  | 0x0B => some (.ineg o)
  | 0x0C => some (.iset o)
  | 0x10 => some (.and o)
  | 0x11 => some (.or o)
  | 0x12 => some (.xor o)
  | 0x13 => some (.andn o)
  | 0x14 => some (.not o)
  | 0x15 => some (.shl o)
  | 0x16 => some (.shr o)
  | 0x17 => some (.sar o)
  | 0x18 => some (.rol o)
  | 0x19 => some (.ror o)
  | 0x1A => some (.popc o)
  | 0x1B => some (.clz o)
  | 0x1C => some (.ctz o)
  | 0x1D => some (.brev o)
  | 0x1E => some (.bfx o)
  | 0x1F => some (.bfi o)
  | 0x20 => some (.prmt o)
  | 0x21 => some (.sel o)
  | 0x28 => some (.mov o)
  | 0x29 => some (.movi o)
  | 0x2A => some (.movl o)
  | 0x2B => some (.lea o)
  | 0x40 => some (.pand o)
  | 0x41 => some (.por o)
  | 0x42 => some (.pxor o)
  | 0x43 => some (.pnot o)
  | 0x44 =>
    match o.sub.toNat with
    | 0 => some (.pmov o)
    | 1 => some (.pmovSave o)
    | 2 => some (.pmovLoad o)
    | _ => none
  | 0x48 => some (.vote o)
  | 0x49 => some (.shfl o)
  | 0x4A => some (.gred o)
  | 0x4B => some (.gscan o)
  | 0x4C => some (.matchG o)
  | 0x4D => some (.elect o)
  | 0x50 => some (.bra o)
  | 0x51 => some (.brx o)
  | 0x53 => some (.call o)
  | 0x54 => some (.callx o)
  | 0x56 => some (.switch o)
  | 0x5C => some (.nop o)
  | 0x60 => some (.fadd o)
  | 0x61 => some (.fsub o)
  | 0x62 => some (.fmul o)
  | 0x63 => some (.ffma o)
  | 0x64 => some (.fmin o)
  | 0x65 => some (.fmax o)
  | 0x66 => some (.fset o)
  | 0x67 => some (.frcp o)
  | 0x68 => some (.frsq o)
  | 0x69 => some (.fsqrt o)
  | 0x6A => some (.fdiv o)
  | 0x6B => some (.fex2 o)
  | 0x6C => some (.flg2 o)
  | 0x6D => some (.fsin o)
  | 0x6E => some (.fcos o)
  | 0x6F => some (.frnd o)
  | 0x70 => some (.ffrc o)
  | 0x71 => some (.fclass o)
  | 0x72 => some (.fscale o)
  | 0x73 => some (.fqnt o)
  | 0x74 => some (.fdeq o)
  | 0x78 => some (.dadd o)
  | 0x79 => some (.dmul o)
  | 0x7A => some (.dfma o)
  | 0x7B => some (.dmin o)
  | 0x7C => some (.dmax o)
  | 0x7D => some (.dset o)
  | 0x7E => some (.ddiv o)
  | 0x7F => some (.dsqrt o)
  | 0x80 => some (.dfrnd o)
  | 0x88 => some (.hadd2 o)
  | 0x89 => some (.hmul2 o)
  | 0x8A => some (.hfma2 o)
  | 0x8B => some (.hmin2 o)
  | 0x8C => some (.hmax2 o)
  | 0x8D => some (.hset2 o)
  | 0x90 => some (.cvt o)
  | 0x91 => some (.pack o)
  | 0x92 => some (.unpk o)
  | 0x93 => some (.tagset o)
  | 0x94 => some (.tagget o)
  | 0x98 => some (.dot4 o)
  | 0x99 => some (.dot8 o)
  | 0x9A => some (.rngc o)
  | 0x9B => some (.rngf o)
  | 0xA0 => some (.ld o)
  | 0xA1 => some (.st o)
  | 0xA2 => some (.ldk o)
  | 0xA3 => some (.pref o)
  | 0xA4 => some (.cchk o)
  | 0xA5 => some (.stn4 o)
  | 0xA8 => some (.atom o)
  | 0xA9 => some (.cas o)
  | 0xAA => some (.fatom o)
  | 0xAB => some (.red o)
  | 0xB0 => some (.fence o)
  | 0xB1 =>
    match o.sub.toNat with
    | 0 => some (.flushIcache o)
    | 1 => some (.flushNear o)
    | 2 => some (.flushWcb o)
    | _ => none
  | 0xB8 => some (.swarm o)
  | 0xB9 => some (.swwait o)
  | 0xBA => some (.swadd o)
  | 0xBB => some (.swread o)
  | 0xD0 =>
    match o.sub.toNat with
    | 0 => some (.barInit o)
    | 1 => some (.barExp o)
    | 2 => some (.barArv o)
    | 3 => some (.barWait o)
    | 4 => some (.barSync o)
    | 5 => some (.barTest o)
    | _ => none
  | 0xD4 => some (.mma o)
  | 0xD5 => some (.mmac o)
  | 0xD6 => some (.accrd o)
  | 0xD7 => some (.accwr o)
  | 0xD8 => some (.accclr o)
  | 0xD9 => some (.accst o)
  | 0xDA => some (.copy o)
  | 0xDB => some (.copyt o)
  | 0xDC => some (.coll o)
  | 0xDD => some (.sireg o)
  | 0xDE =>
    match o.sub.toNat with
    | 0 => some (.sidrop o)
    | 1 => some (.sidropAll o)
    | _ => none
  | 0xDF => some (.tkwait o)
  | 0xE0 => some (.tktest o)
  | 0xE1 => some (.tkcancel o)
  | 0xE2 => some (.tkdetach o)
  | 0xE3 => some (.tkadopt o)
  | 0xE4 => some (.tkprio o)
  | 0xE5 =>
    match o.sub.toNat with
    | 0 => some (.tkdepAdd o)
    | 1 => some (.tkdepRel o)
    | _ => none
  | 0xE6 => some (.tkinfo o)
  | 0xE7 => some (.mflip o)
  | 0xE8 =>
    match o.sub.toNat with
    | 0 => some (.launch o)
    | 1 => some (.launchTry o)
    | _ => none
  | 0xE9 =>
    match o.sub.toNat with
    | 0 => some (.join o)
    | 1 => some (.joinAll o)
    | 2 => some (.joinRng o)
    | _ => none
  | 0xEA => some (.rtsub o)
  | 0xEB => some (.rtget o)
  | 0xEC => some (.rtdone o)
  | 0xED => some (.qnote o)
  | 0xEE => some (.dvnew o)
  | 0xEF => some (.dvgrant o)
  | 0xF0 => some (.dvfeat o)
  | 0xF1 => some (.dvfrz o)
  | 0xF2 => some (.dvthaw o)
  | 0xF3 => some (.dvckpt o)
  | 0xF4 => some (.dvrevoke o)
  | 0xF5 => some (.dvinv o)
  | 0xF6 =>
    match o.sub.toNat with
    | 0 => some (.hqbind o)
    | 1 => some (.hqbindOff o)
    | _ => none
  | 0xF7 =>
    match o.sub.toNat with
    | 0 => some (.hqpop o)
    | 1 => some (.hqpopWait o)
    | _ => none
  | 0xF8 => some (.hqret o)
  | 0xF9 => some (.rdsr o)
  | 0xFA => some (.wrsr o)
  | 0xFB => some (.rdcnt o)
  | _ => none

/-- Major opcodes whose 96-bit form is CM (R142, R107, R166). -/
def isCm (opc : Nat) : Bool :=
  opc == 0x50 || opc == 0x53 || (0xA0 ≤ opc && opc ≤ 0xA5) || (0xA8 ≤ opc && opc ≤ 0xAB) || opc == 0xB1
    || (0xB8 ≤ opc && opc ≤ 0xBB)

/-! ## Words to fields -/

/-- Words that an instruction with this word 0 occupies (R56). -/
def lenWords (w0 : W32) : Nat :=
  match (w0.extractLsb' 0 2).toNat with
  | 0 => 1
  | 1 => 2
  | 2 => 3
  | _ => 5

/-- OPC, bits [9:2] of word 0. -/
def opcOf (w0 : W32) : BitVec 8 := w0.extractLsb' 2 8

/-- The fields of a 32-bit form (R57). -/
def shortFields (w0 : W32) : Short :=
  { s := w0.extractLsb' 24 8, d := w0.extractLsb' 16 8, grd := w0.extractLsb' 13 3, stl := w0.extractLsb' 10 3 }

/-- The fields of word 1 and the tail of a longer form (R58). -/
def longFields (w0 w1 : W32) (t : Tail) : Long :=
  { sub := w0.extractLsb' 26 6, dst := w0.extractLsb' 16 10, grd := w0.extractLsb' 13 3, stl := w0.extractLsb' 10 3,
    gneg := w1.getLsbD 31, sat := w1.getLsbD 29, kc := w1.getLsbD 28, kb := w1.getLsbD 27, ka := w1.getLsbD 26,
    sa := w1.extractLsb' 0 10, tail := t }

/-- The 64-bit tail: B or BI by IMF. -/
def tail64 (w1 : W32) : Tail :=
  if w1.getLsbD 30 then .bi (w1.extractLsb' 10 16) else .b (w1.extractLsb' 20 6) (w1.extractLsb' 10 10)

/-- The 96-bit tail, CM or C. -/
def tail96 (cm : Bool) (w1 w2 : W32) : Tail :=
  if cm then .cm (w1.getLsbD 30) (w1.extractLsb' 20 6) (w1.extractLsb' 10 10) w2
  else .c (w1.getLsbD 30) (w1.extractLsb' 20 6) (w1.extractLsb' 10 10) (w2.extractLsb' 16 16) (w2.extractLsb' 10 6)
    (w2.extractLsb' 0 10)

/-- The 160-bit tail. -/
def tail160 (w1 w2 w3 w4 : W32) : Tail :=
  .l (w1.getLsbD 30) (w1.extractLsb' 20 6) (w1.extractLsb' 10 10) (w2.extractLsb' 16 16) (w2.extractLsb' 10 6)
    (w2.extractLsb' 0 10) (w4 ++ w3)

/-- A candidate instruction stands when its entry lists the format and SUB (R78). -/
def wellRead (c : Option Instr) : Except DecodeError Instr :=
  match c with
  | none => .error .opcode
  | some i => if i.allocated then .ok i else .error .form

/-- The instruction at the head of a stream of words, with the words after it (R56). -/
def decode (ws : List W32) : Except DecodeError (Instr × List W32) :=
  match ws with
  | [] => .error .short
  | w0 :: r =>
    let opc := (opcOf w0).toNat
    match (w0.extractLsb' 0 2).toNat, r with
    | 0, r => (wellRead (shortInstr opc (shortFields w0))).map (fun i => (i, r))
    | 1, w1 :: r => (wellRead (longInstr opc (longFields w0 w1 (tail64 w1)))).map (fun i => (i, r))
    | 2, w1 :: w2 :: r => (wellRead (longInstr opc (longFields w0 w1 (tail96 (isCm opc) w1 w2)))).map (fun i => (i, r))
    | 3, w1 :: w2 :: w3 :: w4 :: r =>
      (wellRead (longInstr opc (longFields w0 w1 (tail160 w1 w2 w3 w4)))).map (fun i => (i, r))
    | _, _ => .error .short

/-- The decoder over the bytes of the instruction stream, words little-endian (R8, R56). -/
def decodeBytes (bs : List Byte) : Except DecodeError (Instr × List W32) := decode (bytesWords bs)

/-! ## Encoding -/

/-- Word 0 of a 32-bit form (R57). -/
def shortWord (opc : Nat) (o : Short) : W32 :=
  o.s ++ o.d ++ o.grd ++ o.stl ++ BitVec.ofNat 8 opc ++ (0#2)

/-- Word 0 of a longer form, `len` being LEN. -/
def word0 (opc : Nat) (len : BitVec 2) (o : Long) : W32 :=
  o.sub ++ o.dst ++ o.grd ++ o.stl ++ BitVec.ofNat 8 opc ++ len

/-- Word 1 with IMF and the 16 bits [25:10] (R58). -/
def word1 (imf : Bool) (mid : BitVec 16) (o : Long) : W32 :=
  BitVec.ofBool o.gneg ++ BitVec.ofBool imf ++ BitVec.ofBool o.sat ++ BitVec.ofBool o.kc ++ BitVec.ofBool o.kb
    ++ BitVec.ofBool o.ka ++ mid ++ o.sa

/-- The words of a longer form. -/
def longWords (opc : Nat) (o : Long) : List W32 :=
  match o.tail with
  | .b m s => [word0 opc 1 o, word1 false (m ++ s) o]
  | .bi i => [word0 opc 1 o, word1 true i o]
  | .c f m s i mb sc => [word0 opc 2 o, word1 f (m ++ s) o, i ++ mb ++ sc]
  | .cm f m s off => [word0 opc 2 o, word1 f (m ++ s) o, off]
  | .l f m s i mb sc v => [word0 opc 3 o, word1 f (m ++ s) o, i ++ mb ++ sc, lo32 v, hi32 v]

/-- The words of an instruction (R57 to R59, R77); none for an event. -/
def encode (i : Instr) : Option (List W32) :=
  match i.view with
  | .event => none
  | .short opc _ o => some [shortWord opc o]
  | .long opc _ _ o => some (longWords opc o)

/-- The decoder's reading of an instruction numbered as the opcode table numbers its bits: bit 0 of w is bit 0 of word 0,
and later words count on from it. Bits at and above `nbits` are 0; the longest instruction has five words (R56). -/
def decodeTableWord (nbits w : Nat) : Option Instr :=
  match decodeBytes ((natBytes 20 (w % 2 ^ nbits))) with
  | .ok (i, _) => some i
  | .error _ => none

end Sys2Proof
end

