-- ==== Sys2Proof/Machine/Crypto.lean ====
section
/-! DEFINITION. The two published algorithms that the device uses (R5, R405, R408): SHAKE256 of FIPS 202 and Ed448ph of RFC 8032 with
an empty context. -/

namespace Sys2Proof

/-! ## SHAKE256 (FIPS 202) -/

/-- The round constants of Keccak-f[1600]. -/
def keccakConstants : List W64 :=
  [ 0x0000000000000001, 0x0000000000008082, 0x800000000000808A, 0x8000000080008000, 0x000000000000808B, 0x0000000080000001,
    0x8000000080008081, 0x8000000000008009, 0x000000000000008A, 0x0000000000000088, 0x0000000080008009, 0x000000008000000A,
    0x000000008000808B, 0x800000000000008B, 0x8000000000008089, 0x8000000000008003, 0x8000000000008002, 0x8000000000000080,
    0x000000000000800A, 0x800000008000000A, 0x8000000080008081, 0x8000000000008080, 0x0000000080000001, 0x8000000080008008 ]

/-- The rotation of lane x + 5 y. -/
def keccakRotations : List Nat :=
  [0, 1, 62, 28, 27, 36, 44, 6, 55, 20, 3, 10, 43, 25, 39, 41, 45, 15, 21, 8, 18, 2, 61, 56, 14]

/-- Theta, rho, pi, chi and iota over the 25 lanes, lane x + 5 y at that place. -/
def keccakRound (a : List W64) (rc : W64) : List W64 :=
  let parity := (List.range 5).map (fun x => [0, 5, 10, 15, 20].foldl (fun w y => w ^^^ a.getD (x + y) 0) 0)
  let theta := (List.range 25).map (fun i => a.getD i 0 ^^^ parity.getD ((i + 4) % 5) 0 ^^^ (parity.getD ((i + 1) % 5) 0).rotateLeft 1)
  let moved := (List.range 25).map (fun i =>
    let j := (i % 5 + 3 * (i / 5)) % 5 + 5 * (i % 5)
    (theta.getD j 0).rotateLeft (keccakRotations.getD j 0))
  (List.range 25).map (fun i =>
    let row := 5 * (i / 5)
    let w := moved.getD i 0 ^^^ (~~~ moved.getD ((i + 1) % 5 + row) 0 &&& moved.getD ((i + 2) % 5 + row) 0)
    if i == 0 then w ^^^ rc else w)

def keccak (a : List W64) : List W64 := keccakConstants.foldl keccakRound a

/-- Bytes of one block that the sponge of SHAKE256 takes or gives. -/
def shakeRate : Nat := 136

/-- The message with the suffix and padding of SHAKE. -/
def shakePad (m : List Byte) : List Byte :=
  let gap := shakeRate - m.length % shakeRate
  m ++ (if gap == 1 then [0x9F#8] else 0x1F#8 :: List.replicate (gap - 2) 0#8 ++ [0x80#8])

/-- A block goes into the state, whose lanes are little-endian. -/
def shakeAbsorb (a : List W64) (block : List Byte) : List W64 :=
  keccak (a.mapIdx (fun i w => if i < 17 then w ^^^ BitVec.ofNat 64 (bytesNat ((block.drop (8 * i)).take 8)) else w))

/-- The output of `n` blocks. -/
def shakeSqueeze : Nat → List W64 → List Byte
  | 0, _ => []
  | n + 1, a => (a.take 17).flatMap (fun w => natBytes 8 w.toNat) ++ shakeSqueeze n (keccak a)

/-- SHAKE256 with an output of `n` bytes. -/
def shake256 (n : Nat) (m : List Byte) : List Byte :=
  let padded := shakePad m
  let a := (List.range (padded.length / shakeRate)).foldl
    (fun st b => shakeAbsorb st ((padded.drop (shakeRate * b)).take shakeRate)) (List.replicate 25 0)
  (shakeSqueeze (n / shakeRate + 1) a).take n

/-- The device's digest (R405, R408). -/
def digest (m : List Byte) : List Byte := shake256 64 m

/-! ## Ed448ph (RFC 8032) -/

def edPrime : Int := 2 ^ 448 - 2 ^ 224 - 1
def edOrder : Nat := 2 ^ 446 - 13818066809895115352007386748515426880336692474882178609894547503885

/-- `b` to the power `e` of at most `fuel` bits, in the field. -/
def edPow : Nat → Int → Nat → Int
  | 0, _, _ => 1
  | fuel + 1, b, e =>
    let r := edPow fuel (b * b % edPrime) (e / 2)
    if e % 2 == 1 then r * b % edPrime else r

/-- A point of the curve x² + y² = 1 - 39081 x² y² in projective coordinates. -/
structure EdPoint where
  x : Int
  y : Int
  z : Int
  deriving DecidableEq, Repr

def edZero : EdPoint := { x := 0, y := 1, z := 1 }
def edBase : EdPoint :=
  { x := 224580040295924300187604334099896036246789641632564134246125461686950415467406032909029192869357953282578032075146446173674602635247710
    y := 298819210078481492676017930443930673437544040154080242095928241372331506189835876003536878655418784733982303233503462500531545062832660
    z := 1 }

/-- The complete addition law of RFC 8032, 5.2.4. -/
def edAdd (p q : EdPoint) : EdPoint :=
  let a := p.z * q.z % edPrime
  let b := a * a % edPrime
  let c := p.x * q.x % edPrime
  let d := p.y * q.y % edPrime
  let e := -39081 * c * d % edPrime
  let f := (b - e) % edPrime
  let g := (b + e) % edPrime
  let h := (p.x + p.y) * (q.x + q.y) % edPrime
  { x := a * f % edPrime * (h - c - d) % edPrime, y := a * g % edPrime * (d - c) % edPrime, z := f * g % edPrime }

/-- A multiple of at most `fuel` bits of a point. -/
def edMul : Nat → Nat → EdPoint → EdPoint
  | 0, _, _ => edZero
  | fuel + 1, n, p =>
    let r := edMul fuel (n / 2) (edAdd p p)
    if n % 2 == 1 then edAdd r p else r

/-- Two projective points are one point. -/
def edSame (p q : EdPoint) : Bool :=
  (p.x * q.z - q.x * p.z) % edPrime == 0 && (p.y * q.z - q.y * p.z) % edPrime == 0

/-- The 57 bytes of a point: y, and the lowest bit of x on top. -/
def edEncode (p : EdPoint) : List Byte :=
  let inv := edPow 448 p.z (edPrime.toNat - 2)
  natBytes 57 ((p.y * inv % edPrime).toNat + (p.x * inv % edPrime).toNat % 2 * 2 ^ 455)

/-- The point of 57 bytes, if they are one (RFC 8032, 5.2.3). -/
def edDecode (bytes : List Byte) : Option EdPoint :=
  let n := bytesNat (bytes.take 57)
  let sign := n / 2 ^ 455
  let y : Int := (n % 2 ^ 455 : Nat)
  let u := (y * y - 1) % edPrime
  let v := (-39081 * y * y - 1) % edPrime
  let u3v := u * u % edPrime * u % edPrime * v % edPrime
  let u5v3 := u3v * u % edPrime * u % edPrime * v % edPrime * v % edPrime
  let x := u3v * edPow 448 u5v3 ((edPrime.toNat - 3) / 4) % edPrime
  if bytes.length != 57 || decide (edPrime ≤ y) || (v * x * x - u) % edPrime != 0 || (x == 0 && sign == 1) then none
  else some { x := if x.toNat % 2 == sign then x else edPrime - x, y := y, z := 1 }

/-- The hash of Ed448ph: `dom4` with the prehash flag and an empty context before the bytes, 114 bytes out, as a number. -/
def edHash (m : List Byte) : Nat :=
  bytesNat (shake256 114 ([0x53#8, 0x69#8, 0x67#8, 0x45#8, 0x64#8, 0x34#8, 0x34#8, 0x38#8, 1#8, 0#8] ++ m))

/-- The secret scalar and the prefix of a 57-byte private key (RFC 8032, 5.2.5). -/
def edSecret (key : List Byte) : Nat × List Byte :=
  let h := shake256 114 key
  ((bytesNat (h.take 55) + ((h.getD 55 0).toNat % 128 + 128) * 2 ^ 440) / 4 * 4, h.drop 57)

def edPublic (key : List Byte) : List Byte := edEncode (edMul 448 (edSecret key).1 edBase)

/-- The 114-byte signature of a message under a private key (R405). -/
def edSign (key m : List Byte) : List Byte :=
  let (s, pre) := edSecret key
  let r := edHash (pre ++ digest m) % edOrder
  let at_ := edEncode (edMul 448 r edBase)
  let k := edHash (at_ ++ edPublic key ++ digest m) % edOrder
  at_ ++ natBytes 57 ((r + k * s) % edOrder)

/-- A signature of a message holds under a public key (R405). -/
def edVerify (key m sig : List Byte) : Bool :=
  let s := bytesNat (sig.drop 57)
  match edDecode key, edDecode (sig.take 57) with
  | some a, some r =>
    let k := edHash (sig.take 57 ++ key ++ digest m) % edOrder
    sig.length == 114 && decide (s < edOrder)
      && edSame (edMul 448 (4 * s) edBase) (edAdd (edMul 3 4 r) (edMul 448 (4 * k) a))
  | _, _ => false

end Sys2Proof
end

