-- ==== Sys2Proof/Config.lean ====
section
/-! DEFINITION. What every TX9-A128 fixes (R2, R4) and the free values: opaque constants that nothing in Lean can
evaluate, one for each value the spec leaves open. Each names its log entry in notes/assumptions/. -/

namespace Sys2Proof

/-! ## The part (R2, R4) -/

def Config.numCores : Nat := 128
def Config.sliceBytes : Nat := 28 * 2 ^ 20
def Config.grantBytes : Nat := 65536
/-- 64 KiB grants of a slice. -/
def Config.sliceGrants : Nat := 448
def Config.laneRegs : Nat := 2048
def Config.laneSlots : Nat := 32
def Config.tokenSlots : Nat := 512
def Config.sitEntries : Nat := 1024
def Config.icacheSlots : Nat := 10240
def Config.wcbEntries : Nat := 64
/-- 128-byte lines of a near cache of 192 KiB. -/
def Config.nearLines : Nat := 1536
def Config.trackers : Nat := 64
def Config.decodeSlots : Nat := 512
def Config.comparators : Nat := 12

/-! ## Free values -/

/-- Whether a short stall distance reads or keeps the new value (R70); log 5. -/
opaque Config.hazardNew : Nat → Bool
/-- Whether fetch sees the cached copy of an instruction after a store to it (R75); log 6. -/
opaque Config.fetchCached : Nat → Bool
/-- Whether a translation that the Collimator holds is used where the stages now give another (R340, R341); log 12. -/
opaque Config.collUsed : Nat → Bool
/-- Whether a load takes a held near-cache line where its home now differs (R256, R263); log 11. -/
opaque Config.nearUsed : Nat → Bool
/-- What a CXL peer writes to a pool and where, and whether a home cache then holds the line (R277); log 11. -/
opaque Config.peerWrite : Nat → Nat × List Byte
opaque Config.poolHeld : Nat → Bool
/-- Which of several candidates is taken where the spec leaves the choice open: a token's slot (R279), a SIT entry's index (R200),
a team's grants (R325), a new ASID (R333); log 19. -/
opaque Config.pick : Nat → Nat
/-- Where the numbers of a kind of name begin: 0 handler-queue entries, 1 notices, 2 grid handles, 3 range handles, 4 team serials;
log 19. -/
opaque Config.idBase : Nat → W32
/-- The first generation of a token slot, by core and slot (R279); log 14. -/
opaque Config.firstGen : Nat → Nat → BitVec 12
/-- The team index and grid extents that the special registers of a range's team hold, in the order of sr.tmx to sr.gdz, and what
`rtdone` counts for a piece whose hi is below its lo (R216, R218); log 20. -/
opaque Config.rangeDim : Nat → Nat → W32
opaque Config.rangeBack : Nat → Nat
/-- Whether a byte of new scratch keeps what the context left there (R325); log 21. -/
opaque Config.scratchKept : Nat → Bool
/-- The 64 KiB units of a team's image in its save area, by registers, scratch and tiles, and the bytes written there and as a
saved-context image (R247, R334, R348); log 22. -/
opaque Config.imageUnits : Nat → Nat → Nat → Nat
opaque Config.imageBytes : Nat → List Byte
/-- The check over an image, computed with a value private to the caller (R348). -/
opaque Config.imageCheck : Nat → List Byte → W32
/-- Whether the devices of a checkpoint's tier hold its share from a base, and the 4 KiB units of a whole checkpoint (R409, R410);
log 24. -/
opaque Config.tierFits : Bool → W64 → Bool
opaque Config.checkpointUnits : Nat → Nat
/-- Whether the link between two other chips is up in a cycle, as the detour of R364 needs to know; log 1. -/
opaque Config.farLink : Nat → Nat → Nat → Bool
/-- The flits queued between two other chips in a cycle, which the relay of R363 compares; log 1. -/
opaque Config.farQueue : Nat → Nat → Nat → Nat
/-- A core of another chip passes the resource check for a team of a context: by cycle, chip, core and ASID (R323, R425). -/
opaque Config.farPasses : Nat → Nat → Nat → Nat → Bool
/-- The launch record and constants that the firmware holds for a grid of another chip, by that chip and the grid's number (R425). -/
opaque Config.farRecord : Nat → Nat → Nat × List W32
/-- A core of another chip grants decode permits to a Prism of this chip: by cycle, port, chip and core (R374). -/
opaque Config.farPermit : Nat → Nat → Nat → Nat → Bool
/-- How a Prism takes an uncoded segment of another chip, whose packet shows neither its rank's DEG nor whether it may be coded: its DEG,
or none (R369, R375). -/
opaque Config.farDeg : Nat → Option Nat
/-- The place among the control-port registers of the root's record: the 64-bit word of the record at an offset (R335). -/
opaque Config.rootWord : Nat → Option Nat
/-- ADDR of the record of an instruction whose release part is given up (R398): the spec names none; log 23. -/
opaque Config.lostAddr : Nat → W64
/-- The transcendental results before they are held to their bounds (R126, R127, R140); log 7. -/
opaque Config.frsqPick : W32 → W32
opaque Config.fex2Pick : W32 → W32
opaque Config.flg2Pick : W32 → W32
opaque Config.fsinPick : W32 → W32
opaque Config.fcosPick : W32 → W32
opaque Config.nrmPick : W32 → W32 → W32
/-- The CHECK word of a continuation block (R296): context key and the block's other fields; log 8. -/
opaque Config.checkWord : Nat → List Nat → BitVec 64
/-- What the flash window holds where nothing has been written (R404); log 17. -/
opaque Config.flashByte : Nat → Byte
/-- The Runov root public key in the hub die's mask ROM, and the response of its unclonable structure (R405, R408); log 9. -/
opaque Config.rootKey : List Byte
opaque Config.pufResponse : List Byte
/-- The public key that an owner certificate names (R405); log 9. -/
opaque Config.ownerKey : List Byte → List Byte
/-- The root and DeviceID certificates, and the form of the alias key's over its public key and measurements (R408); log 9. -/
opaque Config.rootCert : List Byte
opaque Config.deviceCert : List Byte
opaque Config.aliasForm : List Byte → List (List Byte) → List Byte
/-- What SPDM 1.3 lets a device choose: time exponent, message size, the name of SHAKE256 as an extended digest, nonces; log 9. -/
opaque Config.spdmExponent : Byte
opaque Config.spdmSize : W32
opaque Config.shakeName : W32
opaque Config.spdmNonce : Nat → BitVec 256
/-- The ROM version (R408); log 9. -/
opaque Config.romVersion : List Byte

end Sys2Proof
end

