-- ==== Sys2Proof/Machine/State.lean ====
section
/-! DEFINITION. The state of one TX9-A128 module as plain data, its faults and refusals, and the state after reset.
Every piece of architectural state that spec/ names has a field here; INVENTORY.md lists each with its rule and reset
value. Sparse tables (contexts, teams, cores in use, tokens, packets held) are lists; an absent entry is in the state
its own reset value gives. -/

namespace Sys2Proof.Machine

open Sys2Proof

/-! ## Registers, records and threads -/

/-- Format tags (R27). Codes 13 to 15 are held by no register. -/
inductive Tag where
  | none | b32 | f32 | f16x2 | bf16x2 | e4m3x4 | e5m2x4 | e2m1x8 | i8x4 | i4x8 | f64l | f64h | scl
  deriving DecidableEq, Repr

/-- One v register: 32 bits and a tag (R27). -/
structure Reg where
  val : W32
  tag : Tag
  deriving DecidableEq, Repr

/-- Cause codes (R385). -/
inductive Cause where
  | illegalOpc | reservedField | maskedFeature | stallCount | tagMismatch | misalignedData | badTarget | fetchFault
  | dataFault | permission | scratchBounds | race | barrierStall | streamDesync | siMiss | tokenFault | launchFull
  | uncorrectable | trapInstr | breakpoint | watch | preemptForced | revoked | stackOverflow
  deriving DecidableEq, Repr

/-- A thread's fault record (R386). -/
structure Frc where
  pc    : W64 := 0
  addr  : W64 := 0
  word0 : W32 := 0
  cause : BitVec 8 := 0
  widx  : BitVec 3 := 0
  str   : Bool := false
  stage : BitVec 3 := 0
  rpl   : Bool := false
  wr    : Bool := false
  lnd   : Bool := false
  imm8  : BitVec 8 := 0
  team  : W32 := 0
  chip  : BitVec 4 := 0
  core  : BitVec 7 := 0
  tid   : BitVec 12 := 0
  aux   : BitVec 256 := 0
  deriving DecidableEq, Repr

/-- What a WAITING or STALLED thread waits for (R171, R233). `bar` and `reconv` and `gang` end when another thread or
an engine completes them; every other kind executes its instruction again when its condition holds. -/
inductive Wait where
  /-- a gang instruction, or `copy`/`copyt`, awaiting its cohort (R100, R188) -/
  | gang
  | reconv
  /-- `bar.wait` or `bar.sync` on barrier nb, until PH differs from ph (R177) -/
  | bar (nb : Nat) (ph : Bool)
  | swwait (key : Nat) (gen : W32)
  /-- no room for a token (R173) -/
  | room
  | tkwait (handle : W32)
  /-- `join`: 0 a grid, 1 every grid of the team, 2 a range, with the handle (R215) -/
  | join (what : Nat) (handle : W32)
  | hqpop
  /-- the reply of an access on another chip (R357) -/
  | fabric
  /-- acknowledgements a release part waits for (R146, R275) -/
  | release
  /-- the word of a `swwait` asked of another chip (R166) -/
  | swfar
  /-- no path to a chip (R398) -/
  | path (peer : Nat)
  /-- an accumulator instruction behind a matrix operation (R187) -/
  | tile
  /-- a translation asked of the host (R389) -/
  | ats (rq : AtsReq)
  /-- a device-tree command that has begun (R225) -/
  | command
  /-- a device-tree command behind others that name the same child (R225) -/
  | turn
  deriving DecidableEq, Repr

/-- Why a thread is PARKED (R233). -/
inductive Park where
  /-- posted to context `owner` as entry `id` (R344); entries beyond the queue's 1,024 wait for room in fault order -/
  | entry (owner : Nat) (id : W32)
  /-- a notice that the host answers (R390, R401) -/
  | notice (id : W32)
  /-- a Page Request Group (R389) -/
  | page (rq : AtsReq)
  deriving DecidableEq, Repr

/-- States of a thread (R233). A thread of a saved team keeps the state it was saved in; the team says it is saved. -/
inductive ThreadState where
  | ready
  | stalled
  | waiting (w : Wait)
  | parked (p : Park)
  | exited (tail : Bool)
  | gone
  deriving DecidableEq, Repr

/-- A short-latency producer still inside its latency (R68): what the register or predicate held before it, the stall
distance so far and the latency. A predicate's value is bit 0. -/
structure Hazard where
  pred : Bool
  num  : Nat
  old  : Reg
  dist : Nat
  lat  : Nat
  deriving DecidableEq, Repr

/-- A register or predicate whose variable-latency write is pending (R69). -/
inductive Pending where
  | v (num : Nat)
  | k (num : Nat)
  | p (num : Nat)
  /-- sr.seed, by `wrsr` (R141) -/
  | seed
  deriving DecidableEq, Repr

/-- An entry of a Loupe set or granule record (R266): `mask` is ACQM or the byte mask. -/
structure LEntry where
  team  : W32
  epoch : Nat
  sk    : BitVec 2
  src   : BitVec 12
  mask  : W32
  w     : Bool
  marked : Bool
  deriving DecidableEq, Repr

/-- What a carried set belongs to (R266): a release write's bytes, a barrier phase, a token. -/
inductive CarryKey where
  | bytes (key size : Nat)
  | bar (team nb : Nat)
  | token (handle : W32)
  | flip (frame : Nat)
  deriving DecidableEq, Repr

/-- A set in the carry store (R266, R268). `rel` names the releasing scope and writer for scope matching (R258). -/
structure Carried where
  key   : CarryKey
  asid  : Nat
  scope : BitVec 2
  team  : Nat
  set   : List LEntry
  deriving DecidableEq, Repr

/-- A line held in the near cache (R256): 128 bytes of a physical line as a load filled it. -/
structure NearLine where
  asid : Nat
  line : Nat
  data : List Byte
  /-- the carried sets of the writes that the line holds, for the bytes where those at the home may be others (R259) -/
  carry : List Carried := []
  deriving DecidableEq, Repr

/-- Where an access lands: a slice byte or a physical byte, its home chip and core, attributes and page size. `key` is the
byte's key in this chip's memory. -/
structure Site where
  win  : Bool
  chip : Nat
  core : Nat
  off  : Nat
  key  : Nat
  attr : BitVec 5
  size : Nat
  deriving DecidableEq, Repr

/-- A store whose release part still waits (R146): where it goes, its bytes by offset, its order, and the carried sets it leaves. -/
structure HeldBack where
  ea    : W64
  site  : Site
  data  : List (Nat × Byte)
  order : Nat
  scope : BitVec 2
  carry : List Carried
  deriving DecidableEq, Repr

/-- A release part whose acknowledgements are awaited (R146, R275), by the model's names of the writes. While `own` holds, the thread
stands at the instruction; else it has gone on, and only its memory instructions wait. -/
structure Release where
  pc    : W64
  own   : Bool
  ids   : List Nat
  /-- the acquire part and the store that follow it -/
  acquire : Option (BitVec 2) := Option.none
  store : Option HeldBack := Option.none
  /-- an acknowledgement cannot arrive (R398) -/
  lost  : Bool := false
  deriving DecidableEq, Repr

/-- One thread (R29, R233). -/
structure Thread where
  /-- allotment-many v registers (R16) -/
  regs    : List Reg
  /-- p0 to p6 in bits 0 to 6 (R19) -/
  preds   : BitVec 7 := 0
  pc      : W64
  /-- return stack, newest first: the hardware entries and the spilt ones (R110) -/
  stack   : List W64 := []
  spill   : List W64 := []
  /-- the landing flag, with the address of its brx or callx and the target it guards (R108) -/
  landing : Option (W64 × W64) := Option.none
  seed    : W64 := 0
  st      : ThreadState := .ready
  /-- the cohort, and the control decisions since it was formed that other members have yet to match (R99) -/
  cohort  : Nat := 0
  path    : List W64 := []
  handler : Bool := false
  frc     : Frc := {}
  /-- arrival marks for nb0 to nb15 (R241) -/
  marks   : BitVec 16 := 0
  /-- barrier and phase parity of a `bar.sync` that has arrived (R178) -/
  syncing : Option (Nat × Bool) := Option.none
  /-- a completed phase has released the thread's barrier wait (R177) -/
  freed   : Bool := false
  /-- taken by a save that its team has not finished, or that has taken the team (R244, R245) -/
  saved   : Bool := false
  /-- answers of other chips to the accesses of the instruction in progress (R357), each with the model's name of the access -/
  reply   : List (Nat × List Byte) := []
  /-- sr.ctl and sr.hent as they stood when an instruction issued that has not ended: it completes under them (R25) -/
  begun   : Option (W32 × W64) := Option.none
  /-- a release part that waits (R146) -/
  rel     : Option Release := Option.none
  /-- the line that the load in progress asked of another chip does not enter the near cache: an acquire or another access of the
  core to it came between (R146, R260) -/
  noFill  : Bool := false
  /-- lines of MIR pages as loads that have yet to issue may already have read them (R149), by the line of the page's first frame -/
  early   : List NearLine := []
  pass    : Bool := false
  stall   : Nat := 0
  drain   : Bool := false
  age     : Nat := 0
  pauseLeft : Nat := 0
  waited  : Nat := 0
  /-- the cycle in which the thread entered its wait, parked or exited (R245) -/
  since   : Nat := 0
  /-- the wait is over: the thread is READY, at its waiting instruction (R233) -/
  released : Bool := false
  hazards : List Hazard := []
  pending : List Pending := []
  issued  : W64 := 0
  /-- gang index, position in the gang, role (R24, R231, R232) -/
  gang    : Nat
  gpos    : Nat
  role    : Nat := 0
  /-- partition, lane index, thread slot (R14, R24) -/
  part    : Nat := 0
  lane    : Nat := 0
  slot    : Nat := 0
  /-- Loupe area (R266): per thread of the team, the epoch below which its accesses are ordered before this thread -/
  clock   : List (Nat × Nat) := []
  /-- the sets that fences with a release part attach to later writes, by scope (R259) -/
  frel    : List (BitVec 2 × List LEntry) := []
  /-- sets met by reads and not yet taken by a fence with an acquire part: scope, releasing team, entry (R259) -/
  fseen   : List (BitVec 2 × Nat × LEntry) := []
  deriving DecidableEq, Repr

/-! ## Teams -/

/-- A named barrier (R22). -/
structure Bar where
  btgt : W32 := 0
  bcnt : W32 := 0
  ph   : Bool := false
  init : Bool := false
  arv  : Nat := 0
  exp  : Nat := 0
  deriving DecidableEq, Repr

/-- A gang of a team: width, role and where it stands (R15, R230). -/
structure Gang where
  width : Nat
  role  : Nat
  part  : Nat := 0
  lane  : Nat := 0
  slot  : Nat := 0
  /-- retired (R113) -/
  done  : Bool := false
  /-- its retirement by `tail` found no tracker entry, so it retires as by `exit` (R238) -/
  byExit : Bool := false
  deriving DecidableEq, Repr

/-- Where a team is (R238, R244): on a core, saved from a core, retired but not ended, or ended. -/
inductive Home where
  | core (c : Nat)
  | saved (c : Nat)
  | drained (c : Nat)
  | savedDrained (c : Nat)
  deriving DecidableEq, Repr

/-- An open or closed collection of `copy`/`copyt` (R188, R189): its PC, which execution of it, its token and how many
slices joined. -/
structure Collection where
  pc     : W64
  nth    : Nat
  handle : W32
  g      : Nat
  joined : Nat
  deriving DecidableEq, Repr

/-- One team (R12, R20, R22, R25, R184, R238, R266). `uid` names the team in the module; `serial` is R266's. -/
structure Team where
  uid     : Nat
  serial  : W32
  asid    : Nat
  grid    : Nat
  /-- linear index in the grid; for a range, how many of its teams were placed before (R322, R323) -/
  lin     : Nat := 0
  tmx     : W32 := 0
  tmy     : W32 := 0
  tmz     : W32 := 0
  /-- extents of the grid (R25) -/
  gdx     : W32 := 0
  gdy     : W32 := 0
  gdz     : W32 := 0
  home    : Home
  gangs   : List Gang
  threads : List Thread
  k       : List W32
  bars    : List Bar
  ctl     : W32
  hent    : W64
  bwd     : W32
  pdl     : W32
  /-- trap routing mask in force for the team (R335) -/
  trm     : W32 := 0
  calld   : Nat := 0
  /-- declared scratch in 64 KiB units, first grant, all grants held, and bytes of one private record (R325) -/
  scr     : Nat := 0
  grant0  : Nat := 0
  ngrants : Nat := 0
  recLen  : Nat := 128
  /-- bytes of the grants of a saved team (R29, R247), by offset -/
  image   : List Host.Cell := []
  /-- where a saved team's image stands in the save area, in the space that its context's record is written in (R335) -/
  imageAt : Option W64 := Option.none
  /-- granted tiles, each the list of entries that are not +0 by 256 * row + column (R184) -/
  tiles   : List (List (Nat × W32)) := []
  tracker : Bool := false
  colls   : List Collection := []
  /-- executions of each copy PC by each gang: (pc, gang, count) (R188) -/
  execs   : List (W64 × Nat × Nat) := []
  /-- grids and ranges the team launched or submitted (R214, R216) -/
  kids    : List Nat := []
  ranges  : List Nat := []
  /-- the range the team was dispatched for (R217) -/
  range   : Option Nat := Option.none
  /-- a thread was killed or ended by a fault (R215) -/
  hurt    : Bool := false
  /-- being evicted, or evicted and not restored (R327) -/
  evicted : Bool := false
  epoch   : Nat := 0
  acq     : List LEntry := []
  /-- what the team's ordered operations that have ended did, by class and issuer, for those issued later (R287) -/
  ordered : List (Nat × Nat × List LEntry) := []
  nextCohort : Nat := 1
  deriving DecidableEq, Repr

/-! ## Operations and tokens -/

/-- Token states (R202, R281). -/
inductive TokState where
  | pending | running | split | done | faulted | cancelled
  deriving DecidableEq, Repr

/-- A token's fault record (R291); HANDLE and TEAM are added when it is written. -/
structure TokRec where
  addr   : W64 := 0
  doneb  : Nat := 0
  prog   : W32 := 0
  unit   : BitVec 16 := 0
  cause  : BitVec 8 := 0
  kind   : BitVec 3 := 0
  stage  : BitVec 3 := 0
  rpl    : Bool := false
  wr     : Bool := false
  pool   : Bool := false
  more   : Bool := false
  handle : W32 := 0
  team   : W32 := 0
  aux    : BitVec 256 := 0
  deriving DecidableEq, Repr

/-- A matrix operation (R180, R182, R297): its addresses, which a restore of the team moves with its scratch (R300); `idx` is
the index vector read at issue. -/
structure MmaOp where
  abase : Nat
  bbase : Nat
  sabase : Nat
  sbbase : Nat
  idxb  : Nat
  cbaddr : Nat
  k     : Nat
  m     : Nat
  n     : Nat
  afmt  : Nat
  bfmt  : Nat
  sck   : Nat
  acc   : Bool
  tile  : Nat
  row0  : Nat
  col0  : Nat
  astr  : Nat
  bstr  : Nat
  sastr : Nat
  sbstr : Nat
  arrive : W32
  idx   : List Nat
  knext : Nat := 0
  deriving DecidableEq, Repr

/-- A tensor layout record (R191). -/
structure Tlr where
  src   : W64
  dst   : W64
  ext   : Nat × Nat × Nat
  sstr  : Nat × Nat
  dstr  : Nat × Nat
  esz   : Nat
  edge  : BitVec 3
  org   : Int × Int × Int
  lim   : Nat × Nat × Nat
  fill  : W32
  deriving DecidableEq, Repr

/-- What a slice of a collection moves (R190, R192): bytes, or a tile. A restore of the team moves the addresses that lie in its
scratch (R300). -/
inductive SliceKind where
  | bytes (src dst : W64) (count : Nat)
  | tile (t : Tlr)
  deriving DecidableEq, Repr

/-- One slice (R188, R299): sectors done, and sectors that wait for the service of a fault with its entry id. -/
structure Slice where
  gang    : Nat
  what    : SliceKind
  arrive  : W32
  done    : List Nat := []
  /-- sectors whose write another chip has acknowledged -/
  acked   : List Nat := []
  /-- lines of other chips read for sectors in progress: sector, the model's name of the line, bytes -/
  lines   : List (Nat × Nat × List Byte) := []
  blocked : List (Nat × W32) := []
  deriving DecidableEq, Repr

/-- A copy operation (R188, R189). `excess` marks a slice beyond the G-th, `bad` a mismatched G. -/
structure CopyOp where
  tiled  : Bool
  g      : Nat
  slices : List Slice
  flip   : Bool
  excess : Bool := false
  deriving DecidableEq, Repr

/-- An entry of an SDB map (R198): block id and destination rank. -/
structure SendEntry where
  bid  : Nat
  rank : Nat
  /-- segments acknowledged by SACK (R375) -/
  acked : List Nat := []
  /-- segments sent at least once -/
  sent  : List Nat := []
  deriving DecidableEq, Repr

/-- An entry of the receive map (R198) and the segments delivered (R374). -/
structure RecvEntry where
  bid  : Nat
  got  : List Nat := []
  deriving DecidableEq, Repr

/-- A collective (R193 to R199): its parameters, chunk progress and, for `.shuf`, its maps. `rtab`
holds the rank table. -/
structure CollOp where
  kind   : Nat
  xsum   : Bool
  flip   : Bool
  grp    : W32
  nrank  : Nat
  rank   : Nat
  root   : Nat
  cnt    : Nat
  etype  : Nat
  rop    : Nat
  xblk   : Nat
  rtab   : List W32
  srcb   : W64
  dstb   : W64
  arrive : W32
  chunk  : Nat := 0
  blog   : Nat := 6
  strict : Bool := false
  unc    : Bool := false
  deg    : Nat := 0
  sends  : List SendEntry := []
  recvs  : List RecvEntry := []
  side   : List (Nat × W64) := []
  /-- its end has been seen by the hub's have-table (R368) -/
  left : Bool := false
  sending : Bool := false
  /-- a chunk is in progress (R290), with how many sectors; those done, those whose write another chip has acknowledged, those that a
  fault ended, those that wait for the service of a fault with its entry id, and for `.shuf` those to be sent -/
  open_  : Bool := false
  total  : Nat := 0
  done   : List Nat := []
  acked  : List Nat := []
  failed : List Nat := []
  blocked : List (Nat × W32) := []
  todo   : List Nat := []
  /-- the first fault of the rank, which ends it at the boundary, and ranks known to have stopped (R290) -/
  fault  : Option TokRec := Option.none
  stopped : List Nat := []
  /-- where the chunk in progress lies on ranks of other chips (R357) -/
  far    : List RemoteRank := []
  /-- which collective of its group on its core (R197), and whether the group's parameters disagree -/
  nth    : Nat := 0
  bad    : Bool := false
  /-- lines of other chips read for the chunk, and elements of an `.xsum` block that is not complete (R196): for each
  element the values of all ranks -/
  lines  : List (Nat × List Byte) := []
  terms  : List (Nat × List Nat) := []
  /-- requests for an uncoded segment whose SUM failed (R374): block id, segment, count -/
  retries : List (Nat × Nat × Nat) := []
  deriving DecidableEq, Repr

inductive Op where
  | mma (o : MmaOp) (cont : Bool)
  | copy (o : CopyOp)
  | coll (o : CollOp)
  deriving DecidableEq, Repr

/-- Who may change a token (R203, R284, R285). -/
inductive Holder where
  | team (uid : Nat)
  | grid (uid : Nat)
  | root
  deriving DecidableEq, Repr

/-- A token in its slot (R279 to R292). `born` orders tokens by issue, `ended` by the moment they became terminal. -/
structure Token where
  slot   : Nat
  gen    : BitVec 12
  asid   : Nat
  team   : Nat
  serial : W32
  issuer : Nat
  holder : Holder
  st     : TokState := .pending
  hold   : Bool
  cxl    : Bool := false
  unord  : Bool
  pri    : BitVec 2
  scope  : BitVec 2
  record : TokRec := {}
  recordRead : Bool := false
  deps   : List W32 := []
  born   : Nat
  ended  : Nat := 0
  /-- the continuation token that an `mmac` created from this one (R297) -/
  cont   : Option W32 := Option.none
  /-- the split token that this one continues (R183), and the place that it held in its order: team, issuer, issue (R287) -/
  orig   : Option W32 := Option.none
  seat   : Option (Nat × Nat × Nat) := Option.none
  paused : Bool := false
  age    : Nat := 0
  bytes  : Nat := 0
  /-- the first cycle in which the operation, once started, may access (R282) -/
  firstAt : Nat := 0
  /-- the boundary of the cycle splits the operation (R282, R296) -/
  splitting : Bool := false
  /-- every write is performed, and these MIR pages of other chips have yet to flip (R272) -/
  flipping : Bool := false
  flips  : List Nat := []
  /-- arrival words whose sync word moved with the team's scratch, each with its core (R300) -/
  swoHome : List (W32 × Nat) := []
  /-- Loupe set of what is ordered before the operation (R174, R266) -/
  hb     : List LEntry := []
  op     : Op
  deriving DecidableEq, Repr

/-! ## A core -/

/-- A store of a thread of this core not yet performed at its home (R256, R257): byte addresses and data. -/
structure HeldStore where
  asid : Nat
  team : Nat
  tid  : Nat
  data : List (Nat × Byte)
  /-- the sets it leaves with its bytes when it is performed (R259) -/
  carry : List Carried := []
  deriving DecidableEq, Repr

/-- An entry of the write-combining buffer (R156), keyed by peer chip and 128-byte line; `win` marks window lines, `dcore` is the
home core, `data` the enabled bytes by their offset in the line. -/
structure WcbEntry where
  peer : Nat
  win  : Bool
  line : Nat
  dcore : Nat
  asid : Nat
  data : List (Nat × Byte)
  age  : Nat := 0
  teams : List Nat := []
  /-- the model's name of the write -/
  id   : Nat := 0
  deriving DecidableEq, Repr

/-- A cached instruction (R73). -/
structure ISlot where
  asid  : Nat
  pc    : W64
  words : List W32
  deriving DecidableEq, Repr

/-- States of a SIT entry (R371). -/
inductive SitState where
  | free | valid | stale
  deriving DecidableEq, Repr

/-- A SIT entry in use (R371). -/
structure SitEntry where
  index : Nat
  asid  : Nat
  st    : SitState
  blog  : Nat
  off   : Nat
  bid   : Nat
  used  : Nat := 0
  deriving DecidableEq, Repr

/-- A Reticle comparator (R399). -/
structure Comparator where
  caddr : W64 := 0
  en    : Bool := false
  act   : Bool := false
  rd    : Bool := false
  wr    : Bool := false
  anyc  : Bool := false
  szl   : BitVec 6 := 0
  /-- reserved bits 20:14: read as 0, writes are ignored (R9) -/
  rsv   : BitVec 7 := 0
  asid  : BitVec 14 := 0
  lmask : BitVec 256 := 0
  deriving DecidableEq, Repr

/-- A pending pre-emption request (R244): its context, the cycle it was raised, whether the forced save was recorded. -/
structure Preempt where
  asid   : Nat
  raised : Nat
  forced : Bool := false
  /-- the context's last team here ended in the cycle of the request, which so applies to the next one placed (R249) -/
  next   : Bool := false
  deriving DecidableEq, Repr

/-- Who waits for the answer of a request (R357): nobody but the release parts, a thread, or an engine sector. -/
inductive Asker where
  | none
  | thread (team tid tag : Nat)
  | sector (slot slice sector : Nat)
  /-- a `pref` that fills the near cache with the line (R154) -/
  | prefetch (asid tag : Nat)
  /-- the flip of a token's MIR page (R272) -/
  | flip (slot frame : Nat)
  /-- the scheduler, which reads the line for a context (R311) -/
  | hub (asid tag : Nat)
  deriving DecidableEq, Repr

/-- A request of a core awaiting its answer (R361, R362): the stream's peer, SEQ, the packet for resending, who waits, and the
reply flits reserved. `sent` is false while no path exists (R398). -/
structure Outst where
  peer : Nat
  seq  : BitVec 12
  pkt  : Packet
  asker : Asker
  /-- teams whose stores the packet carries -/
  teams : List Nat := []
  flits : Nat
  sent : Bool := true
  /-- the 1 ms timer after a revoke of the tag has started (R361) -/
  dead : Bool := false
  /-- when the request was made, was held for want of a path, or its timer started, in nanoseconds -/
  since : Nat := 0
  /-- the model's name of the request -/
  id    : Nat := 0
  deriving DecidableEq, Repr

/-- A core's stream to one peer (R362, R363): next SEQ and the port in use, which is the relay's where it leads to another chip. -/
structure Stream where
  peer : Nat
  next : BitVec 12 := 0
  port : Option Nat := Option.none
  deriving DecidableEq, Repr

/-- One core (R2): a core that is not listed has all of this at reset. -/
structure CoreSt where
  id      : Nat
  near    : List NearLine := []
  held    : List HeldStore := []
  icache  : List ISlot := []
  wcb     : List WcbEntry := []
  tokens  : List Token := []
  /-- GEN of each slot used before (R280) -/
  gens    : List (Nat × BitVec 12) := []
  sit     : List SitEntry := []
  /-- coded packets held in decode slots (R374) -/
  decode  : List Packet := []
  retic   : List (Nat × Comparator) := []
  prq     : List Preempt := []
  /-- sr.prq as it stood at the end of the previous cycle (R26) -/
  prqSeen : List Nat := []
  streams : List Stream := []
  outst   : List Outst := []
  /-- collectives issued on the core, by context and group (R197) -/
  collSeq : List (Nat × W32 × Nat) := []
  /-- what a context left in grants that it no longer holds (R325): grant, ASID, bytes by offset in the grant -/
  residue : List (Nat × Nat × List Host.Cell) := []
  deriving DecidableEq, Repr

/-! ## Contexts, grids, queues -/

/-- An entry of a memory range list (R222): attributes in the order RD, W, X, CHK, MIR of bits 0 to 4. -/
structure MRange where
  pbase : Nat
  cbase : Nat
  len   : Nat
  attr  : BitVec 5
  deriving DecidableEq, Repr

/-- A grant (R222). -/
structure Grant where
  weight : Nat := 1
  excl   : Bool := false
  span   : BitVec 16 := 0
  dslot  : Nat := 0
  cset   : BitVec 128 := 0
  mrng   : List MRange := []
  nqueue : Nat := 0
  /-- (chip, core, grant) -/
  srng   : List (Nat × Nat × Nat) := []
  sitq   : Nat := 0
  linkbw : List Nat := []
  deriving DecidableEq, Repr

/-- A context record (R334). -/
structure Cxr where
  qtab   : W64 := 0
  lova   : W64 := 0
  savea  : W64 := 0
  stagea : W64 := 0
  imga   : W64 := 0
  hent   : W64 := 0
  saven  : Nat := 0
  trm    : W32 := 0
  pdl    : W32 := 262144
  bwd    : W32 := 0
  lovn   : Nat := 0
  wcbage : Nat := 2048
  stagen : Nat := 0
  ownw   : Nat := 0
  vf     : Nat := 0
  ctl    : BitVec 8 := 0
  pasid  : Nat := 0
  pase   : Bool := false
  deriving DecidableEq, Repr

/-- Who a handler-queue entry concerns (R345). -/
inductive Concern where
  | thread (team tid : Nat)
  | token (core : Nat) (handle : W32)
  /-- the completion store of a queue packet (R316) -/
  | packet (asid queue index : Nat)
  /-- a context that is discarded: the entry outlives it (R317, R397) -/
  | report
  /-- a forced save, which takes no answer (R394) -/
  | event
  deriving DecidableEq, Repr

/-- A handler-queue entry (R345). -/
structure Hqe where
  pc    : W64 := 0
  addr  : W64 := 0
  id    : W32 := 0
  src   : W32 := 0
  team  : W32 := 0
  token : W32 := 0
  cause : BitVec 8 := 0
  stage : BitVec 3 := 0
  unh   : Bool := false
  nest  : Bool := false
  rpl   : Bool := false
  tok   : Bool := false
  wr    : Bool := false
  chip  : BitVec 4 := 0
  core  : BitVec 7 := 0
  tid   : BitVec 12 := 0
  aux   : BitVec 208 := 0
  about : Concern := .event
  /-- ASID of the faulting context, and the team under whose binding the entry is queued -/
  ctx   : Nat := 0
  under : Nat := 0
  deriving DecidableEq, Repr

/-- A handler binding (R227): the team, and the child it covers, or every child. -/
structure Binding where
  team  : Nat
  child : Option Nat
  deriving DecidableEq, Repr

/-- A launch record (R213), decoded. Roles as (gang count, width code, allotment, entry offset). -/
structure Lrc where
  code  : W64
  gdx   : Nat
  gdy   : Nat
  gdz   : Nat
  consts : List W32
  scr   : Nat
  calld : Nat
  acct  : Nat
  prio  : Nat
  seed  : W64
  roles : List (Nat × Nat × Nat × Nat)
  deriving DecidableEq, Repr

/-- Where a grid came from (R214, R216, R316). -/
inductive Origin where
  | launch (team : Nat)
  | packet (queue : Nat) (index : Nat)
  | range (handle : Nat)
  /-- one team of the grid `uid` of the queue chip `chip`, placed here (R323, R425) -/
  | far (chip uid : Nat)
  deriving DecidableEq, Repr

/-- A grid or a range's dispatch (R213, R322, R328). `next` is the linear index of the next team to place. -/
structure Grid where
  uid    : Nat
  handle : W32
  asid   : Nat
  lrc    : Lrc
  depth  : Nat
  origin : Origin
  parent : Option Nat
  next   : Nat := 0
  total  : Nat
  ended  : Nat := 0
  hurt   : Bool := false
  /-- waits in the overflow area (R326) -/
  spilt  : Bool := false
  placedOn : List Nat := []
  /-- teams that stand on other chips of the span: index and chip (R323, R425) -/
  away   : List (Nat × Nat) := []
  /-- Loupe sets: what its launch released, and what its ended teams released (R259) -/
  carry  : List LEntry := []
  endSet : List LEntry := []
  deriving DecidableEq, Repr

/-- A range (R216 to R218, R328): bounds, done count, shares by team. -/
structure Range where
  handle : Nat
  asid   : Nat
  team   : Option Nat
  lo     : Nat
  hi     : Nat
  done   : Nat := 0
  complete : Bool := false
  started : Bool := false
  hurt   : Bool := false
  shares : List (Nat × Nat × Nat) := []
  /-- the queue and index of the RANGE packet that submitted it (R316) -/
  pkt    : Option (Nat × Nat) := Option.none
  deriving DecidableEq, Repr

/-- A packet consumed from a queue and not yet completed (R316). -/
structure QPacket where
  queue  : Nat
  index  : Nat
  type   : Nat
  ord    : Bool
  sig    : Bool
  csig   : W64
  cval   : W64
  lrca   : W64
  lo     : Nat
  hi     : Nat
  lrc    : Option Lrc := Option.none
  started : Bool := false
  /-- work done; the completion store may still wait for the service of a fault (R316), under an entry's id -/
  ended  : Bool := false
  stuck  : Option W32 := Option.none
  /-- the service of that fault failed -/
  failed : Bool := false
  /-- what its grid's teams released (R259) -/
  carry  : List LEntry := []
  deriving DecidableEq, Repr

/-- A queue the scheduler knows (R311 to R317). -/
structure QueueSt where
  num    : Nat
  rung   : Bool := false
  /-- returned halted by a revoked child (R349): no ring sets it -/
  halted : Bool := false
  /-- Loupe set that `qnote` released (R259) -/
  carry  : List LEntry := []
  deriving DecidableEq, Repr

/-- A context (R331 to R335, R347, R412). -/
structure Ctx where
  asid   : Nat
  level  : Nat
  parent : Option Nat
  /-- false from step 1 of a revoke, which began in cycle `revokeAt` (R349) -/
  live   : Bool := true
  revokeAt : Nat := 0
  grant  : Grant
  cxr    : Cxr
  /-- the record of a `dvgrant` that is not complete (R335) -/
  nextCxr : Option Cxr := Option.none
  qbase  : Nat := 0
  /-- every queue of the context is halted (R317) -/
  qhalt  : Bool := false
  left   : Nat := 0
  feat   : BitVec 64
  /-- contexts that hold a freeze on it (R347); the module checkpoint is issuer 16384 -/
  freezes : List Nat := []
  /-- threads whose device-tree commands name this context, in arrival order (R225) -/
  commands : List (Nat × Nat) := []
  rovf   : W32 := 0
  /-- energy counter and its sticky flag (R412); `due` holds the charges of the cycle in progress, which no read shows yet -/
  energy : Nat := 0
  esat   : Bool := false
  due    : Nat := 0
  charged : Nat := 0
  deficit : Int := 0
  starve : Nat := 0
  hqes   : List Hqe := []
  popped : List Hqe := []
  bindings : List Binding := []
  nextHqe : W32 := 1
  nextTeam : W32 := 1
  nextHandle : W32 := 1
  /-- grids queued by launch, newest last, as grid uids (R326) -/
  launchQ : List Nat := []
  lovQ   : List Nat := []
  queues : List QueueSt := []
  qpkts  : List QPacket := []
  ranges : List Range := []
  nextRange : Nat := 1
  /-- the stage the device last built from the grant (R336): mapped granules are in memory; this is its base -/
  stage  : W64 := 0
  keyId  : Nat := 0
  /-- old to new handles after a restore (R348) -/
  handles : List (W32 × W32) := []
  deriving DecidableEq, Repr

/-! ## The chip -/

/-- A Collimator entry (R341): 64 KiB granules of a page share one composed translation. -/
structure CollEntry where
  asid : Nat
  gen  : Nat
  page : Nat
  pa   : Nat
  attr : BitVec 5
  size : Nat
  /-- the page's address in the space of each ancestor, through which the entry was composed: ASID and address (R226, R336) -/
  via  : List (Nat × Nat) := []
  deriving DecidableEq, Repr

/-- A granule record of the Loupe (R266). -/
structure Granule where
  granule : Nat
  asid : Nat
  /-- oldest first, each with sr.rovf as it stood when the entry was recorded (R267), and the moment by `State.stamp` -/
  entries : List (LEntry × W32 × Nat)
  deriving DecidableEq, Repr

/-- A line of external pool memory held in the chip's home caches, while memory holds the device's view of it: the bytes that the
pool holds, and whether the device has written the line since (R277). -/
structure PoolLine where
  line  : Nat
  data  : List Byte
  dirty : Bool := false
  deriving DecidableEq, Repr

/-- A Termifer Link port (R352 to R360). Sequence numbers are the framing's 10 bits. -/
structure LinkPort where
  num    : Nat
  peer   : Nat
  up     : Bool := false
  disabled : Bool := false
  rxNext : BitVec 10 := 0
  txNext : BitVec 10 := 0
  fails  : Nat := 0
  /-- packets sent whose last flit the peer has not acknowledged: (sequence number of the last flit, packet) (R355) -/
  replay : List (BitVec 10 × Packet) := []
  /-- packets that wait for permits or replay-buffer room (R355, R360) -/
  queue  : List Packet := []
  /-- send permits in use per channel, and shared permits granted (R360) -/
  used   : List (Nat × Nat) := []
  shared : List (Nat × Nat) := []
  /-- flits of the ingress pool in use per channel (R358), and permits to return -/
  pool   : List (Nat × Nat) := []
  owed   : List (Nat × Nat) := []
  /-- round robin position and deficits of channels 5 to 63 (R359) -/
  rr     : Nat := 5
  deficit : List (Nat × Nat) := []
  /-- replay asked of the peer (R355) -/
  askReplay : Bool := false
  /-- last flit that the peer has acknowledged, and the flit whose replay it has asked for with the number of times running (R355) -/
  acked  : BitVec 10 := 1023
  asked  : Option (BitVec 10 × Nat) := Option.none
  /-- as receiver: channels with demand, shared permits granted, and the channel whose turn is next (R360) -/
  want   : List Nat := []
  granted : List (Nat × Nat) := []
  turn   : Nat := 0
  /-- what the last framing sent said: the acknowledgement, the demand and whether replay was asked for -/
  told   : BitVec 10 × List Nat × Bool := (1023, [], false)
  deriving DecidableEq, Repr

/-- What the framing of this chip's flits tells a peer (R354, R355, R360). -/
structure Framing where
  port  : Nat
  ack   : BitVec 10
  again : Bool
  back  : List (Nat × Nat)
  grant : List (Nat × Nat)
  want  : List Nat
  deriving DecidableEq, Repr

/-- A have-table entry (R368). -/
structure HaveEntry where
  ftag : BitVec 16
  grp  : W32
  blog : Nat
  bid  : Nat
  chip : Nat
  core : Nat
  deriving DecidableEq, Repr

/-- A segment queued at a Prism (R369). -/
structure PrismSeg where
  pkt  : Packet
  deg  : Nat
  coded : Bool
  resend : Bool
  deriving DecidableEq, Repr

/-- A Prism (R353, R369): link ports are 0 to 14, the hub-to-die link of die d is 15 + d. -/
structure Prism where
  port : Nat
  segs : List PrismSeg
  deriving DecidableEq, Repr

/-- The fabric side of the chip. -/
structure Fabric where
  ports  : List LinkPort := []
  /-- tag table (R366): ASID, incarnation, LIVE -/
  tags   : List (Nat × Nat × Bool) := []
  have_  : List HaveEntry := []
  /-- HAVE announcements this chip's ranks await: ftag, group, chip, core (R368) -/
  haveWait : List (BitVec 16 × W32 × Nat × Nat) := []
  prisms : List Prism := []
  /-- packets that have left this chip, newest last: what the peers receive -/
  egress : List (Nat × Packet) := []
  /-- flits sent again from replay buffers: port, number of the last flit, and packet (R355) -/
  replayed : List (Nat × BitVec 10 × Packet) := []
  /-- framing sent, newest last -/
  framing : List Framing := []
  /-- decode permits that a Prism holds: port, chip, core, number (R374) -/
  permits : List (Nat × Nat × Nat × Nat) := []
  /-- packets in the pools of the ports, with their port, oldest first (R358) -/
  arrived : List (Nat × Packet) := []
  /-- packets on their way within the chip (hub to core), oldest first -/
  local_ : List Packet := []
  /-- duplicate filter (R362): source chip, source core, SEQ performed and what answered it, newest first -/
  seen   : List (Nat × Nat × BitVec 12 × Packet) := []
  /-- dropped-packet notices in the current millisecond, by port (R392) -/
  dropNoted : List Nat := []
  /-- lines of other chips' memory that the scheduler has read for contexts, until it uses them: ASID, line, bytes (R311) -/
  hub    : List (Nat × Nat × List Byte) := []
  /-- firmware commands received (R357) -/
  commands : List Packet := []
  deriving DecidableEq, Repr

/-- A Page Request Group (R389). -/
structure Prg where
  asid  : Nat
  fn    : Nat
  index : Nat
  rq    : AtsReq
  wr    : Bool
  rd    : Bool
  sent  : Bool
  deriving DecidableEq, Repr

/-- A notice (R392). -/
structure Notice where
  kind  : Nat
  id    : W32 := 0
  addr  : W64 := 0
  data  : W64 := 0
  asid  : Nat := 0
  chip  : Nat := 0
  core  : Nat := 0
  cause : BitVec 8 := 0
  deriving DecidableEq, Repr

/-- What a notice that takes an answer concerns (R390). -/
structure Asked where
  id    : W32
  about : Concern
  rpl   : Bool
  /-- the address and direction of the access -/
  addr  : W64 := 0
  wr    : Bool := false
  deriving DecidableEq, Repr

/-- The notice ring and root invalidation registers of one control port (R393). -/
structure PortRegs where
  nrbase : W64 := 0
  en     : Bool := false
  log    : Nat := 0
  head   : W32 := 0
  tail   : W32 := 0
  lost   : W32 := 0
  waiting : List Notice := []
  deriving DecidableEq, Repr

/-- What the module sends to the host or management side. -/
inductive HostMsg where
  | atsRequest (rq : AtsReq) (wr : Bool)
  | pageRequest (fn index : Nat) (rq : AtsReq) (rd wr : Bool)
  | invalidateDone (rq : AtsReq)
  | readData (data : List Byte)
  | spdm (port : Port) (body : List Byte)
  | poisoned (pa : Nat)
  deriving DecidableEq, Repr

/-- Registers and queues that face the host. -/
structure HostSide where
  portA : PortRegs := {}
  portB : PortRegs := {}
  s0inva : W64 := 0
  s0invl : W64 := 0
  s0invgo : Bool := false
  nextNotice : W32 := 1
  asked : List Asked := []
  prgs  : List Prg := []
  nextPrg : List (Nat × Nat) := []
  /-- ATS Invalidate Requests not yet complete, each with its number of pages (R389) -/
  invs  : List (AtsReq × Nat) := []
  /-- translations the device holds from the host (R389): request, readable, writable -/
  ats   : List (AtsReq × Bool × Bool) := []
  sems  : List (Nat × Port × Nat) := []
  /-- the port that lost the previous tie (R403) -/
  tieLost : Port := .a
  easid : BitVec 14 := 0
  out   : List HostMsg := []
  deriving DecidableEq, Repr

/-- Where the module is in its life (R407). -/
inductive Phase where
  | off | resetting | running | pinhole
  deriving DecidableEq, Repr

/-- A saved-context image (R348): the contexts, teams and tokens it holds, by value. -/
structure Image where
  ctxs   : List Ctx
  teams  : List Team
  tokens : List (Nat × Token)
  grids  : List Grid
  deriving DecidableEq, Repr

/-- A module checkpoint on a tier (R410): scope, base, header written, the tree and the raw memory. -/
structure Checkpoint where
  scope  : Bool
  base   : W64
  /-- its 256 bytes of header and the bytes of the tree image, which the header's digest covers (R410) -/
  header : List Byte
  image  : List Byte
  tree   : Image
  mem    : List Host.Cell
  poison : List Nat
  owners : List (Nat × Nat)
  /-- the selectors of MIR pages (log 52) -/
  mirrors : List (Nat × Bool) := []
  deriving DecidableEq, Repr

/-- Start, checkpoint, power and identity (R403 to R416). -/
structure Care where
  phase  : Phase := .resetting
  att    : Nat := 0
  last   : Nat := 0
  srce   : Nat := 0
  /-- the objects in module flash (R404) -/
  firmware : List Byte := []
  owner  : List Byte := []
  record : List Byte := []
  /-- the configuration record in force (R406) -/
  config : List Byte := []
  measures : List (List Byte) := []
  /-- SPDM algorithms agreed on a port -/
  spdm   : List Port := []
  ckGo   : Bool := false
  ckOp   : BitVec 2 := 0
  ckScope : Bool := false
  ckBase : W64 := 0
  /-- the base of the operation in progress -/
  ckAt   : W64 := 0
  ckDone : Nat := 0
  ckCause : BitVec 8 := 0
  ckSt   : Nat := 0
  checkpoints : List Checkpoint := []
  pwr    : Nat := 0
  fclk   : Nat := 2700
  tj     : Nat := 0
  thr    : BitVec 2 := 0
  lostTier : List (Bool × Nat) := []
  deriving DecidableEq, Repr

/-- The scheduler (R319 to R321). -/
structure Sched where
  /-- ring of active contexts; its head is at the pointer (R320) -/
  ring  : List Nat := []
  /-- images that `dvckpt` wrote (R348): the caller's private value, the image's bytes and what they stand for -/
  images : List (Nat × List Byte × Image) := []
  /-- commands that each cluster's leaf controller has been sent in this cycle, each with its answer (R318) -/
  links  : List (Nat × Nat) := []
  deriving DecidableEq, Repr

/-- Memory: the listed bytes of the one address space of `Machine/Mem.lean`, strictly rising, none zero. -/
abbrev Memory := List Host.Cell

/-- The module. -/
structure State where
  mem    : Memory := []
  cores  : List CoreSt := []
  teams  : List Team := []
  ctxs   : List Ctx := []
  /-- generation of every ASID used before, and incarnation (R333, R341) -/
  asidGen : List (Nat × Nat) := []
  grids  : List Grid := []
  coll   : List CollEntry := []
  granules : List Granule := []
  carry  : List Carried := []
  mirrors : List (Nat × Bool) := []
  pool   : List PoolLine := []
  poison : List Nat := []
  owners : List (Nat × Nat) := []
  fab    : Fabric := {}
  host   : HostSide := {}
  care   : Care := {}
  sched  : Sched := {}
  cycle  : Nat := 0
  /-- nanoseconds (R229), and the rest of a nanosecond in units of 1/fclk -/
  ns     : Nat := 0
  nsRest : Nat := 0
  nextUid : Nat := 1
  stamp  : Nat := 0
  /-- the model's own: events that take place next, the rest of the issue set, the partition cursor, the PC of the issue set, word 0 of the
  instruction in hand, the counter of free values -/
  inputs : List Instr := []
  issue  : List (Nat × Nat) := []
  part   : Nat := 0
  setPc  : W64 := 0
  ir     : W32 := 0
  freeCtr : Nat := 0
  deriving DecidableEq, Repr

/-! ## Stops -/

/-- The model's faults. Both are safe: the hardware takes no such step. -/
inductive Fault where
  /-- raised by an instruction executed when no resident thread is in hand; the issue stage never does that (R234). Safe. -/
  | noThread
  /-- raised by an event whose own condition does not hold in this state, such as TOKEN_START of a token that may not
  start (R281); the hardware would not take the step. Safe. -/
  | notEnabled
  deriving DecidableEq, Repr

/-- The model's refusals. -/
inductive Refusal where
  /-- raised by an arm of `exec` for an instruction that has no meaning yet. Safe. -/
  | notModelled (mnemonic : String)
  deriving DecidableEq, Repr

/-- The module after power-on, before its start steps (R407): registers and barriers at their reset values, no thread,
every SRAM array and memory list empty. The defaults of the structures above are these values. -/
def State.reset : State := {}

end Sys2Proof.Machine
end

