-- ==== Sys2Proof/Machine/Mem.lean ====
section
/-! DEFINITION. Memory as one canonical list of bytes, the keys of its bytes, and the lookups and updates of the state's
tables. A physical byte has its 52-bit address as key; byte o of core c's slice on this chip has key 2^52 + c * 2^28 + o. -/

namespace Sys2Proof.Machine

open Sys2Proof

/-! ## Bytes -/

/-- What a byte that nothing has written reads as; log 4. -/
def unlisted : Byte := 0

/-- The listed value of a key, or what an unlisted byte reads as. -/
def memGet (m : Memory) (k : Nat) : Byte :=
  match m with
  | [] => unlisted
  | (a, b) :: r => if a = k then b else memGet r k

/-- A byte in front of a list, left out when it is what an unlisted byte reads as. -/
def memCons (k : Nat) (b : Byte) (m : Memory) : Memory := if b = unlisted then m else (k, b) :: m

/-- Writing one byte keeps the canonical form. -/
def memSet (m : Memory) (k : Nat) (b : Byte) : Memory :=
  match m with
  | [] => memCons k b []
  | (a, c) :: r =>
    if a < k then (a, c) :: memSet r k b
    else if a = k then memCons k b r
    else memCons k b ((a, c) :: r)

/-- Canonical form: addresses strictly rising above `lo`, and no listed byte equal to an unlisted one. -/
def wfAbove (lo : Nat) (m : Memory) : Bool :=
  match m with
  | [] => true
  | (a, b) :: r => decide (lo ≤ a) && b != unlisted && wfAbove (a + 1) r

/-- Canonical form of a memory. -/
def Memory.wf (m : Memory) : Bool := wfAbove 0 m

/-- n bytes from a key upward. -/
def memRead (m : Memory) (k : Nat) : Nat → List Byte
  | 0 => []
  | n + 1 => memGet m k :: memRead m (k + 1) n

/-- Bytes written from a key upward. -/
def memWrite (m : Memory) (k : Nat) (bs : List Byte) : Memory :=
  match bs with
  | [] => m
  | b :: r => memWrite (memSet m k b) (k + 1) r

/-- Single bytes written by key, in order. -/
def memPut (m : Memory) (ps : List (Nat × Byte)) : Memory :=
  match ps with
  | [] => m
  | (k, b) :: r => memPut (memSet m k b) r

/-- Every byte of [k, k + n) as an unlisted byte. -/
def memClear (m : Memory) (k n : Nat) : Memory := m.filter (fun c => decide (c.1 < k ∨ k + n ≤ c.1))

/-- Pairs of keys and bytes from k upward. -/
def keyed (k : Nat) (bs : List Byte) : List (Nat × Byte) :=
  match bs with
  | [] => []
  | b :: r => (k, b) :: keyed (k + 1) r

/-- Key of byte `off` of a core's slice on this chip. -/
def sliceKey (core off : Nat) : Nat := 2 ^ 52 + core * 2 ^ 28 + off

def isSliceKey (k : Nat) : Bool := decide (2 ^ 52 ≤ k)

/-! ## The state's memory -/

def readKey (s : State) (k n : Nat) : List Byte := memRead s.mem k n
def writeKey (s : State) (k : Nat) (bs : List Byte) : State := { s with mem := memWrite s.mem k bs }
def putKeys (s : State) (ps : List (Nat × Byte)) : State := { s with mem := memPut s.mem ps }
def clearKeys (s : State) (k n : Nat) : State := { s with mem := memClear s.mem k n }

/-! ## Configuration record (R406) -/

/-- Bits [hi:lo] of the configuration record in force; 0 beyond its end. -/
def cfgBits (s : State) (hi lo : Nat) : Nat :=
  bitsAt (bytesNat (s.care.config.take 256)) hi lo

def chipId (s : State) : Nat := cfgBits s 51 48
/-- Chips of the fabric (NCHM1 + 1). -/
def numChips (s : State) : Nat := cfgBits s 55 52 + 1
/-- A chip of the fabric; a single module is the only one, whatever its id (R3, R406). -/
def inFabric (s : State) (chip : Nat) : Bool := chip == chipId s || (decide (1 < numChips s) && decide (chip < numChips s))
def fabricChips (s : State) : List Nat := (List.range 16).filter (inFabric s)
def portPeer (s : State) (p : Nat) : Nat := cfgBits s (59 + 4 * p) (56 + 4 * p)

/-! ## Tables -/

def getTeam (s : State) (uid : Nat) : Option Team := s.teams.find? (fun t => t.uid == uid)
def getGrid (s : State) (uid : Nat) : Option Grid := s.grids.find? (fun g => g.uid == uid)
def getCtx (s : State) (asid : Nat) : Option Ctx := s.ctxs.find? (fun c => c.asid == asid)

/-- A core's state; a core not listed is as reset leaves it. -/
def getCore (s : State) (c : Nat) : CoreSt :=
  match s.cores.find? (fun x => x.id == c) with
  | some x => x
  | none => { id := c }

/-- Replace the first element for which p holds, or add at the end. -/
def upsert {α : Type} (p : α → Bool) (v : α) (l : List α) : List α :=
  match l with
  | [] => [v]
  | x :: r => if p x then v :: r else x :: upsert p v r

/-- Replace the first element for which p holds; nothing where there is none. -/
def replaceIf {α : Type} (p : α → Bool) (v : α) (l : List α) : List α :=
  match l with
  | [] => []
  | x :: r => if p x then v :: r else x :: replaceIf p v r

def setTeam (s : State) (t : Team) : State := { s with teams := replaceIf (fun x => x.uid == t.uid) t s.teams }
def setGrid (s : State) (g : Grid) : State := { s with grids := replaceIf (fun x => x.uid == g.uid) g s.grids }
def setCtx (s : State) (c : Ctx) : State := { s with ctxs := replaceIf (fun x => x.asid == c.asid) c s.ctxs }
def setCore (s : State) (c : CoreSt) : State := { s with cores := upsert (fun x => x.id == c.id) c s.cores }

def modCore (s : State) (c : Nat) (f : CoreSt → CoreSt) : State := setCore s (f (getCore s c))
def modTeam (s : State) (uid : Nat) (f : Team → Team) : State :=
  match getTeam s uid with
  | some t => setTeam s (f t)
  | none => s
def modCtx (s : State) (asid : Nat) (f : Ctx → Ctx) : State :=
  match getCtx s asid with
  | some c => setCtx s (f c)
  | none => s
def modGrid (s : State) (uid : Nat) (f : Grid → Grid) : State :=
  match getGrid s uid with
  | some g => setGrid s (f g)
  | none => s

/-- Thread `tid` of a team, and its replacement. -/
def getThread (t : Team) (tid : Nat) : Option Thread := t.threads[tid]?
def setThread (t : Team) (tid : Nat) (th : Thread) : Team := { t with threads := t.threads.set tid th }
def modThread (s : State) (uid tid : Nat) (f : Thread → Thread) : State :=
  modTeam s uid (fun t => match getThread t tid with
    | some th => setThread t tid (f th)
    | none => t)

/-- The core a team stands on, or was saved from. -/
def homeCore (h : Home) : Nat :=
  match h with
  | .core c => c
  | .saved c => c
  | .drained c => c
  | .savedDrained c => c

def teamCore (t : Team) : Nat := homeCore t.home

/-- On a core with its gangs in place (R244). -/
def teamResident (t : Team) : Bool := match t.home with | .core _ => true | _ => false

/-- The chain of contexts from one at level L up to the root (R331). -/
def ctxChain (s : State) : Nat → Nat → List Ctx
  | 0, _ => []
  | n + 1, asid =>
    match getCtx s asid with
    | none => []
    | some c => c :: (match c.parent with | none => [] | some p => ctxChain s n p)

def chainOf (s : State) (asid : Nat) : List Ctx := ctxChain s 8 asid

/-- x is the context or one of its descendants. -/
def inSubtree (s : State) (top x : Nat) : Bool := (chainOf s x).any (fun c => c.asid == top)

/-- The ASIDs of a context's subtree, itself included. -/
def subtree (s : State) (top : Nat) : List Nat := (s.ctxs.map (·.asid)).filter (fun x => inSubtree s top x)

/-- A freeze is in effect on the context or an ancestor (R347). -/
def frozen (s : State) (asid : Nat) : Bool := (chainOf s asid).any (fun c => !c.freezes.isEmpty)

/-- A fresh free value is taken at the counter's value, which advances. -/
def nextFree (s : State) : State := { s with freeCtr := s.freeCtr + 1 }

/-- One of several candidates, where the spec leaves the choice open. -/
def pickFrom {α : Type} (s : State) (l : List α) : Option α × State := (l[Config.pick s.freeCtr % l.length]?, nextFree s)

/-- A name of a kind that is neither 0 nor all ones, and the counter after it. -/
def pickId (kind : Nat) (n : W32) : W32 × W32 :=
  let ok := fun (i : W32) => Config.idBase kind + n + i != 0 && Config.idBase kind + n + i != 0xFFFFFFFF
  let i : W32 := if ok 0 then 0 else if ok 1 then 1 else 2
  (Config.idBase kind + n + i, n + i + 1)

end Sys2Proof.Machine
end

