-- ==== Sys2Proof/Machine/Xlate.lean ====
section
/-! DEFINITION. Address spaces, homes and translation (R250 to R254, R336 to R342), the requester of host accesses (R351),
and the address checks 1 to 6 and 8 of R144. -/

namespace Sys2Proof.Machine

open Sys2Proof

/-- What a trap puts into the record (R385, R386), beside what the thread itself supplies. -/
structure Trap where
  cause : Cause
  addr  : W64 := 0
  stage : Nat := 0
  rpl   : Bool := false
  wr    : Bool := false
  widx  : Nat := 0
  str   : Bool := false
  lnd   : Bool := false
  imm8  : Nat := 0
  aux   : Nat := 0
  noWord : Bool := false
  /-- a Reticle match with ACT = 1 (R401) -/
  halt  : Bool := false
  /-- the instruction had not issued: its words could not be fetched (R229) -/
  unissued : Bool := false
  deriving DecidableEq, Repr

/-- Cause codes (R385). -/
def causeCode (c : Cause) : Nat :=
  match c with
  | .illegalOpc => 0x01
  | .reservedField => 0x02
  | .maskedFeature => 0x03
  | .stallCount => 0x04
  | .tagMismatch => 0x05
  | .misalignedData => 0x06
  | .badTarget => 0x07
  | .fetchFault => 0x08
  | .dataFault => 0x09
  | .permission => 0x0A
  | .scratchBounds => 0x0B
  | .race => 0x0C
  | .barrierStall => 0x0D
  | .streamDesync => 0x0E
  | .siMiss => 0x0F
  | .tokenFault => 0x10
  | .launchFull => 0x11
  | .uncorrectable => 0x12
  | .trapInstr => 0x13
  | .breakpoint => 0x14
  | .watch => 0x15
  | .preemptForced => 0x16
  | .revoked => 0x17
  | .stackOverflow => 0x18

/-! ## Kinds of address (R250, R251) -/

def windowBase : Nat := 0x01F0000000000000

def isWindow (a : W64) : Bool := a.toNat / 2 ^ 39 == windowBase / 2 ^ 39

/-- Bits [63:57] all equal bit 56 (R143). -/
def isCanonical (a : W64) : Bool := a.toNat / 2 ^ 56 == 0 || a.toNat / 2 ^ 56 == 255

def winChip (a : W64) : Nat := bitsAt a.toNat 38 35
def winCore (a : W64) : Nat := bitsAt a.toNat 34 28
def winOff (a : W64) : Nat := bitsAt a.toNat 27 0

/-- The window address of an offset in a core's slice. -/
def windowAddr (chip core off : Nat) : W64 := BitVec.ofNat 64 (windowBase + chip * 2 ^ 35 + core * 2 ^ 28 + off)

/-! ## Physical map (R252, R253) -/

def paHost (pa : Nat) : Bool := bitsAt pa 51 50 == 3
def paPool (pa : Nat) : Bool := bitsAt pa 51 50 == 2

/-- The chip field of a physical address: its home chip. -/
def paChip (pa : Nat) : Nat := if bitsAt pa 51 51 == 0 then bitsAt pa 50 47 else bitsAt pa 49 46

/-- The home core of a line (R253). -/
def paCore (pa : Nat) : Nat :=
  bitsAt pa 13 7 ^^^ bitsAt pa 20 14 ^^^ bitsAt pa 27 21 ^^^ bitsAt pa 34 28 ^^^ bitsAt pa 41 35 ^^^ bitsAt pa 48 42

/-- A byte of memory exists at the address (R252, R406): its chip is in the fabric and, on this chip, its stack, expander
or port is enabled. In Pinhole mode only host memory is used (R407). -/
def paExists (s : State) (pa : Nat) : Bool :=
  let mine := paChip pa == chipId s
  let pin := s.care.phase == .pinhole
  inFabric s (paChip pa) && decide (pa < 2 ^ 52) &&
  if bitsAt pa 51 51 == 0 then
    let off := pa % 2 ^ 44
    let r := bitsAt pa 46 44
    !pin && decide (off < 1024 * 10 ^ 9) &&
      (if r == 0 then !mine || (cfgBits s 159 144).testBit (off / (64 * 10 ^ 9))
       else decide (r ≤ 4) && (!mine || (cfgBits s 163 160).testBit (r - 1)))
  else if paPool pa then
    let p := bitsAt pa 45 43
    !pin && decide (p < 6) && (!mine || (cfgBits s 169 164).testBit p)
  else true

/-! ## Translation (R336 to R340) -/

/-- A composed translation: physical address, attributes RD W X CHK MIR from bit 0, page size code, and the address that gives the home
core: in a MIR page that of the page's first line (R253). -/
structure Xl where
  pa   : Nat
  home : Nat
  attr : BitVec 5
  size : Nat
  deriving DecidableEq, Repr

/-- A valid stage entry's T, address, attributes and size (R337); a reserved bit makes it absent. -/
def stageEntry (zero : Bool) (e : W64) : Option (Bool × Nat × BitVec 5 × Nat) :=
  let n := e.toNat
  let size := bitsAt n 9 8
  if bitsAt n 0 0 == 1 && bitsAt n 63 57 == 0 && bitsAt n 15 10 == 0 && bitsAt n 6 6 == 0
      && (!zero || bitsAt n 56 52 == 0) then
    some (bitsAt n 7 7 == 1, bitsAt n 56 16 * 2 ^ 16, BitVec.ofNat 5 (bitsAt n 5 1), size)
  else none

/-- One radix descent: the shifts and index widths still to go, and the node. A top-node entry must have T = 1, and a
last-level one T = 0. It answers the target, its attributes and SIZE, and the shift at which the entry stands. -/
def descend (rd : Nat → Except Nat W64) (stage : Nat) (zero : Bool) (a : Nat) :
    List (Nat × Nat) → Bool → Nat → Except Nat (Nat × BitVec 5 × Nat × Nat)
  | [], _, _ => .error stage
  | (sh, w) :: r, top, node =>
    match rd (node + 8 * (a / 2 ^ sh % 2 ^ w)) with
    | .error k => .error k
    | .ok e =>
      match stageEntry zero e with
      | none => .error stage
      | some (t, addr, attr, size) =>
        if t then descend rd stage zero a r false addr
        else if top then .error stage
        else .ok (addr + a % 2 ^ sh, attr, size, sh)

/-- The selector of a MIR page: whether the second frame is the visible one (R270). -/
def mirSel (s : State) (pa : Nat) : Bool := ((s.mirrors.find? (fun p => p.1 == pa / 65536)).map (·.2)).getD false

/-- Whether an access to a MIR page takes the second frame of its pair: the selector decides at the page's home. A request to another
chip names the first frame for the visible one and the second for the shadow, and its home applies the selector. -/
def mirSecond (s : State) (shadow : Bool) (pa : Nat) : Bool :=
  if paChip pa == chipId s then mirSel s pa != shadow else shadow

/-- Translation of a level-L device address through the chain of contexts from level L to the root. `shadow` asks for
the frame that engine writes reach (R271). An error names the stage that has no entry (R339). -/
def walk (s : State) (shadow : Bool) : List Ctx → Nat → Except Nat Xl
  | [], a => .ok { pa := a, home := a, attr := 7, size := 2 }
  | c :: rest, a =>
    let rd := fun p => match walk s shadow rest p with
      | .error k => .error k
      | .ok x => .ok (BitVec.ofNat 64 (bytesNat (readKey s x.pa 8)))
    match descend rd c.level (c.level == 0) a [(55, 2), (42, 13), (29, 13), (16, 13)] true c.cxr.stagea.toNat with
    | .error k => .error k
    | .ok (t, attr, size, _) =>
      match walk s shadow rest t with
      | .error k => .error k
      | .ok x =>
        let join := fun (y : Xl) => ({ pa := y.pa, home := if attr.getLsbD 4 then x.home - x.home % 65536 else y.home,
                                       attr := (attr &&& y.attr &&& 7) ||| ((attr ||| y.attr) &&& 24),
                                       size := min size y.size } : Xl)
        if attr.getLsbD 4 && mirSecond s shadow x.pa then
          match walk s shadow rest (t + 65536) with
          | .error k => .error k
          | .ok y => .ok (join y)
        else .ok (join x)

/-! ## Ranges of a grant (R337, R338) and the frames of their MIR pages (R270) -/

/-- The child base of a range as an index into the 57 bits that a stage translates (R337). -/
def rangeLo (r : MRange) : Nat := r.cbase % 2 ^ 57
def rangeHi (r : MRange) : Nat := rangeLo r + r.len

def isMir (r : MRange) : Bool := r.attr.getLsbD 4

/-- Where a range maps an address of the child. -/
def rangeTarget (r : MRange) (a : Nat) : Nat := if isMir r then r.pbase + 2 * (a - rangeLo r) else r.pbase + (a - rangeLo r)

/-- A range of the list maps the page as `r` does. -/
def mapsAlike (l : List MRange) (r : MRange) (a : Nat) : Bool :=
  l.any (fun q => isMir q && decide (rangeLo q ≤ a ∧ a < rangeHi q) && rangeTarget q a == rangeTarget r a)

/-- The physical frame of a page of a context's device space, where it is memory of this chip. -/
def frameHere (s : State) (asid a : Nat) : Option Nat :=
  match walk s false (chainOf s asid) (a % 2 ^ 57) with
  | .ok x => if paChip x.pa == chipId s && !paHost x.pa && paExists s x.pa then some (x.pa / 65536) else none
  | .error _ => none

/-- The frames of this chip behind the MIR pages that the ranges `l` of a child map and `other` does not map alike: the first frame of
each page, which names its selector, and then both. -/
def mirFrames (s : State) (parent : Nat) (l other : List MRange) : List (Option Nat × List Nat) :=
  (l.filter isMir).flatMap (fun r => ((List.range (r.len / 65536)).map (fun i => rangeLo r + i * 65536)).filterMap (fun a =>
    if mapsAlike other r a then none
    else
      let f := frameHere s parent (rangeTarget r a)
      some (f, f.toList ++ (frameHere s parent (rangeTarget r a + 65536)).toList)))

/-- Selectors of pages that are no longer mapped, or are mapped anew, name the first frame. -/
def forgetMirrors (s : State) (l : List (Option Nat × List Nat)) : State :=
  if l.isEmpty then s else { s with mirrors := s.mirrors.filter (fun m => !l.any (fun p => p.1 == some m.1)) }

/-- What a physical address reaches that is presented at the page's home without the page's translation, by another chip or by the host:
the first frame of a MIR page stands for the visible one, the second for the shadow (R271, log 52). -/
def frameKey (s : State) (pa : Nat) : Nat :=
  let flipped := fun (f : Nat) => (getKey s.mirrors f).getD false
  if flipped (pa / 65536) then pa + 65536
  else if 65536 ≤ pa && flipped (pa / 65536 - 1) then pa - 65536 else pa

/-- The stage of a context over an address, read through the stages below: target, attributes and the shift of its entry. -/
def ownStage (s : State) (asid a : Nat) : Option (Nat × BitVec 5 × Nat) :=
  match chainOf s asid with
  | [] => none
  | c :: rest =>
    let rd := fun p => match walk s false rest p with
      | .error k => .error k
      | .ok x => .ok (BitVec.ofNat 64 (bytesNat (readKey s x.pa 8)))
    match descend rd c.level (c.level == 0) a [(55, 2), (42, 13), (29, 13), (16, 13)] true c.cxr.stagea.toNat with
    | .ok (t, attr, _, sh) => some (t, attr, sh)
    | .error _ => none

/-- The addresses through which a context's address is translated, from its parent's space to the root's (R336). -/
def viaOf (s : State) : List Ctx → Nat → List (Nat × Nat)
  | c :: p :: rest, a =>
    match ownStage s c.asid a with
    | some (t, _, _) => (p.asid, t) :: viaOf s (p :: rest) t
    | none => []
  | _, _ => []

/-- The generation of an ASID (R341). -/
def generation (s : State) (asid : Nat) : Nat := (getKey s.asidGen asid).getD 0

/-- A change to a context's stage bumps its generation and its descendants', which have 24 bits; entries that can hit no more leave,
so that none is left when a generation comes round (R341). -/
def bumpGeneration (s : State) (ids : List Nat) : State :=
  { s with asidGen := ids.foldl (fun l a => putKey l a ((generation s a + 1) % 2 ^ 24)) s.asidGen,
           coll := s.coll.filter (fun e => !ids.contains e.asid) }

/-- Bytes of a page by size code (R155). -/
def pageBytes (size : Nat) : Nat := if size == 0 then 2 ^ 16 else if size == 1 then 2 ^ 25 else 2 ^ 32

/-- A Collimator entry that hits (R341). -/
def collHit (s : State) (asid a : Nat) : Option Xl :=
  (s.coll.find? (fun e => e.asid == asid && e.gen == generation s asid && e.page == a / pageBytes e.size)).map
    (fun e => { pa := e.pa + a % pageBytes e.size, home := e.pa + a % pageBytes e.size, attr := e.attr, size := e.size })

/-- The entry an access leaves behind; MIR pages, whose frame the selector chooses, leave none. -/
def collFill (s : State) (asid a : Nat) (x : Xl) : State :=
  if x.attr.getLsbD 4 then s
  else
    { s with coll := { asid := asid, gen := generation s asid, page := a / pageBytes x.size,
                       pa := x.pa - a % pageBytes x.size, attr := x.attr, size := x.size,
                       via := viaOf s (chainOf s asid) (a - a % pageBytes x.size) } ::
        s.coll.filter (fun e => !(e.asid == asid && e.page == a / pageBytes e.size)) }

/-- Translation as an access meets it: the stages, or an older translation still held (R340, R341). -/
def translate (s : State) (shadow : Bool) (asid : Nat) (va : W64) : Except Nat Xl × State :=
  let a := va.toNat % 2 ^ 57
  let fresh := walk s shadow (chainOf s asid) a
  match collHit s asid a, fresh with
  | none, .ok x => (.ok x, collFill s asid a x)
  | none, .error k => (.error k, s)
  | some h, .ok x =>
    if h == x then (.ok x, s)
    else if Config.collUsed s.freeCtr then (.ok h, nextFree s)
    else (.ok x, collFill (nextFree s) asid a x)
  | some h, .error k =>
    if Config.collUsed s.freeCtr then (.ok h, nextFree s) else (.error k, nextFree s)

/-! ## Grants and the requester -/

/-- A team's scratch holds the grant (R325). -/
def teamHolds (t : Team) (core g : Nat) : Bool :=
  (match t.home with | .core c => c == core | .drained c => c == core | _ => false)
    && decide (t.grant0 ≤ g ∧ g < t.grant0 + t.ngrants)

/-- The context holds the grant at that place (R251): its teams' scratch or its SRAM grant list. A grant without holder serves as
home cache (R254). -/
def grantHeld (s : State) (asid chip core g : Nat) : Bool :=
  let here := chip == chipId s
  (here && s.teams.any (fun t => t.asid == asid && teamHolds t core g))
    || (match getCtx s asid with
        | none => false
        | some c => c.grant.srng.contains (chip, core, g))

/-- Bytes before the private area of a team (R325). -/
def privateBase (t : Team) : Nat := (t.grant0 + t.scr) * 65536

/-- An access to [off, off + size) of a slice reaches a spill or Loupe area (R325). -/
def hitsPrivate (s : State) (core off size : Nat) : Bool :=
  s.teams.any (fun t =>
    teamHolds t core (off / 65536) && decide (privateBase t ≤ off) &&
      (let r := off - privateBase t
       decide (r / t.recLen < t.threads.length) && decide (r % t.recLen + size > 128)))

/-- Function and PASID of a context's host requests (R351): VF of its level-1 ancestor, or 0 for port A's physical
function. -/
def requester (s : State) (asid : Nat) : Nat × Option Nat :=
  let ch := chainOf s asid
  let vf := ((ch.find? (fun c => c.level == 1)).map (fun c => c.cxr.vf)).getD 0
  (vf, (ch.find? (fun c => c.cxr.pase)).map (fun c => c.cxr.pasid))

/-- The translation request of a host access (R389). -/
def atsFor (s : State) (asid pa : Nat) : AtsReq :=
  { fn := (requester s asid).1, pasid := (requester s asid).2, page := pa % 2 ^ 46 / 4096 }

/-- The host has given a translation that allows the access (R389). -/
def atsHeld (s : State) (rq : AtsReq) (rd wr : Bool) : Bool :=
  s.host.ats.any (fun e => e.1 == rq && (!rd || e.2.1) && (!wr || e.2.2))

/-! ## Address checks (R144) -/

/-- Why an access stops: a trap, or a translation that has to be asked of the host. -/
inductive Stop where
  | trap (t : Trap)
  | ats (rq : AtsReq)
  deriving DecidableEq, Repr

/-- What an access asks of R144. `winOnly`, `noHost` and `mirOnly` are the placement rules of check 6. -/
structure Ask where
  ea    : W64
  size  : Nat
  align : Nat
  rd    : Bool
  wr    : Bool
  winOnly : Bool := false
  noHost  : Bool := false
  shadow  : Bool := false
  deriving DecidableEq, Repr

def dataFault (q : Ask) (stage : Nat) (rpl : Bool) : Stop :=
  .trap { cause := .dataFault, addr := q.ea, stage := stage, rpl := rpl, wr := q.wr }

def permFault (q : Ask) (attr : BitVec 5) (place : Bool) : Stop :=
  .trap { cause := .permission, addr := q.ea, wr := q.wr, aux := attr.toNat + (if place then 32 else 0) }

/-- Checks 1 to 6 of R144 in order, for an access of a context. -/
def checkSite (s : State) (asid : Nat) (q : Ask) : Except Stop Site × State :=
  if !isWindow q.ea && !isCanonical q.ea then (.error (dataFault q 0 false), s)
  else if q.ea.toNat % q.align != 0 then
    (.error (.trap { cause := .misalignedData, addr := q.ea, aux := q.size % 32 }), s)
  else if isWindow q.ea then
    let chip := winChip q.ea
    let core := winCore q.ea
    let off := winOff q.ea
    if decide (off ≥ Config.sliceBytes) || !grantHeld s asid chip core (off / 65536)
        || (chip == chipId s && hitsPrivate s core off q.size) then
      (.error (.trap { cause := .scratchBounds, addr := q.ea }), s)
    else
      (.ok { win := true, chip := chip, core := core, off := off, key := sliceKey core off, attr := 3, size := 3 }, s)
  else
    match translate s q.shadow asid q.ea with
    | (.error k, s1) => (.error (dataFault q k true), s1)
    | (.ok x, s1) =>
      if !paExists s1 x.pa then (.error (dataFault q 0 false), s1)
      else if (q.rd && !x.attr.getLsbD 0) || (q.wr && !x.attr.getLsbD 1) then (.error (permFault q x.attr false), s1)
      else if q.winOnly || (q.noHost && paHost x.pa) then (.error (permFault q x.attr true), s1)
      else if paHost x.pa && !atsHeld s1 (atsFor s1 asid x.pa) q.rd q.wr then (.error (.ats (atsFor s1 asid x.pa)), s1)
      else
        (.ok { win := false, chip := paChip x.pa,
               core := paCore x.home, off := 0, key := x.pa,
               attr := x.attr, size := x.size }, s1)

/-- Line index of a key. -/
def lineOf (k : Nat) : Nat := k / 128

/-- Check 8 of R144: a poisoned line among the bytes read (R397). -/
def poisoned (s : State) (key size : Nat) : Bool := s.poison.any (fun p => decide (lineOf key ≤ p ∧ p ≤ lineOf (key + size - 1)))

/-- The owner tag of a line (R396). -/
def ownerOf (s : State) (line : Nat) : Nat := (getKey s.owners line).getD 0

/-- The trap of check 8 (R385). -/
def uncorrectable (s : State) (ea : W64) (site : Site) : Trap :=
  let line := lineOf site.key
  { cause := .uncorrectable, addr := ea,
    aux := (if site.win then 0 else line * 128) + ownerOf s line * 2 ^ 52 + (if site.win then 2 ^ 66 else 0) }

/-- A context's write marks its lines with its owner tag (R396); a write of a whole line clears poison (R397). -/
def tagLines (s : State) (asid key size : Nat) : State :=
  if isSliceKey key then
    (if key % 128 == 0 && size == 128 then { s with poison := s.poison.filter (· != lineOf key) } else s)
  else
    let l := lineOf key
    { s with owners := putKey s.owners l asid,
             poison := if key % 128 == 0 && size == 128 then s.poison.filter (· != l) else s.poison }

end Sys2Proof.Machine
end

