-- ==== Sys2Proof/Machine/Loupe.lean ====
section
/-! DEFINITION. The Loupe (R265 to R269): epochs, acquired and carried sets, granule records, and the synchronises-with
edges of R259 as it tracks them. -/

namespace Sys2Proof.Machine

open Sys2Proof

/-! ## Entries and sets -/

/-- The 128 bits of an entry (R266). -/
def entryBits (e : LEntry) : Nat :=
  e.team.toNat * 2 ^ 96 + e.epoch % 2 ^ 48 * 2 ^ 48 + e.sk.toNat * 2 ^ 46 + e.src.toNat * 2 ^ 34 + e.mask.toNat * 4
    + (if e.w then 2 else 0) + (if e.marked then 1 else 0)

def everyTeam : W32 := 0xFFFFFFFF
/-- ACQM of an entry that serves every thread, or one thread (R266). -/
def acqAll : W32 := 0x80000000
def acqOne (tid : Nat) : W32 := BitVec.ofNat 32 (tid % 4096 * 2 ^ 19)

def serves (e : LEntry) (tid : Nat) : Bool := e.mask.getLsbD 31 || e.mask.toNat / 2 ^ 19 % 4096 == tid

/-- A set entry covers an access recorded at a moment (R266). An entry of every team covers what was recorded before it was formed: its
EPOCH holds that moment. -/
def setCovers (a e : LEntry) (at_ : Nat) : Bool :=
  (a.team == everyTeam && decide (at_ < a.epoch)) || (a.team == e.team && decide (e.epoch < a.epoch) && (a.sk == 2 || (a.sk == e.sk && a.src == e.src)))

/-- Two set entries speak of the same source for the same acquirer. -/
def sameSource (a b : LEntry) : Bool := a.team == b.team && a.sk == b.sk && a.src == b.src && a.mask == b.mask

/-- All of a team's entries as one of SK 2 with the larger epoch (R268). -/
def mergeTeam (t : W32) (l : List LEntry) : List LEntry :=
  let mine := l.filter (fun e => e.team == t)
  let top := mine.foldl (fun m e => max m e.epoch) 0
  { team := t, epoch := top, sk := 2, src := 0, mask := acqAll, w := false, marked := false }
    :: l.filter (fun e => e.team != t)

/-- The entry that covers every access before a moment. -/
def wholeEntry (now : Nat) : LEntry :=
  { team := everyTeam, epoch := now, sk := 2, src := 0, mask := acqAll, w := false, marked := false }

/-- What stands for a set that the carry store has evicted (R268). -/
def evicted : LEntry := { team := everyTeam, epoch := 0, sk := 3, src := 0, mask := 0, w := false, marked := false }

/-- Entries that share a team merge, team by team, until 16 are left or no two share one (R268). -/
def capMerge : Nat → List LEntry → List LEntry
  | 0, l => l
  | n + 1, l =>
    if l.length ≤ 16 then l
    else
      match l.find? (fun e => decide ((l.filter (fun x => x.team == e.team)).length > 1)) with
      | some e => capMerge n (mergeTeam e.team l)
      | none => l

/-- A set brought back to its 16 entries, and whether it overflowed (R268). -/
def capSet (now : Nat) (l : List LEntry) : List LEntry × Bool :=
  if l.length ≤ 16 then (l, false)
  else
    let m := capMerge l.length l
    (if m.length ≤ 16 then m else [wholeEntry now], true)

/-- One entry added: the larger epoch of equal sources, else one more entry. -/
def addEntry (l : List LEntry) (e : LEntry) : List LEntry :=
  if l.any (sameSource e) then l.map (fun x => if sameSource e x then { x with epoch := max x.epoch e.epoch } else x)
  else l ++ [e]

def addEntries (l es : List LEntry) : List LEntry := es.foldl addEntry l

/-- sr.rovf advances, and saturates (R268). -/
def bumpRovf (s : State) (asid : Nat) : State :=
  modCtx s asid (fun c => { c with rovf := if c.rovf == 0xFFFFFFFF then c.rovf else c.rovf + 1 })

/-- A set kept in 16 entries for a context, whose sr.rovf counts an overflow. -/
def keepSet (s : State) (asid : Nat) (l : List LEntry) : List LEntry × State :=
  let r := capSet s.stamp l
  (r.1, if r.2 then bumpRovf s asid else s)

/-- The entries of a stage-0 node that are not zero. -/
def nodeEntries (s : State) (node w : Nat) : List W64 :=
  (((s.mem.filter (fun c => decide (node ≤ c.1 ∧ c.1 < node + 8 * 2 ^ w))).map (fun c => (c.1 - node) / 8)).eraseDups).map
    (fun i => BitVec.ofNat 64 (bytesNat (readKey s (node + 8 * i) 8)))

/-- Stage 0 marks some page CHK, from a node on. -/
def marksChk (s : State) : List Nat → Bool → Nat → Bool
  | [], _, _ => false
  | w :: r, top, node =>
    (nodeEntries s node w).any (fun e => match stageEntry true e with
      | none => false
      | some (t, addr, attr, _) => if t then marksChk s r false addr else !top && attr.getLsbD 3)

/-- The context maps checked pages (R266): a grant of its chain marks them, or the host's stage 0 does. -/
def loupeOn (s : State) (asid : Nat) : Bool :=
  (chainOf s asid).any (fun c =>
    if c.level == 0 then marksChk s [2, 13, 13, 13] true c.cxr.stagea.toNat else c.grant.mrng.any (fun m => m.attr.getLsbD 3))

def epochMax : Nat := 2 ^ 48 - 1

/-! ## Order as the Loupe tracks it -/

/-- An entry is ordered before accesses of thread `tid` of the team (R266). -/
def orderedBefore (t : Team) (th : Thread) (tid : Nat) (e : LEntry) (at_ : Nat) : Bool :=
  (e.team == t.serial && e.sk == 0 && e.src.toNat == tid)
    || (e.team == t.serial && e.sk == 0 && th.clock.any (fun p => p.1 == e.src.toNat && decide (e.epoch < p.2)))
    || t.acq.any (fun a => serves a tid && setCovers a e at_)

/-- What is ordered before a release of thread `tid`: its own accesses, those its barriers ordered, and its acquired
entries. -/
def releaseSet (t : Team) (th : Thread) (tid : Nat) : List LEntry :=
  let own : LEntry :=
    { team := t.serial, epoch := t.epoch + 1, sk := 0, src := BitVec.ofNat 12 tid, mask := 0, w := false, marked := false }
  addEntries (own :: th.clock.map (fun p => { own with epoch := p.2, src := BitVec.ofNat 12 p.1 }))
    ((t.acq.filter (fun a => serves a tid)).map (fun a => { a with mask := 0 }))

/-- The epoch advances at a release or a barrier arrival (R266, R268). -/
def advanceEpoch (s : State) (uid : Nat) : State :=
  match getTeam s uid with
  | none => s
  | some t =>
    if t.epoch ≥ epochMax then s
    else
      let s1 := setTeam s { t with epoch := t.epoch + 1 }
      if t.epoch + 1 == epochMax then bumpRovf s1 t.asid else s1

/-- Two releases or acquires at these scopes match on one chip (R258): `.tm` reaches only the team. -/
def scopeMatch (a b : BitVec 2) (teamA teamB : Nat) : Bool := (a != 0 && b != 0) || teamA == teamB

/-- Entries merged into a team's acquired set for one thread; in place of a set that was evicted it takes an entry of every team
(R266, R268). -/
def acquireEntries (s : State) (uid tid : Nat) (es : List LEntry) : State :=
  match getTeam s uid with
  | none => s
  | some t =>
    let es' := (es.filter (fun e => !(e.team == t.serial && e.sk == 0 && e.src.toNat == tid))).map
      (fun e => if e == evicted then { wholeEntry s.stamp with mask := acqOne tid }
        else if e.mask == acqAll then e else { e with mask := acqOne tid })
    let r := keepSet (if es.contains evicted then bumpRovf s t.asid else s) t.asid (addEntries t.acq es')
    setTeam r.2 { t with acq := r.1 }

/-! ## The carry store -/

def keyOverlaps (k : CarryKey) (key size : Nat) : Bool :=
  match k with
  | .bytes a n => decide (a < key + size ∧ key < a + n)
  | _ => false

/-- What a write to some of the bytes leaves of a set's key: the set stays with the other bytes (R266). -/
def cutCarried (key size : Nat) (c : Carried) : List Carried :=
  match c.key with
  | .bytes a n =>
    if keyOverlaps c.key key size then
      (if a < key then [{ c with key := .bytes a (key - a) }] else [])
        ++ (if key + size < a + n then [{ c with key := .bytes (key + size) (a + n - (key + size)) }] else [])
    else [c]
  | _ => [c]

/-- A write to the bytes drops the sets that they carried (R266). -/
def dropCarried (s : State) (key size : Nat) : State := { s with carry := s.carry.flatMap (cutCarried key size) }

/-- A use of sets makes them the most recently used (R268). -/
def touchCarried (s : State) (p : Carried → Bool) : State :=
  if s.carry.any p then { s with carry := s.carry.filter p ++ s.carry.filter (fun c => !p c) } else s

/-- A set is stored as the most recently used; the store holds 16,384 (R268). An evicted set leaves the mark of a set that can no
longer be told. -/
def storeCarried (s : State) (c : Carried) : State :=
  let r := keepSet s c.asid c.set
  let l := { c with set := r.1 } :: r.2.carry
  { r.2 with carry := l.take 16384 ++ (l.drop 16384).map (fun x => { x with set := [evicted] }) }

/-- The sets that a thread's write leaves with its bytes: that of its release part, and those of earlier fences (R259). -/
def writerSets (s : State) (uid tid key size : Nat) (scope : BitVec 2) (rel : Bool) : List Carried :=
  match (getTeam s uid).bind (fun t => (getThread t tid).map (fun th => (t, th))) with
  | none => []
  | some (t, th) =>
    if !loupeOn s t.asid then []
    else
      let own := fun (p : BitVec 2 × List LEntry) =>
        ({ key := .bytes key size, asid := t.asid, scope := p.1, team := uid, set := p.2 } : Carried)
      (if rel then [own (scope, releaseSet t th tid)] else []) ++ th.frel.map own

/-- A thread's write of a run of bytes leaves its sets there. `keep`: a write of a release sequence keeps those already there. -/
def carryWrite (s : State) (uid tid key size : Nat) (scope : BitVec 2) (rel keep : Bool) : State :=
  (writerSets s uid tid key size scope rel).foldl storeCarried
    (if keep then touchCarried s (fun c => keyOverlaps c.key key size) else dropCarried s key size)

/-- A write of single bytes drops what they carried and leaves other sets. -/
def leaveSets (s : State) (data : List (Nat × Byte)) (cs : List Carried) : State :=
  cs.foldl storeCarried (if s.carry.isEmpty then s else data.foldl (fun st p => dropCarried st p.1 1) s)

/-- A read meets the sets that the write it returns left: an acquire takes the matched ones, and the others stay for a later fence
(R259). -/
def carryRead (s : State) (uid tid : Nat) (cs : List Carried) (scope : BitVec 2) (acq : Bool) : State :=
  match getTeam s uid with
  | none => s
  | some t =>
    if cs.isEmpty || !loupeOn s t.asid then s
    else
      let taken := cs.filter (fun c => acq && scopeMatch c.scope scope c.team uid)
      let left := ((cs.filter (fun c => !(acq && scopeMatch c.scope scope c.team uid))).flatMap (fun c =>
        c.set.map (fun e => (c.scope, c.team, e))))
      let s1 := if taken.isEmpty then s
        else acquireEntries (touchCarried s (fun c => taken.contains c)) uid tid (taken.flatMap (·.set))
      if left.isEmpty then s1
      else modThread s1 uid tid (fun th => { th with fseen := th.fseen ++ left.filter (fun x => !th.fseen.contains x) })

/-- A fence's release part attaches its set to later writes; its acquire part takes what earlier reads met and leaves what its
scope does not match (R259). -/
def loupeFence (s : State) (uid tid : Nat) (scope : BitVec 2) (rel acq : Bool) : State :=
  match getTeam s uid with
  | none => s
  | some t =>
    if !loupeOn s t.asid then s
    else
      match getThread t tid with
      | none => s
      | some th =>
        let s1 := if acq then
            modThread (acquireEntries s uid tid
              ((th.fseen.filter (fun p => scopeMatch p.1 scope p.2.1 uid)).map (fun p => p.2.2))) uid tid
              (fun x => { x with fseen := x.fseen.filter (fun p => !scopeMatch p.1 scope p.2.1 uid) })
          else s
        if rel then
          match getTeam s1 uid with
          | none => s1
          | some t1 =>
            advanceEpoch (modThread s1 uid tid (fun x =>
              { x with frel := (scope, releaseSet t1 th tid) :: x.frel.filter (fun p => p.1 != scope) })) uid
        else s1

/-! ## Barriers -/

/-- A phase's set with more entries: those of the team's own threads exactly, the others in 16 (R266, R268). -/
def addPhase (s : State) (t : Team) (nb : Nat) (es : List LEntry) : State :=
  let own := fun (e : LEntry) => e.team == t.serial && e.sk == 0
  let l := addEntries (((s.carry.find? (fun c => c.key == .bar t.uid nb)).map (·.set)).getD []) es
  let r := keepSet s t.asid (l.filter (fun e => !own e))
  let c : Carried := { key := .bar t.uid nb, asid := t.asid, scope := 0, team := t.uid, set := l.filter own ++ r.1 }
  { r.2 with carry := c :: r.2.carry.filter (fun x => x.key != .bar t.uid nb) }

/-- A thread's arrival adds its set to the phase (R259, R266). -/
def loupeArrive (s : State) (uid tid nb : Nat) : State :=
  match getTeam s uid with
  | none => s
  | some t =>
    if !loupeOn s t.asid then s
    else
      match getThread t tid with
      | none => s
      | some th =>
        advanceEpoch (addPhase s t nb (releaseSet t th tid)) uid

/-- Completion of a phase: its set becomes the one that returns take, under barrier number nb + 16. -/
def loupePhase (s : State) (uid nb : Nat) : State :=
  match s.carry.find? (fun c => c.key == .bar uid nb) with
  | none => { s with carry := s.carry.filter (fun x => x.key != .bar uid (nb + 16)) }
  | some c =>
    { s with carry := { c with key := .bar uid (nb + 16) } ::
        s.carry.filter (fun x => x.key != .bar uid nb && x.key != .bar uid (nb + 16)) }

/-- The return of a thread from a completed phase: threads of its own team go to its clock, exactly and without overflow;
other entries to the acquired set (R266). -/
def loupeReturn (s : State) (uid tid nb : Nat) : State :=
  match getTeam s uid, s.carry.find? (fun c => c.key == .bar uid (nb + 16)) with
  | some t, some c =>
    let own := c.set.filter (fun e => e.team == t.serial && e.sk == 0)
    let s1 := modThread s uid tid (fun th =>
      { th with clock := own.foldl (fun l e =>
          let u := e.src.toNat
          if u == tid then l else putKey l u (max e.epoch ((getKey l u).getD 0))) th.clock })
    let rest := c.set.filter (fun e => !(e.team == t.serial && e.sk == 0))
    if rest.isEmpty then s1 else acquireEntries s1 uid tid rest
  | _, _ => s

/-! ## Granule records -/

/-- Byte mask, within a 32-byte granule, of bytes given by their keys. -/
def granuleMask (g : Nat) (bytes : List Nat) : W32 :=
  BitVec.ofNat 32 ((bytes.filter (fun b => b / 32 == g)).foldl (fun m b => m ||| 2 ^ (b % 32)) 0)

def getGranule (s : State) (g : Nat) : Option Granule := s.granules.find? (fun x => x.granule == g)

/-- Two entries form a race when the second is not ordered after the first (R262). -/
def races (before : LEntry → Bool) (e n : LEntry) : Bool :=
  (e.mask &&& n.mask) != 0 && (e.w || n.w) && !(e.marked && n.marked)
    && !(e.team == n.team && e.sk == n.sk && e.src == n.src) && !before e

/-- The entry that a checked access conflicts with in one granule (R267). -/
def granuleRace (s : State) (asid g : Nat) (before : LEntry → Nat → Bool) (n : LEntry) : Option LEntry :=
  match getGranule s g, getCtx s asid with
  | some r, some c =>
    if r.asid != asid then none
    else ((r.entries.find? (fun p => p.2.1 == c.rovf && races (fun e => before e p.2.2) p.1 n)).map (·.1))
  | _, _ => none

/-- Covered by the new access (R266). -/
def coveredBy (before : LEntry → Bool) (n e : LEntry) : Bool :=
  (before e || (e.team == n.team && e.sk == n.sk && e.src == n.src)) && (e.mask &&& n.mask) == e.mask
    && (!e.w || n.w) && (e.marked || !n.marked)

/-- The access recorded in one granule (R266, R268). -/
def granuleRecord (s : State) (asid g : Nat) (before : LEntry → Nat → Bool) (n : LEntry) : State :=
  let r := (getGranule s g).getD { granule := g, asid := asid, entries := [] }
  let s1 := if r.asid != asid && !r.entries.isEmpty then bumpRovf s r.asid else s
  let kept := if r.asid != asid then [] else r.entries.filter (fun p => !coveredBy (fun e => before e p.2.2) n p.1)
  let s2 := if kept.length ≥ 4 then bumpRovf s1 asid else s1
  let kept' := if kept.length ≥ 4 then kept.drop 1 else kept
  let rv := ((getCtx s2 asid).map (·.rovf)).getD 0
  let g' : Granule := { granule := g, asid := asid, entries := kept' ++ [(n, rv, s2.stamp)] }
  { s2 with stamp := s2.stamp + 1, granules := upsert (fun x => x.granule == g) g' s2.granules }

/-- The granules that an access touches. -/
def granulesOf (bytes : List Nat) : List Nat := (bytes.map (· / 32)).eraseDups

/-- Check and record of one access by a source to bytes (R265, R269): an error holds the granule, the conflicting and the new entry, and
then nothing is recorded. -/
def loupeCheck (s : State) (asid : Nat) (before : LEntry → Nat → Bool) (src : Nat → LEntry) (bytes : List Nat) :
    Except (Nat × LEntry × LEntry) State :=
  let gs := granulesOf bytes
  match (gs.filterMap (fun g => (granuleRace s asid g before (src g)).map (fun e => (g, e, src g)))).head? with
  | some p => .error p
  | none => .ok (gs.foldl (fun st g => granuleRecord st asid g before (src g)) s)

/-- The access is one that the Loupe of this chip checks. -/
def checked (s : State) (site : Site) : Bool := !site.win && site.attr.getLsbD 3 && site.chip == chipId s

/-- AUX of a RACE: the conflicting entry and that of the access (R385). -/
def raceAux (old new : LEntry) : Nat := entryBits old + entryBits new * 2 ^ 128

/-- One access of a thread to the bytes of several sites, each with its address: the trap of R269, or the state with the access
recorded. -/
def threadAccess (s : State) (uid tid : Nat) (at_ : List (W64 × Site × List Nat)) (wr marked : Bool) : Except Trap State :=
  let mine := at_.filter (fun p => checked s p.2.1)
  if mine.isEmpty then .ok s
  else
    match (getTeam s uid).bind (fun t => (getThread t tid).map (fun th => (t, th))) with
    | none => .ok s
    | some (t, th) =>
      let keys := fun (p : W64 × Site × List Nat) => p.2.2.map (p.2.1.key + ·)
      let bytes := mine.flatMap keys
      let src := fun g => ({ team := t.serial, epoch := t.epoch, sk := 0, src := BitVec.ofNat 12 tid,
                             mask := granuleMask g bytes, w := wr, marked := marked } : LEntry)
      match loupeCheck s t.asid (orderedBefore t th tid) src bytes with
      | .error p =>
        let ea := ((mine.find? (fun q => (keys q).any (fun b => b / 32 == p.1))).map (·.1)).getD 0
        .error { cause := .race, addr := ea, wr := wr, aux := raceAux p.2.1 p.2.2 }
      | .ok s1 => .ok s1

/-- Check 7 of R144 for a thread's access to a site. -/
def threadLoupe (s : State) (uid tid : Nat) (ea : W64) (site : Site) (offs : List Nat) (wr marked : Bool) : Except Trap State :=
  threadAccess s uid tid [(ea, site, offs)] wr marked

/-- The check of an engine access, with its token as source and what was ordered before its creation (R266, R269). -/
def tokenLoupe (s : State) (tk : Token) (site : Site) (offs : List Nat) (wr : Bool) : Except (LEntry × LEntry) State :=
  if !checked s site then .ok s
  else
    let bytes := offs.map (site.key + ·)
    let ep := ((getTeam s tk.team).map (·.epoch)).getD 0
    let src := fun g => ({ team := tk.serial, epoch := ep, sk := 1, src := BitVec.ofNat 12 tk.slot,
                           mask := granuleMask g bytes, w := wr, marked := false } : LEntry)
    match loupeCheck s tk.asid (fun e at_ => tk.hb.any (fun a => setCovers a e at_)) src bytes with
    | .error p => .error p.2
    | .ok s1 => .ok s1

end Sys2Proof.Machine
end

