-- ==== Sys2Proof/Machine/Home.lean ====
section
/-! DEFINITION. Writes performed at a home: the bytes with their owner tag and poison (R396, R397), the side-information
entries that a write makes stale (R372), and what an access charges (R413, R414). -/

namespace Sys2Proof.Machine

open Sys2Proof

/-! ## Dynamic energy (R413, R414) -/

/-- EWc of the configuration record, in 1/64 nJ per event. -/
def energyWeight (s : State) (c : Nat) : Nat := cfgBits s (191 + 16 * c) (176 + 16 * c)

/-- The energy counter of a context as `rdcnt` 2 and EVAL show it (R412). -/
def energyWord (s : State) (asid : Nat) : W64 :=
  BitVec.ofNat 64 (((getCtx s asid).map (fun c => c.energy + c.esat.toNat * 2 ^ 63)).getD 0)

/-- Energy that a context has caused in this cycle. -/
def addDue (s : State) (asid n : Nat) : State :=
  if n == 0 then s else modCtx s asid (fun (c : Ctx) => { c with due := c.due + n })

/-- n events of a class caused by a context. -/
def charge (s : State) (asid cls n : Nat) : State := addDue s asid (energyWeight s cls * n)

/-- The class of a line by its key: scratch, HBM, or another tier. -/
def lineClass (key : Nat) : Nat :=
  if isSliceKey key then 3 else if bitsAt key 51 51 == 0 && bitsAt key 46 44 == 0 then 4 else 6

/-- n bytes of memory read or written at their home: one event for each 128-byte line they touch. -/
def chargeLines (s : State) (asid key n : Nat) : State :=
  if n == 0 then s else charge s asid (lineClass key) ((key + n - 1) / 128 + 1 - key / 128)

/-- A SIT entry's lines include one of [off, off + n). -/
def sitOverlaps (e : SitEntry) (off n : Nat) : Bool :=
  let lo := e.off * 64
  let hi := lo + 2 ^ (e.blog + 6)
  decide (lo / 128 ≤ (off + n - 1) / 128 ∧ off / 128 ≤ (hi - 1) / 128)

/-- Entries of a core that a write of n bytes at an offset makes STALE (R372). -/
def sitStale (s : State) (core off n : Nat) : State :=
  match s.cores.find? (fun c => c.id == core) with
  | none => s
  | some c =>
    if n == 0 || c.sit.isEmpty then s
    else setCore s { c with sit := c.sit.map (fun e =>
      if e.st == .valid && sitOverlaps e off n then { e with st := .stale } else e) }

/-- Core and offset of a slice key. -/
def keyCore (key : Nat) : Nat := (key - 2 ^ 52) / 2 ^ 28
def keyOff (key : Nat) : Nat := (key - 2 ^ 52) % 2 ^ 28

/-! ## External pool memory (R277) -/

/-- A byte of external pool memory. -/
def isPoolKey (key : Nat) : Bool := !isSliceKey key && paPool key

/-- A line of the pool that the device writes is dirty in its home cache from then on. -/
def poolTouch (s : State) (line : Nat) : State :=
  { s with pool := match s.pool.find? (fun l => l.line == line) with
      | some l => replaceIf (fun x => x.line == line) { l with dirty := true } s.pool
      | none => { line := line, data := readKey s (line * 128) 128, dirty := true } :: s.pool }

def poolNote (s : State) (key n : Nat) : State :=
  if n != 0 && isPoolKey key then
    (List.range ((key + n - 1) / 128 + 1 - key / 128)).foldl (fun st i => poolTouch st (key / 128 + i)) s
  else s

/-- The step of a `.sy` release: every dirty line is written back. -/
def poolBack (s : State) : State :=
  { s with pool := s.pool.map (fun l => if l.dirty then { l with data := readKey s (l.line * 128) 128, dirty := false } else l) }

/-- The step of a `.sy` acquire: every clean line leaves the home caches, and the device's view of it is the pool's again. -/
def poolDrop (s : State) : State :=
  { (s.pool.filter (fun l => !l.dirty)).foldl (fun st l => writeKey st (l.line * 128) l.data) s with
    pool := s.pool.filter (·.dirty) }

/-- What a write does beside its bytes: owner tag, poison, stale side information, and the carried sets it ends. -/
def noteWrite (s : State) (asid key n : Nat) : State :=
  let s1 := tagLines s asid key n
  if isSliceKey key then sitStale s1 (keyCore key) (keyOff key) n else s1

/-- The byte of a handler frame that lies at a key, while its thread is in its handler (R118). -/
def frameByteAt (s : State) (key : Nat) : Option Nat :=
  if !isSliceKey key then none
  else
    s.teams.findSome? (fun t =>
      if teamHolds t (keyCore key) (keyOff key / 65536) && decide (privateBase t ≤ keyOff key) then
        let r := keyOff key - privateBase t
        match t.threads[r / t.recLen]? with
        | some th => if th.handler && decide (r % t.recLen < 128) then some (r % t.recLen) else none
        | none => none
      else none)

/-- What a byte written to memory leaves there: the fault record of a frame is read-only and bit 663 of the frame reads 0 (R9, R118);
every other byte is the one written. -/
def storedByte (s : State) (key : Nat) (b : Byte) : Byte :=
  match frameByteAt s key with
  | some i => if i < 64 then (readKey s key 1).headD unlisted else if i == 82 then b &&& 0x7F else b
  | none => b

/-- Some thread is in its handler: only then are there frames. -/
def anyHandler (s : State) : Bool := s.teams.any (fun t => t.threads.any (·.handler))

/-- Bytes as their write leaves them. -/
def storedBytes (s : State) (key : Nat) (bs : List Byte) : List Byte :=
  if anyHandler s then ((List.range bs.length).zip bs).map (fun p => storedByte s (key + p.1) p.2) else bs

def storedCells (s : State) (ps : List (Nat × Byte)) : List (Nat × Byte) :=
  if anyHandler s then ps.map (fun p => (p.1, storedByte s p.1 p.2)) else ps

/-- Bytes at their home become those given. -/
def homeStore (s : State) (asid key : Nat) (bs : List Byte) : State :=
  if bs.isEmpty then s else chargeLines (noteWrite (writeKey (poolNote s key bs.length) key bs) asid key bs.length) asid key bs.length

/-- Bytes written at their home by a context. -/
def homeWrite (s : State) (asid key : Nat) (bs : List Byte) : State := homeStore s asid key (storedBytes s key bs)

/-- Enabled bytes of one line written at their home. -/
def homePut (s : State) (asid : Nat) (ps : List (Nat × Byte)) : State :=
  match storedCells s ps with
  | [] => s
  | q :: r => chargeLines ((q :: r).foldl (fun st p => noteWrite (writeKey (poolNote st p.1 1) p.1 [p.2]) asid p.1 1) s) asid q.1 1

end Sys2Proof.Machine
end

