-- ==== Sys2Proof/Machine/Flags.lean ====
section
/-! DEFINITION. Predicates (R19, R60), the carry and borrow predicates (R88), integer comparison and its combination with a
predicate (R89), and the format tags that results take and operands are expected to carry (R27, R28). -/

namespace Sys2Proof.Machine

open Sys2Proof

/-! ## Predicates -/

/-- A predicate's value; p7 reads true (R19). -/
def readPred (p : BitVec 7) (n : Nat) : Bool := if n = 7 then true else p.getLsbD n

/-- A predicate written; a write to p7 is discarded (R19). -/
def writePred (p : BitVec 7) (n : Nat) (b : Bool) : BitVec 7 :=
  if n = 7 then p
  else if b then p ||| BitVec.ofNat 7 (2 ^ n) else p &&& ~~~ BitVec.ofNat 7 (2 ^ n)

/-- The guard of R60. -/
def guardHolds (p : BitVec 7) (grd : Nat) (neg : Bool) : Bool := xor (readPred p grd) neg

/-- p0 to p7 as `pmov.save` gives them (R98). -/
def predBits (p : BitVec 7) : W32 := (p.setWidth 32) ||| 0x80

/-! ## Carry, comparison, combination -/

/-- The carry out of a + b + cin (R88). -/
def carryOut (w : Nat) (a b : Nat) (cin : Bool) : Bool := decide (a + b + cin.toNat ≥ 2 ^ w)

/-- The borrow out of a − b − cin (R88). -/
def borrowOut (a b : Nat) (cin : Bool) : Bool := decide (a < b + cin.toNat)

/-- The comparison codes of R89: eq, ne, lt, le, gt, ge. -/
def compareInt (code : Nat) (a b : Int) : Bool :=
  match code with
  | 0 => decide (a = b)
  | 1 => decide (a ≠ b)
  | 2 => decide (a < b)
  | 3 => decide (a ≤ b)
  | 4 => decide (a > b)
  | _ => decide (a ≥ b)

/-- The combination codes of R89: none, and, or, xor. -/
def combinePred (code : Nat) (t p : Bool) : Bool :=
  match code with
  | 0 => t
  | 1 => t && p
  | 2 => t || p
  | _ => xor t p

/-! ## Tags -/

/-- Tag codes (R27). -/
def tagCode (t : Tag) : Nat :=
  match t with
  | .none => 0
  | .b32 => 1
  | .f32 => 2
  | .f16x2 => 3
  | .bf16x2 => 4
  | .e4m3x4 => 5
  | .e5m2x4 => 6
  | .e2m1x8 => 7
  | .i8x4 => 8
  | .i4x8 => 9
  | .f64l => 10
  | .f64h => 11
  | .scl => 12

/-- The tag of a code; 13 to 15 become NONE (R30). -/
def codeTag (n : Nat) : Tag :=
  match n with
  | 1 => .b32
  | 2 => .f32
  | 3 => .f16x2
  | 4 => .bf16x2
  | 5 => .e4m3x4
  | 6 => .e5m2x4
  | 7 => .e2m1x8
  | 8 => .i8x4
  | 9 => .i4x8
  | 10 => .f64l
  | 11 => .f64h
  | 12 => .scl
  | _ => .none

/-- The tags that the registers of a type's value carry, lowest register first (R28, R147). -/
def tyTags (t : BitVec 6) : List Tag :=
  if t == 0x10 then [.f32]
  else if t == 0x11 then [.f64l, .f64h]
  else if t == 0x12 then [.f16x2]
  else if t == 0x13 then [.bf16x2]
  else if t == 0x14 then [.e4m3x4]
  else if t == 0x15 then [.e5m2x4]
  else if t == 0x16 then [.e2m1x8]
  else if t == 0x0C then [.b32, .b32, .b32, .b32]
  else if ty64 t then [.b32, .b32]
  else [.b32]

/-- The result tag of an untyped instruction: the first data source's when all agree, else B32 (R28). -/
def untypedTag (ts : List Tag) : Tag :=
  match ts with
  | [] => .b32
  | t :: r => if r.all (· == t) then t else .b32

end Sys2Proof.Machine
end

