-- ==== Sys2Proof/Machine/Operands.lean ====
section
/-! DEFINITION. Operands: what an instruction in hand reads, every source form (v and k registers, the immediates of R64 and
R65, the literal of R63), the register uses that checks 7 to 9 of R76 go through, and register writes. -/

namespace Sys2Proof.Machine

open Sys2Proof

/-! ## Register access -/

def noReg : Reg := { val := 0, tag := .none }

/-- v register n of a thread. -/
def readV (th : Thread) (n : Nat) : Reg := th.regs.getD n noReg

/-- k register n of a team (R20). -/
def readK (t : Team) (n : Nat) : W32 := t.k.getD n 0

/-- The register of a v write. -/
def writeV (th : Thread) (n : Nat) (r : Reg) : Thread := { th with regs := th.regs.set n r }

/-! ## Operands -/

/-- A source operand. -/
inductive Opd where
  | v (n : Nat)
  | k (n : Nat)
  | imm (x : W64)
  deriving DecidableEq, Repr

/-- Registers of the instruction in hand: the team, and the thread with the values that it reads (R70). -/
structure Cur where
  team : Team
  th   : Thread
  deriving DecidableEq, Repr

/-- Register i of an operand with its tag; k registers and immediates read as B32 (R20, R28). -/
def opdReg (c : Cur) (o : Opd) (i : Nat) : Reg :=
  match o with
  | .v n => readV c.th (n + i)
  | .k n => { val := readK c.team (n + i), tag := .b32 }
  | .imm x => { val := x.extractLsb' (32 * i) 32, tag := .b32 }

def opd32 (c : Cur) (o : Opd) : W32 := (opdReg c o 0).val
def opd64 (c : Cur) (o : Opd) : W64 := cat64 (opdReg c o 0).val (opdReg c o 1).val

/-- An operand's value as a number, in the width of a 32- or 64-bit type. -/
def opdNat (c : Cur) (wide : Bool) (o : Opd) : Nat := if wide then (opd64 c o).toNat else (opd32 c o).toNat

/-- An operand's value read in an integer type (R87). -/
def opdInt (c : Cur) (t : BitVec 6) (o : Opd) : Int :=
  let n := opdNat c (ty64 t) o
  if tySigned t then toSigned (if ty64 t then 64 else 32) n else (n : Int)

/-! ## Immediates (R64, R65) -/

/-- IMM8, an integer: sign-extended for a signed default type (R64). -/
def imm8As (signed : Bool) (i : BitVec 8) : W64 := if signed then i.signExtend 64 else i.setWidth 64

/-- IMM16 in both halves: as halves, as bytes 0 and 1 repeated, or as nibbles repeated (R65). -/
def immTwice (i : BitVec 16) : W64 := (i ++ i).setWidth 64

/-- BF16 widened exactly to F64 (R43, R44). -/
def bf16ToF64 (i : BitVec 16) : W64 :=
  let s := i.extractLsb' 15 1
  let e := (i.extractLsb' 7 8).toNat
  let m := (i.extractLsb' 0 7).toNat
  let body :=
    if e == 255 then 2047 * 2 ^ 52 + m * 2 ^ 45
    else if e == 0 then
      if m == 0 then 0
      else
        let l := Nat.log2 m
        (1023 - 126 - 7 + l) * 2 ^ 52 + (m - 2 ^ l) * 2 ^ (52 - l)
    else (e + 896) * 2 ^ 52 + m * 2 ^ 45
  BitVec.ofNat 64 (s.toNat * 2 ^ 63 + body)

/-- IMM16 read in the element type of the operand it replaces (R65). -/
def imm16As (t : BitVec 6) (i : BitVec 16) : W64 :=
  if tySigned t then i.signExtend 64
  else if t == 0x10 then (i ++ (0 : BitVec 16)).setWidth 64
  else if t == 0x11 then bf16ToF64 i
  else if t == 0x12 || t == 0x13 || t == 0x14 || t == 0x15 || t == 0x16 then immTwice i
  else i.setWidth 64

/-! ## The sources of a long form -/

/-- A v or k register by its operand-class bit (R61). -/
def regOpd (k : Bool) (n : BitVec 10) : Opd := if k then .k n.toNat else .v n.toNat

def srcA (o : Long) : Opd := regOpd o.ka o.sa

/-- The second source: SB, IMM16 read in type t, or the literal (R59, R63, R65). -/
def srcB (o : Long) (t : BitVec 6) : Opd :=
  match o.tail with
  | .bi i => .imm (imm16As t i)
  | .l _ _ _ _ _ _ v => .imm v
  | _ => regOpd o.kb o.sb

def srcC (o : Long) : Opd := regOpd o.kc o.sc

/-- The 64-bit base of a memory form plus its offset (R143). -/
def effAddr (c : Cur) (o : Long) : W64 := opd64 c (srcA o) + o.off

/-! ## Uses (checks 7 to 9 of R76) -/

/-- A register operand of an instruction: which file, its first register, how many registers, whether it is written, and the
tags expected (none: unchecked). -/
structure RegUse where
  k    : Bool
  num  : Nat
  n    : Nat
  wr   : Bool := false
  tags : List Tag := []
  deriving DecidableEq, Repr

/-- All that an instruction reads and writes: registers, and predicates read and written. -/
structure Sig where
  regs : List RegUse := []
  pr   : List Nat := []
  pw   : List Nat := []
  /-- `wrsr` to sr.seed, which stays interlocked until it has completed (R141) -/
  seedW : Bool := false
  deriving DecidableEq, Repr

/-- The registers an instruction uses, and with the predicates it reads and writes. -/
def sigR (regs : List RegUse) : Sig := { regs := regs }
def sigP (regs : List RegUse) (pr pw : List Nat) : Sig := { regs := regs, pr := pr, pw := pw }

/-- The use of a source operand; an immediate is none. -/
def useOpd (o : Opd) (n : Nat) (tags : List Tag) : List RegUse :=
  match o with
  | .v r => [{ k := false, num := r, n := n, tags := tags }]
  | .k r => [{ k := true, num := r, n := n }]
  | .imm _ => []

/-- A typed source. -/
def useTyped (t : BitVec 6) (o : Opd) : List RegUse := useOpd o (tyTags t).length (tyTags t)

/-- An untyped source of the type's width. -/
def useRaw (n : Nat) (o : Opd) : List RegUse := useOpd o n []

/-- A destination of n registers. -/
def useDst (r n : Nat) : List RegUse := [{ k := false, num := r, n := n, wr := true }]

/-! ## Results -/

/-- What an instruction writes in its own thread: registers, predicates and the seed. -/
structure Writes where
  regs  : List (Nat × Reg) := []
  preds : List (Nat × Bool) := []
  seed  : Option W64 := Option.none
  deriving DecidableEq, Repr

def outR (regs : List (Nat × Reg)) : Writes := { regs := regs }
def outP (n : Nat) (b : Bool) : Writes := { preds := [(n, b)] }

/-- A 32- or 64-bit value in type t from register r up, with the type's tags (R28). -/
def resultAs (t : BitVec 6) (r : Nat) (v : W64) : List (Nat × Reg) :=
  match tyTags t with
  | [a, b] => [(r, { val := lo32 v, tag := a }), (r + 1, { val := hi32 v, tag := b })]
  | a :: _ => [(r, { val := lo32 v, tag := a })]
  | [] => []

def result32 (r : Nat) (v : W32) (t : Tag) : List (Nat × Reg) := [(r, { val := v, tag := t })]
def result64 (r : Nat) (v : W64) (t : Tag) : List (Nat × Reg) :=
  [(r, { val := lo32 v, tag := t }), (r + 1, { val := hi32 v, tag := t })]

end Sys2Proof.Machine
end

