-- ==== Sys2Proof/Machine/Notice.lean ====
section
/-! DEFINITION. Fault records and handler-queue entries in their bit layouts (R345, R386), notices (R392, R393), and the posting
and escalation of entries (R344). -/

namespace Sys2Proof.Machine

open Sys2Proof

/-! ## Layouts -/

/-- A child handle: V, level and ASID (R220). -/
def ctxHandle (c : Ctx) : W32 := BitVec.ofNat 32 (2 ^ 31 + c.level * 2 ^ 14 + c.asid)

/-- The 512 bits of a thread fault record (R386). -/
def frcNat (f : Frc) : Nat :=
  f.pc.toNat * 2 ^ 448 + f.addr.toNat * 2 ^ 384 + f.word0.toNat * 2 ^ 352 + f.cause.toNat * 2 ^ 344
    + f.widx.toNat * 2 ^ 341 + f.str.toNat * 2 ^ 340 + f.stage.toNat * 2 ^ 337 + f.rpl.toNat * 2 ^ 336
    + f.wr.toNat * 2 ^ 335 + f.lnd.toNat * 2 ^ 334 + f.imm8.toNat * 2 ^ 326 + f.team.toNat * 2 ^ 288
    + f.chip.toNat * 2 ^ 284 + f.core.toNat * 2 ^ 277 + f.tid.toNat * 2 ^ 265 + f.aux.toNat

/-- The 512 bits of a handler-queue entry (R345). -/
def hqeNat (h : Hqe) : Nat :=
  h.pc.toNat * 2 ^ 448 + h.addr.toNat * 2 ^ 384 + h.id.toNat * 2 ^ 352 + h.src.toNat * 2 ^ 320 + h.team.toNat * 2 ^ 288
    + h.token.toNat * 2 ^ 256 + h.cause.toNat * 2 ^ 248 + h.stage.toNat * 2 ^ 245 + h.unh.toNat * 2 ^ 244
    + h.nest.toNat * 2 ^ 243 + h.rpl.toNat * 2 ^ 242 + h.tok.toNat * 2 ^ 241 + h.wr.toNat * 2 ^ 240
    + h.chip.toNat * 2 ^ 236 + h.core.toNat * 2 ^ 229 + h.tid.toNat * 2 ^ 217 + h.aux.toNat

/-- The 256 bits of a notice (R392). -/
def noticeNat (n : Notice) : Nat :=
  n.addr.toNat * 2 ^ 192 + n.data.toNat * 2 ^ 128 + n.id.toNat * 2 ^ 96 + n.asid % 2 ^ 14 * 2 ^ 82 + n.chip % 16 * 2 ^ 78
    + n.core % 128 * 2 ^ 71 + n.cause.toNat * 2 ^ 63 + n.kind % 256

/-! ## Notices (R392, R393) -/

/-- The key of a byte of host memory by its PCIe address (R252). -/
def hostKey (s : State) (a : Nat) : Nat := 3 * 2 ^ 50 + chipId s % 16 * 2 ^ 46 + a % 2 ^ 46

def portRegs (s : State) (p : Port) : PortRegs := match p with | .a => s.host.portA | .b => s.host.portB
def setPortRegs (s : State) (p : Port) (r : PortRegs) : State :=
  match p with
  | .a => { s with host := { s.host with portA := r } }
  | .b => { s with host := { s.host with portB := r } }

/-- Kinds that wait for room in a full ring. -/
def noticeWaits (kind : Nat) : Bool := kind == 1 || kind == 2 || kind == 10

/-- Room in the ring, which holds 2^LOG notices. -/
def ringRoom (r : PortRegs) : Bool := decide ((r.head - r.tail).toNat < 2 ^ r.log)

/-- One notice written at HEAD. -/
def ringWrite (s : State) (p : Port) (n : Notice) : State :=
  let r := portRegs s p
  let a := r.nrbase.toNat + 32 * (r.head.toNat % 2 ^ r.log)
  setPortRegs (writeKey s (hostKey s a) (natBytes 32 (noticeNat n))) p { r with head := r.head + 1 }

/-- A notice at one port: written where EN is 1 and there is room, kept waiting or dropped and counted where not. -/
def noticeAt (s : State) (p : Port) (n : Notice) : State :=
  let r := portRegs s p
  if !r.en then s
  else if ringRoom r && (r.waiting.isEmpty || !noticeWaits n.kind) then ringWrite s p n
  else if noticeWaits n.kind then setPortRegs s p { r with waiting := r.waiting ++ [n] }
  else setPortRegs s p { r with lost := if r.lost == 0xFFFFFFFF then r.lost else r.lost + 1 }

/-- A notice through every control port. -/
def postNotice (s : State) (n : Notice) : State := noticeAt (noticeAt s .a n) .b n

/-- A notice that takes an answer: a fresh identifier, remembered with what it concerns (R390). -/
def askNotice (s : State) (n : Notice) (about : Concern) (rpl : Bool) (addr : W64) (wr : Bool) : W32 × State :=
  let id := pickId 1 s.host.nextNotice
  let q : Asked := { id := id.1, about := about, rpl := rpl, addr := addr, wr := wr }
  (id.1, postNotice { s with host := { s.host with nextNotice := id.2, asked := s.host.asked ++ [q] } } { n with id := id.1 })

/-- Notices that waited, written while there is room (R393). -/
def flushWaiting : Nat → State → Port → State
  | 0, s, _ => s
  | n + 1, s, p =>
    let r := portRegs s p
    match r.waiting with
    | [] => s
    | w :: rest =>
      if ringRoom r then flushWaiting n (ringWrite (setPortRegs s p { r with waiting := rest }) p w) p else s

/-! ## Handler queues (R344) -/

/-- A binding covers a faulting context: the named child's subtree, or every child's. -/
def covers (s : State) (b : Binding) (asid : Nat) : Bool :=
  match b.child with
  | none => true
  | some c => inSubtree s c asid

/-- Where an entry ends up: queued at a context under an id, or a notice to the host. -/
inductive Posted where
  | queued (owner : Nat) (id : W32)
  | notice (id : W32)
  | dropped
  deriving DecidableEq, Repr

/-- Entries queued at one context and chip. -/
def hqCapacity : Nat := 1024

/-- An entry offered to a chain of contexts, nearest first; past the root it becomes a notice of kind 2 (R344). -/
def postEntry (s : State) (h : Hqe) : List Ctx → Posted × State
  | [] =>
    let n : Notice := { kind := 2, addr := 0, asid := h.ctx, chip := h.chip.toNat, core := h.core.toNat, cause := h.cause }
    if h.about == .event then (.dropped, postNotice s n)
    else
      let r := askNotice s n h.about h.rpl h.addr h.wr
      (.notice r.1, r.2)
  | c :: rest =>
    match c.bindings.find? (fun b => covers s b h.ctx) with
    | some b =>
      if h.about == .event && decide (c.hqes.length ≥ hqCapacity) then (.dropped, s)
      else
        let id := if h.about == .event then (0, c.nextHqe) else pickId 0 c.nextHqe
        (.queued c.asid id.1, setCtx s { c with hqes := c.hqes ++ [{ h with id := id.1, under := b.team }], nextHqe := id.2 })
    | none => postEntry s { h with unh := true } rest

/-- The chain from the parent of a context upward. -/
def parentChain (s : State) (asid : Nat) : List Ctx := (chainOf s asid).drop 1

/-- The chain from the owner of stage k of a context upward: the level-(k − 1) context (R336, R343). -/
def ownerChain (s : State) (asid k : Nat) : List Ctx := (chainOf s asid).filter (fun c => decide (c.level < k))

/-- The root device address at which a stage-0 translation is missing (R390), or the physical address. -/
def rootMiss (s : State) : List Ctx → Nat → Except Nat Nat
  | [], a => .ok a
  | c :: rest, a =>
    let rd := fun p => match rootMiss s rest p with
      | .error k => .error k
      | .ok x => .ok (BitVec.ofNat 64 (bytesNat (readKey s x 8)))
    match descend rd a (c.level == 0) a [(55, 2), (42, 13), (29, 13), (16, 13)] true c.cxr.stagea.toNat with
    | .error k => .error k
    | .ok (t, _, _) => rootMiss s rest t

def rootAddr (s : State) (asid : Nat) (va : W64) : W64 :=
  match rootMiss s (chainOf s asid) (va.toNat % 2 ^ 57) with
  | .error a => BitVec.ofNat 64 a
  | .ok _ => va

/-- The entry of a forced save (R394). -/
def postForced (s : State) (asid count core : Nat) : State :=
  match getCtx s asid with
  | none => s
  | some c =>
    if c.level == 0 then postNotice s { kind := 9, asid := asid, chip := chipId s, core := core, cause := 0x16 }
    else
      (postEntry s { src := ctxHandle c, cause := 0x16, chip := BitVec.ofNat 4 (chipId s), core := BitVec.ofNat 7 core,
                     aux := BitVec.ofNat 208 count, ctx := asid } (parentChain s asid)).2

end Sys2Proof.Machine
end

