-- ==== Sys2Proof/Machine/Team.lean ====
section
/-! DEFINITION. Named barriers and their completion (R22, R177, R241), departure of threads, retirement of gangs (R113, R238),
cohorts (R99), and placement of a team's gangs on a core (R15, R16, R230). -/

namespace Sys2Proof.Machine

open Sys2Proof

/-! ## Threads -/

/-- EXITED or GONE (R241). -/
def departed (th : Thread) : Bool :=
  match th.st with
  | .exited _ => true
  | .gone => true
  | _ => false

/-- Live: neither GONE nor parked at exit (R112). -/
def liveOut (th : Thread) : Bool := !departed th

/-! ## Barriers -/

def getBar (t : Team) (nb : Nat) : Bar := t.bars.getD nb {}
def setBar (t : Team) (nb : Nat) (b : Bar) : Team := { t with bars := t.bars.set nb b }

/-- The need of a barrier (R177). -/
def barNeed (t : Team) (b : Bar) : Nat := if b.init then b.exp else t.threads.length

/-- Departed threads whose arrival mark is clear (R241). -/
def barDeparted (t : Team) (nb : Nat) : Nat := (t.threads.filter (fun th => departed th && !th.marks.getLsbD nb)).length

/-- arrivals(b) of R241. -/
def barArrivals (t : Team) (nb : Nat) : Nat :=
  let b := getBar t nb
  min (b.arv + barDeparted t nb) (barNeed t b)

/-- Clear bit nb of an arrival-mark set. -/
def clearMark (m : BitVec 16) (nb : Nat) : BitVec 16 := m &&& ~~~ BitVec.ofNat 16 (2 ^ nb)
def setMark (m : BitVec 16) (nb : Nat) : BitVec 16 := m ||| BitVec.ofNat 16 (2 ^ nb)

/-- A thread waits on the phase of barrier nb whose parity is ph. -/
def waitsOn (nb : Nat) (ph : Bool) (th : Thread) : Bool :=
  th.syncing == some (nb, ph) ||
  match th.st with
  | .waiting (.bar n p) => n == nb && p == ph
  | _ => false

/-- try_complete of R177: PH toggles, the counts and the arrival marks clear, and every waiter of the old phase is freed. -/
def tryComplete (s : State) (uid nb : Nat) : State :=
  match getTeam s uid with
  | none => s
  | some t =>
    let b := getBar t nb
    if barArrivals t nb == barNeed t b && b.bcnt.toNat ≥ b.btgt.toNat then
      let t1 := setBar t nb { b with ph := !b.ph, arv := 0, bcnt := 0 }
      let t2 := { t1 with threads := t1.threads.map (fun th =>
        { th with marks := clearMark th.marks nb, freed := th.freed || waitsOn nb b.ph th }) }
      loupePhase (setTeam s t2) uid nb
    else s

/-- A thread's arrival (R177): ARV rises and the arrival mark is set. -/
def arriveBar (s : State) (uid tid nb : Nat) : State :=
  let s1 := modTeam s uid (fun t =>
    let b := getBar t nb
    let t1 := setBar t nb { b with arv := b.arv + 1 }
    match getThread t1 tid with
    | some th => setThread t1 tid { th with marks := setMark th.marks nb }
    | none => t1)
  tryComplete s1 uid nb

/-- Bytes that an engine delivers (R22, R175): BCNT saturates. -/
def bytesBar (s : State) (uid nb n : Nat) : State :=
  tryComplete (modTeam s uid (fun t =>
    let b := getBar t nb
    setBar t nb { b with bcnt := BitVec.ofNat 32 (min (b.bcnt.toNat + n) (2 ^ 32 - 1)) })) uid nb

/-- One arrival of an engine (R175). -/
def engineArrive (s : State) (uid nb : Nat) : State :=
  tryComplete (modTeam s uid (fun t =>
    let b := getBar t nb
    setBar t nb { b with arv := b.arv + 1 })) uid nb

/-- try_complete for all 16 barriers (R241). -/
def tryAll (s : State) (uid : Nat) : State := (List.range 16).foldl (fun st nb => tryComplete st uid nb) s

/-! ## Cohorts (R99) -/

/-- The thread leaves its cohort and forms one by itself. -/
def leaveCohort (t : Team) (tid : Nat) : Team :=
  match getThread t tid with
  | none => t
  | some th => { setThread t tid { th with cohort := t.nextCohort, path := [] } with nextCohort := t.nextCohort + 1 }

/-- One path is the beginning of the other. -/
def sameWay : List W64 → List W64 → Bool
  | [], _ => true
  | _, [] => true
  | a :: r, b :: q => a == b && sameWay r q

/-- Members of a thread's cohort: live threads of its gang that have not exited, whose control decisions so far agree. -/
def cohortOf (t : Team) (th : Thread) : List (Nat × Thread) :=
  ((List.range t.threads.length).zip t.threads).filter
    (fun p => p.2.gang == th.gang && p.2.cohort == th.cohort && liveOut p.2 && sameWay p.2.path th.path)

/-- The decisions that every member of a cohort has taken alike are forgotten: the first one, where all members have one and
they agree; members that disagree become cohorts of their own. -/
def settleCohort (t : Team) (gang cohort : Nat) : Team :=
  let mem := t.threads.filter (fun x => x.gang == gang && x.cohort == cohort && liveOut x)
  if mem.isEmpty || mem.any (fun x => x.path.isEmpty) then t
  else
    let heads := (mem.filterMap (fun x => x.path.head?)).eraseDups
    match heads with
    | [] => t
    | first :: others =>
      { t with
        nextCohort := t.nextCohort + others.length
        threads := t.threads.map (fun x =>
          if x.gang == gang && x.cohort == cohort && liveOut x then
            match x.path with
            | [] => x
            | h :: r =>
              if h == first then { x with path := r }
              else { x with path := r, cohort := t.nextCohort + others.idxOf h }
          else x) }

/-! ## Retirement of gangs (R113, R238) -/

/-- A store of the thread waits behind its release part (R146). -/
def storeWaits (th : Thread) : Bool := th.st != .gone && th.rel.any (fun r => r.store.isSome)

/-- Gang g of the team has a store, `stn4` or atomic that is not yet performed. -/
def gangStores (s : State) (t : Team) (g : Nat) : Bool :=
  let c := getCore s (teamCore t)
  let mine := fun (tid : Nat) => ((getThread t tid).map (·.gang)) == some g
  t.threads.any (fun th => th.gang == g && storeWaits th) || c.held.any (fun h => h.team == t.uid && mine h.tid) || c.wcb.any (fun w => w.teams.contains t.uid)
    || c.outst.any (fun o => o.teams.contains t.uid)

/-- The same for the whole team. -/
def teamStores (s : State) (t : Team) : Bool :=
  let c := getCore s (teamCore t)
  t.threads.any storeWaits || c.held.any (fun h => h.team == t.uid) || c.wcb.any (fun w => w.teams.contains t.uid) || c.outst.any (fun o => o.teams.contains t.uid)

/-- Entries in use of a core's retirement tracker (R238). -/
def trackersUsed (s : State) (core : Nat) : Nat :=
  (s.teams.filter (fun t => t.tracker && teamCore t == core)).length

/-- Every gang has retired: the team's registers and slots are free, the rest is held until it ends (R239). -/
def drainHome (t : Team) : Team :=
  if t.gangs.all (·.done) then
    { t with home := match t.home with
        | .core c => .drained c
        | .saved c => .savedDrained c
        | h => h }
  else t

/-- Gang g retires: its threads are GONE and its registers and slots are free. -/
def gangRetire (s : State) (uid g : Nat) (tracker : Bool) : State :=
  tryAll (modTeam s uid (fun t =>
    drainHome { t with
      tracker := t.tracker || tracker
      gangs := (List.range t.gangs.length).zip t.gangs |>.map (fun p => if p.1 == g then { p.2 with done := true } else p.2)
      threads := t.threads.map (fun th =>
        if th.gang == g then { th with st := .gone, pending := [], hazards := [] } else th) })) uid

/-- Gang g finds no tracker entry: it retires as by `exit`, and the team tries again when the next one retires by `tail` (R238). -/
def refuseEntry (s : State) (uid g : Nat) : State :=
  modTeam s uid (fun t => { t with
    gangs := (List.range t.gangs.length).zip t.gangs |>.map (fun p => if p.1 == g then { p.2 with byExit := true } else p.2) })

/-- Retirement of a gang whose threads are all at exit, at tail, or gone (R113). -/
def tryRetireGang (s : State) (uid g : Nat) : State :=
  match getTeam s uid with
  | none => s
  | some t =>
    let mem := t.threads.filter (fun th => th.gang == g)
    let undone := (t.gangs[g]?.map (fun x => !x.done)).getD false
    if !undone || !mem.all departed || !teamResident t then s
    else
      let tail := mem.any (fun th => th.st == .exited true) && !(t.gangs[g]?.map (·.byExit)).getD false
      if tail && (t.tracker || decide (trackersUsed s (teamCore t) < Config.trackers)) then gangRetire s uid g true
      else if gangStores s t g then (if tail then refuseEntry s uid g else s)
      else gangRetire s uid g false

/-- A thread becomes GONE by a kill (R233): its pending writes are discarded and its departure may complete barriers. -/
def killThread (s : State) (uid tid : Nat) : State :=
  match getTeam s uid with
  | none => s
  | some t =>
    match getThread t tid with
    | none => s
    | some th =>
      let t1 := { setThread t tid { th with st := .gone, pending := [], hazards := [] } with hurt := true }
      tryRetireGang (tryAll (setTeam s t1) uid) uid th.gang

/-! ## Placement on a core (R15, R16, R230) -/

/-- Registers in use of each lane position: (partition, lane, slot, allotment) of the threads resident on a core. -/
def laneUse (s : State) (core : Nat) : List (Nat × Nat × Nat × Nat) :=
  (s.teams.filter (fun t => t.home == .core core)).flatMap (fun t =>
    (t.threads.filter (fun th => (t.gangs[th.gang]?.map (fun g => !g.done)).getD false)).map
      (fun th => (th.part, th.lane, th.slot, th.regs.length)))

/-- A lane has the slot free and room for the allotment. -/
def laneFits (used : List (Nat × Nat × Nat × Nat)) (part lane slot allot : Nat) : Bool :=
  let mine := used.filter (fun u => u.1 == part && u.2.1 == lane)
  !(mine.any (fun u => u.2.2.1 == slot)) && decide ((mine.map (fun u => u.2.2.2)).sum + allot ≤ Config.laneRegs)

/-- The first position for a gang of width w, in the order of R230. -/
def gangPosition (used : List (Nat × Nat × Nat × Nat)) (w allot : Nat) : Option (Nat × Nat × Nat) :=
  ((List.range 4).flatMap (fun part =>
    (List.range (64 / w)).flatMap (fun i => (List.range Config.laneSlots).map (fun slot => (part, i * w, slot))))).find?
    (fun p => (List.range w).all (fun j => laneFits used p.1 (p.2.1 + j) p.2.2 allot))

/-- Positions for gangs in increasing index, each given by width and allotment; none if one finds no place. -/
def placeGangs (used : List (Nat × Nat × Nat × Nat)) : List (Nat × Nat) → Option (List (Nat × Nat × Nat))
  | [] => some []
  | (w, allot) :: rest =>
    match gangPosition used w allot with
    | none => none
    | some p =>
      (placeGangs ((List.range w).map (fun j => (p.1, p.2.1 + j, p.2.2, allot)) ++ used) rest).map (fun l => p :: l)

end Sys2Proof.Machine
end

