-- ==== Sys2Proof/Machine/Ops.lean ====
section
/-! DEFINITION. The shared operations of execution: taking a trap and returning from one (R118, R119, R343 to R346, R386), the
checks of R76 before an instruction's effect, stall distances and interlocks (R68 to R72), and the end of an instruction. -/

namespace Sys2Proof.Machine

open Sys2Proof

/-! ## The instruction in hand -/

/-- What the issue of an instruction needs to know of its encoding. -/
structure Enc where
  len  : Nat
  stl  : Nat
  grd  : Nat
  gneg : Bool
  lat  : Nat
  deriving DecidableEq, Repr

def encOf (i : Instr) : Enc :=
  match i.view with
  | .short _ lat o => { len := 1, stl := o.stl.toNat, grd := o.grd.toNat, gneg := false, lat := lat }
  | .long _ lat _ o => { len := o.form.words, stl := o.stl.toNat, grd := o.grd.toNat, gneg := o.gneg, lat := lat }
  | .event => { len := 0, stl := 0, grd := 7, gneg := false, lat := 0 }

/-- Control instructions (R99). -/
def isControl (i : Instr) : Bool :=
  match i with
  | .bra _ | .brx _ | .call _ | .callx _ | .ret _ | .switch _ => true
  | _ => false

/-- sr.ctl and sr.hent of the instruction at which a thread stands: those it issued under, where it has (R25). -/
def ctlOf (t : Team) (th : Thread) : W32 := (th.begun.map (·.1)).getD t.ctl
def hentOf (t : Team) (th : Thread) : W64 := (th.begun.map (·.2)).getD t.hent

/-- Bits of sr.ctl (R25). -/
def landChk (t : Team) (th : Thread) : Bool := (ctlOf t th).getLsbD 7
def tagRlx (t : Team) (th : Thread) : Bool := (ctlOf t th).getLsbD 5
def sbChk (t : Team) (th : Thread) : Bool := (ctlOf t th).getLsbD 4

/-- The effective feature mask of a context (R224). -/
def effFeat (s : State) (asid : Nat) : BitVec 64 := (chainOf s asid).foldl (fun m c => m &&& c.feat) (~~~ 0)

/-- The instruction takes the thread's next place in an issue set. -/
def popIssue (s : State) : State := { s with issue := s.issue.drop 1 }

/-! ## Taking a trap -/

/-- The fault record of a trap (R386). -/
def recordOf (s : State) (t : Team) (tid : Nat) (th : Thread) (tr : Trap) : Frc :=
  { pc := th.pc, addr := tr.addr, word0 := if tr.noWord then 0 else s.ir, cause := BitVec.ofNat 8 (causeCode tr.cause),
    widx := BitVec.ofNat 3 tr.widx, str := tr.str, stage := BitVec.ofNat 3 tr.stage, rpl := tr.rpl, wr := tr.wr,
    lnd := tr.lnd, imm8 := BitVec.ofNat 8 tr.imm8, team := t.serial, chip := BitVec.ofNat 4 (chipId s),
    core := BitVec.ofNat 7 (teamCore t), tid := BitVec.ofNat 12 tid, aux := BitVec.ofNat 256 tr.aux }

/-- The handler-queue entry of a thread's trap (R345, R387). -/
def entryOf (c : Ctx) (t : Team) (tid : Nat) (th : Thread) (f : Frc) : Hqe :=
  { pc := f.pc, addr := f.addr, src := ctxHandle c, team := t.serial, cause := f.cause, stage := f.stage, nest := th.handler,
    rpl := f.rpl, wr := f.wr, chip := f.chip, core := f.core, tid := f.tid, aux := f.aux.setWidth 208,
    about := .thread t.uid tid, ctx := c.asid }

/-- Offset of a thread's handler frame in its core's slice: the start of its private record (R118, R325). -/
def frameOff (t : Team) (tid : Nat) : Nat := privateBase t + tid * t.recLen

/-- ACTION at handler entry (R118). -/
def entryAction (c : Cause) : Nat :=
  match c with
  | .trapInstr | .breakpoint | .misalignedData => 1
  | _ => 0

/-- The 1,024 bits of a handler frame (R118). -/
def frameNat (th : Thread) (f : Frc) (action : Nat) : Nat :=
  let r := fun n => readV th n
  action * 2 ^ 664 + th.preds.toNat * 2 ^ 656
    + (tagCode (r 0).tag + tagCode (r 1).tag * 16 + tagCode (r 2).tag * 256 + tagCode (r 3).tag * 4096) * 2 ^ 640
    + ((r 0).val.toNat + (r 1).val.toNat * 2 ^ 32 + (r 2).val.toNat * 2 ^ 64 + (r 3).val.toNat * 2 ^ 96) * 2 ^ 512
    + frcNat f

/-- A thread with its pending writes complete: nothing is interlocked and every stall distance is sufficient (R72). -/
def settled (th : Thread) : Thread := { th with hazards := [], pending := [], drain := false }

/-- The frame is filled by the device, which writes its read-only part too (R118, step 2). -/
def fillFrame (s : State) (t : Team) (tid : Nat) (th : Thread) (f : Frc) (action : Nat) : State :=
  homeStore s t.asid (sliceKey (teamCore t) (frameOff t tid)) (natBytes 128 (frameNat th f action))

/-- Entry to the in-context handler (R118). -/
def enterHandler (s : State) (t : Team) (tid : Nat) (th : Thread) (f : Frc) (cause : Cause) : State :=
  let a := windowAddr (chipId s) (teamCore t) (frameOff t tid)
  let b := fun (v : W32) => ({ val := v, tag := .b32 } : Reg)
  let th1 := writeV (writeV (writeV (writeV th 0 (b (lo32 a))) 1 (b (hi32 a))) 2
    (b (BitVec.ofNat 32 (causeCode cause)))) 3 (b 0)
  setTeam (fillFrame s t tid th f (entryAction cause))
    (setThread t tid { th1 with pc := hentOf t th, handler := true, st := .ready, frc := f, begun := none })

/-- Where a posted entry leaves its thread. -/
def parkPosted (p : Posted) : ThreadState :=
  match p with
  | .queued o id => .parked (.entry o id)
  | .notice id => .parked (.notice id)
  | .dropped => .ready

/-- Who receives a trap (R343): the thread's own handler, the chain of contexts from the one it goes to, or the host. -/
inductive Route where
  | own
  | chain (cs : List Ctx)
  | host (n : Notice)
  deriving DecidableEq, Repr

/-- The routing of R343; a Reticle halt goes to the control ports (R401). -/
def routeTrap (s : State) (t : Team) (th : Thread) (tr : Trap) : Route :=
  let up := parentChain s t.asid
  let note := fun (kind : Nat) (a : W64) =>
    ({ kind := kind, addr := a, asid := t.asid, chip := chipId s, core := teamCore t,
       cause := BitVec.ofNat 8 (causeCode tr.cause) } : Notice)
  if tr.halt then .host (note 10 th.pc)
  else if tr.rpl then
    if tr.stage == 0 then .host (note 1 (rootAddr s t.asid tr.addr)) else .chain (ownerChain s t.asid tr.stage)
  else
    match tr.cause with
    | .misalignedData => .chain up
    | .uncorrectable => .chain up
    | c => if t.trm.getLsbD (causeCode c) && hentOf t th != 0 && !th.handler then .own else .chain up

/-- A thread as a trap finds it, and its record: it has left its cohort (R99) and its pending writes are complete. R72 says so of
entry to a handler; that a trap which parks the thread completes them too is the model's choice (log 10). An instruction that traps
after it issued counts as issued (R229). -/
def trapEntry (s : State) (t0 : Team) (tid : Nat) (th0 : Thread) (tr : Trap) : Team × Thread × Frc :=
  let th := { settled th0 with syncing := none, freed := false, waited := 0, stall := 0, age := 0, reply := [], released := false,
                               rel := th0.rel.filter (fun r => !r.own), noFill := false, early := [],
                               since := s.cycle, issued := if tr.unissued then th0.issued else th0.issued + 1,
                               landing := if tr.lnd then none else th0.landing }
  let t := leaveCohort (setThread t0 tid th) tid
  let th := (getThread t tid).getD th
  (t, th, recordOf s t tid th tr)

/-- A thread PARKED on a Page Request Group with its record (R389): nothing is posted, and its access is made again afresh. -/
def parkPage (s : State) (uid tid : Nat) (rq : AtsReq) (tr : Trap) : State :=
  match getTeam s uid with
  | none => s
  | some t0 =>
    match getThread t0 tid with
    | none => s
    | some th0 =>
      let e := trapEntry s t0 tid th0 tr
      setTeam s (setThread e.1 tid { e.2.1 with frc := e.2.2, st := .parked (.page rq), begun := none })

/-- Taking a trap: the one operation for every cause (R118, R243, R343, R344, R386). The thread enters its handler or is PARKED
with its record. -/
def takeTrap (s : State) (uid tid : Nat) (tr : Trap) : State :=
  match getTeam s uid with
  | none => s
  | some t0 =>
    match getThread t0 tid, getCtx s t0.asid with
    | some th0, some c =>
      if th0.st == .gone then s
      else
      let e := trapEntry s t0 tid th0 tr
      let t := e.1
      let th := e.2.1
      let f := e.2.2
      match routeTrap s t th tr with
      | .own => enterHandler (setTeam s t) t tid th f tr.cause
      | .chain cs =>
        let r := postEntry s (entryOf c t tid th f) cs
        setTeam r.2 (setThread t tid { th with frc := f, st := parkPosted r.1, begun := none })
      | .host n =>
        let r := askNotice s n (.thread uid tid) tr.rpl tr.addr tr.wr
        setTeam r.2 (setThread t tid { th with frc := f, st := .parked (.notice r.1), begun := none })
    | _, _ => s

/-! ## Returning -/

/-- The record of a Reticle match, after which a replay passes once (R401). -/
def byReticle (f : Frc) : Bool := (f.cause == 0x14 || f.cause == 0x15) && f.aux.getLsbD 8

/-- A field of the frame in memory. -/
def frameBits (s : State) (t : Team) (tid hi lo : Nat) : Nat :=
  bitsAt (bytesNat (readKey s (sliceKey (teamCore t) (frameOff t tid)) 128)) hi lo

/-- v0 to v3 and p0 to p6 as the frame holds them (R119). -/
def restoreFrame (s : State) (t : Team) (tid : Nat) (th : Thread) : Thread :=
  let g := fun n => frameBits s t tid
    (512 + 32 * n + 31) (512 + 32 * n)
  let tag := fun n => codeTag (frameBits s t tid (640 + 4 * n + 3) (640 + 4 * n))
  let put := fun (th : Thread) n => writeV th n { val := BitVec.ofNat 32 (g n), tag := tag n }
  { put (put (put (put th 0) 1) 2) 3 with preds := BitVec.ofNat 7 (frameBits s t tid 662 656) }

/-- Words of the instruction whose word 0 a record holds (R119, R387). -/
def wordLen (w : W32) : Nat :=
  match w.toNat % 4 with
  | 0 => 1
  | 1 => 2
  | 2 => 3
  | _ => 5

/-! ## Checks of R76 -/

def trapOf (c : Cause) : Trap := { cause := c }

/-- A hazard whose stall distance is still short (R68). -/
def isShort (h : Hazard) : Bool := decide (h.dist < h.lat)

/-- The one that a record reports where several fail one check: the spec does not say which (log 26). -/
def oneOf {α : Type} (ctr : Nat) (l : List α) : Option α := l[Config.pick ctr % l.length]?

/-- Short hazards on what an instruction touches. -/
def shortOn (th : Thread) (regs : List RegUse) (preds : List Nat) : List Hazard :=
  th.hazards.filter (fun h => isShort h &&
    (if h.pred then preds.contains h.num
     else regs.any (fun u => !u.k && decide (u.num ≤ h.num ∧ h.num < u.num + u.n))))

def stallTrap (h : Hazard) : Trap :=
  { cause := .stallCount,
    aux := h.num + (if h.pred then 2 ^ 10 else 0) + h.dist % 256 * 2 ^ 11 + h.lat % 256 * 2 ^ 19 }

/-- A pending variable-latency write on what an instruction touches (R69). -/
def interlocked (th : Thread) (regs : List RegUse) (preds : List Nat) : Bool :=
  th.pending.any (fun p => match p with
    | .p n => preds.contains n
    | .seed => false
    | .v n => regs.any (fun u => !u.k && decide (u.num ≤ n ∧ n < u.num + u.n))
    | .k n => regs.any (fun u => u.k && decide (u.num ≤ n ∧ n < u.num + u.n)))

/-- An instruction that reads or writes sr.seed (R40, R228). -/
def usesSeed (i : Instr) : Bool :=
  i.features.contains 3 ||
  match i with
  | .rdsr o => o.imm.toNat == 0x15
  | .wrsr o => o.imm.toNat == 0x15
  | _ => false

/-- A pending write of sr.seed holds the instruction (R141). -/
def seedHeld (i : Instr) (th : Thread) : Bool := usesSeed i && th.pending.contains .seed

/-- The registers and predicates as the instruction reads them: for each short hazard, newest first, the value before or
after the producer's write (R70); the list is oldest first. Answers the view, the registers decided, and the counter of free values. -/
def hazardView (hs : List Hazard) (th : Thread) (ctr : Nat) : Thread × List (Bool × Nat) × Nat :=
  match hs with
  | [] => (th, [], ctr)
  | h :: newer =>
    let r := hazardView newer th ctr
    if !isShort h || r.2.1.contains (h.pred, h.num) then r
    else if Config.hazardNew r.2.2 then (r.1, (h.pred, h.num) :: r.2.1, r.2.2 + 1)
    else
      let th1 := if h.pred then { r.1 with preds := writePred r.1.preds h.num (h.old.val.getLsbD 0) } else writeV r.1 h.num h.old
      (th1, r.2.1, r.2.2 + 1)

/-- Check 7: register numbers and alignment (R17, R18); the numbers of the registers that fail. -/
def badReg (th : Thread) (regs : List RegUse) : List Nat :=
  (regs.filter (fun u => decide (u.num % u.n ≠ 0) || (!u.k && decide (u.num + u.n > th.regs.length)))).map (·.num)

/-- Check 9: the registers whose tag differs from the one expected (R28). -/
def badTag (th : Thread) (regs : List RegUse) : List (Nat × Tag × Tag) :=
  (regs.flatMap (fun u => if u.k then [] else
    ((List.range u.tags.length).zip u.tags).map (fun p => (u.num + p.1, (readV th (u.num + p.1)).tag, p.2)))).filter
    (fun p => p.2.1 != p.2.2)

/-- A PC comparator that matches (R399, R400). -/
def reticlePc (s : State) (t : Team) (th : Thread) : Option (Nat × Bool) :=
  if th.pass then none
  else
    ((getCore s (teamCore t)).retic.filter (fun p =>
      decide (p.1 < 8) && p.2.en && !p.2.rd && !p.2.wr && p.2.szl == 0 && p.2.caddr.toNat % 4 == 0
        && p.2.caddr == th.pc && p.2.lmask.getLsbD (64 * th.part + th.lane)
        && (p.2.anyc || p.2.asid.toNat == t.asid))).foldl
      (fun best p => match best with
        | none => some (p.1, p.2.act)
        | some b => if p.1 < b.1 then some (p.1, p.2.act) else some b) none

/-- What the checks of R76 say of a thread at an instruction. -/
inductive Gate where
  | trap (t : Trap)
  | hold
  | skip
  | go (c : Cur) (ctr : Nat)
  deriving DecidableEq, Repr

/-- The landing check of R108: a set flag whose target is this instruction, and it is not `land`. -/
def landingFails (i : Instr) (th : Thread) : Option W64 :=
  match th.landing, i with
  | _, .land _ => none
  | some (a, target), _ => if target == th.pc then some a else none
  | none, _ => none

/-- Checks 7 to 9, for a thread whose guard is true. -/
def gateOperands (s : State) (t : Team) (th view : Thread) (sg : Sig) (ctr : Nat) : Gate :=
  match reticlePc s t th with
  | some (n, act) => .trap { cause := .breakpoint, aux := n + 256, halt := act }
  | none =>
    match oneOf ctr (badReg th sg.regs) with
    | some n => .trap { cause := .reservedField, aux := n * 2 ^ 80 }
    | none =>
      if interlocked th sg.regs (sg.pr ++ sg.pw) then .hold
      else
        match (if sbChk t th then oneOf ctr (shortOn th sg.regs (sg.pr ++ sg.pw)) else none) with
        | some h => .trap (stallTrap h)
        | none =>
          match (if tagRlx t th then none else oneOf ctr (badTag view sg.regs)) with
          | some (n, found, want) =>
            .trap { cause := .tagMismatch, aux := n + tagCode found * 2 ^ 10 + tagCode want * 2 ^ 14 }
          | none => .go { team := t, th := view } ctr

/-- Checks 2 to 9 of R76 in order, with the landing check and the Reticle's PC comparators in their places. -/
def gate (s : State) (i : Instr) (t : Team) (th : Thread) (sg : Sig) : Gate :=
  let e := encOf i
  let feat := effFeat s t.asid
  let view := hazardView th.hazards th s.freeCtr
  match landingFails i th with
  | some a => .trap { cause := .badTarget, addr := a, lnd := true }
  | none =>
    if !i.allocated then .trap (trapOf .illegalOpc)
    else
      match oneOf s.freeCtr (i.features.filter (fun b => !feat.getLsbD b)) with
      | some b => .trap { cause := .maskedFeature, aux := b }
      | none =>
        if !i.reservedOk then .trap (trapOf .reservedField)
        else
          match (if sbChk t th && e.grd != 7 then oneOf s.freeCtr (shortOn th [] [e.grd]) else none) with
          | some h => .trap (stallTrap h)
          | none =>
            if e.grd != 7 && interlocked th [] [e.grd] then .hold
            else if !guardHolds view.1.preds e.grd e.gneg then .skip
            else if seedHeld i th then .hold
            else gateOperands s t th view.1 sg view.2.2

/-! ## The end of an instruction -/

/-- A register write by the instruction in hand; where a short hazard stands on the register, it ends with either write
(R70). -/
def putReg (s : State) (uid tid : Nat) (n : Nat) (r : Reg) : State :=
  match (getTeam s uid).bind (fun t => getThread t tid) with
  | none => s
  | some th =>
    if th.hazards.any (fun h => isShort h && !h.pred && h.num == n) then
      let s1 := nextFree s
      if Config.hazardNew s.freeCtr then modThread s1 uid tid (fun x => writeV x n r) else s1
    else modThread s uid tid (fun x => writeV x n r)

/-- A predicate write, likewise. -/
def putPred (s : State) (uid tid : Nat) (n : Nat) (b : Bool) : State :=
  match (getTeam s uid).bind (fun t => getThread t tid) with
  | none => s
  | some th =>
    if th.hazards.any (fun h => isShort h && h.pred && h.num == n) then
      let s1 := nextFree s
      if Config.hazardNew s.freeCtr then modThread s1 uid tid (fun x => { x with preds := writePred x.preds n b }) else s1
    else modThread s uid tid (fun x => { x with preds := writePred x.preds n b })

/-- All writes of an instruction in its thread. -/
def applyWrites (s : State) (uid tid : Nat) (w : Writes) : State :=
  let s1 := w.regs.foldl (fun st p => putReg st uid tid p.1 p.2) s
  let s2 := w.preds.foldl (fun st p => putPred st uid tid p.1 p.2) s1
  match w.seed with
  | none => s2
  | some v => modThread s2 uid tid (fun x => { x with seed := v })

/-- v registers and predicates that an instruction writes. -/
def writtenRegs (sg : Sig) : List Nat :=
  (sg.regs.filter (fun u => u.wr && !u.k)).flatMap (fun u => (List.range u.n).map (fun j => u.num + j))
def writtenPreds (sg : Sig) : List Nat := sg.pw.filter (· != 7)

/-- The hazards that a fixed-latency instruction leaves (R68), with what stood there before it. -/
def newHazards (e : Enc) (sg : Sig) (old : Thread) : List Hazard :=
  if e.lat == 0 || e.stl == 7 || decide (e.stl + 1 ≥ e.lat) then []
  else
    (writtenRegs sg).map (fun n => ({ pred := false, num := n, old := readV old n, dist := e.stl + 1, lat := e.lat } : Hazard))
      ++ (writtenPreds sg).map (fun n =>
        ({ pred := true, num := n, old := { val := BitVec.ofNat 32 (readPred old.preds n).toNat, tag := .none },
           dist := e.stl + 1, lat := e.lat } : Hazard))

/-- The interlocks that a variable-latency instruction leaves until its writes complete (R69). -/
def newPending (e : Enc) (sg : Sig) : List Pending :=
  if e.lat == 0 then
    (writtenRegs sg).map Pending.v ++ (writtenPreds sg).map Pending.p ++ (if sg.seedW then [.seed] else [])
  else []

/-- The thread after an instruction has issued with its stall count (R68, R72): distances grow, STL = 7 ends them and holds
the thread until its pending writes have completed. -/
def advance (e : Enc) (sg : Sig) (wrote : Bool) (old th : Thread) (pc : W64) : Thread :=
  let hs := if e.stl == 7 then [] else
    (th.hazards.map (fun h => { h with dist := h.dist + 1 + e.stl })).filter isShort
  let ps := th.pending ++ (if wrote then newPending e sg else [])
  { th with
    pc := pc
    hazards := hs ++ (if wrote then newHazards e sg old else [])
    pending := ps
    stall := if e.stl == 7 || e.stl == 0 then 0 else e.stl + 1
    drain := e.stl == 7 && !ps.isEmpty
    issued := th.issued + 1
    age := 0
    waited := 0
    begun := none
    rel := th.rel.filter (fun r => !r.own)
    noFill := false
    released := false
    pass := false
    freed := false
    syncing := none
    reply := []
    st := .ready }

/-- An instruction that leaves what the thread's later plain loads may have read already (R149): one that accesses no memory, or a plain
load. -/
def keepsEarly (i : Instr) : Bool :=
  isControl i || (encOf i).lat != 0 ||
  match i with
  | .ld o => o.order == 0
  | .pref _ | .land _ | .nop _ => true
  | _ => false

/-- An instruction's end in one thread: the thread goes on at `pc`; a control instruction records its decision (R99). -/
def retireAt (s : State) (uid tid : Nat) (i : Instr) (sg : Sig) (wrote : Bool) (old : Thread) (pc : W64) : State :=
  match getTeam s uid with
  | none => s
  | some t =>
    match getThread t tid with
    | none => s
    | some th =>
      if th.st == .gone then s
      else
        let th0 := advance (encOf i) sg wrote old th pc
        let th1 := { th0 with early := if keepsEarly i then th0.early else [] }
        if isControl i then
          setTeam s (settleCohort (setThread t tid { th1 with path := th1.path ++ [pc] }) th.gang th.cohort)
        else setTeam s (setThread t tid th1)

/-- The address after an instruction. -/
def nextPc (i : Instr) (th : Thread) : W64 := th.pc + BitVec.ofNat 64 (4 * (encOf i).len)

def isWaiting (th : Thread) : Bool :=
  match th.st with
  | .waiting _ => true
  | _ => false

/-- A thread that waits from a cycle on, at an instruction that issued under given values of sr.ctl and sr.hent. -/
def waiting (now : Nat) (under : W32 × W64) (th : Thread) (w : Wait) : Thread :=
  { th with st := .waiting w, waited := if th.st == .waiting w then th.waited else 0, age := 0, released := false,
            since := if isWaiting th then th.since else now, begun := some (th.begun.getD under) }

/-- The thread waits at its instruction (R171, R233). -/
def holdThread (s : State) (uid tid : Nat) (w : Wait) : State :=
  modTeam s uid (fun t =>
    match getThread t tid with
    | none => t
    | some th => setThread t tid (waiting s.cycle (t.ctl, t.hent) th w))

/-- What the effect of an instruction comes to. -/
inductive Act where
  /-- its effects stand in the state; the thread goes on after the instruction -/
  | done (s : State)
  /-- as `done`, but the thread goes on at `pc` -/
  | jump (s : State) (pc : W64)
  /-- the trap is taken; the state holds what took place before it -/
  | trap (s : State) (t : Trap)
  /-- the thread waits at the instruction, which executes again when the wait can end -/
  | hold (s : State) (w : Wait)
  /-- the effect has settled the thread itself -/
  | left (s : State)
  deriving DecidableEq, Repr

/-- A thread that can execute. -/
def canRun (th : Thread) : Bool :=
  !th.saved && (match th.st with
    | .ready | .stalled | .waiting _ => true
    | _ => false)

/-- The thread is held by an interlock. -/
def stallThread (s : State) (uid tid : Nat) : State := modThread s uid tid (fun th => { th with st := .stalled })

/-- An instruction of class 1 (R413): F64, transcendental or generator. -/
def isCostly (i : Instr) : Bool :=
  i.features.contains 0 || i.features.contains 4 ||
  match i with
  | .frcp _ | .frsq _ | .fsqrt _ | .fdiv _ | .fex2 _ | .flg2 _ | .fsin _ | .fcos _ => true
  | _ => false

/-- The energy of a thread that has issued (R413); one that waited at the instruction issued when it came there. -/
def chargeIssue (i : Instr) (asid : Nat) (th : Thread) (s : State) : State :=
  if th.begun.isSome then s
  else
    let s1 := charge s asid 0 1
    if isCostly i then charge s1 asid 1 1 else s1

/-- An instruction by the thread in hand: the checks of R76, its effect, and its end. -/
def run (i : Instr) (sg : Sig) (eff : State → Nat → Nat → Cur → Act) (s : State) : Host.Outcome State Fault Refusal :=
  match s.issue with
  | [] => .fault .noThread
  | (uid, tid) :: _ =>
    match getTeam s uid with
    | none => .fault .noThread
    | some t =>
      match getThread t tid with
      | none => .fault .noThread
      | some th =>
        if !canRun th then .fault .noThread
        else
          .next (popIssue (
            match gate s i t th sg with
            | .trap tr => chargeIssue i t.asid th (takeTrap (nextFree s) uid tid tr)
            | .hold => stallThread s uid tid
            | .skip => chargeIssue i t.asid th (retireAt s uid tid i sg false th (nextPc i th))
            | .go c ctr =>
              match eff { s with freeCtr := ctr } uid tid c with
              | .done s1 => chargeIssue i t.asid th (retireAt s1 uid tid i sg true th (nextPc i th))
              | .jump s1 pc => chargeIssue i t.asid th (retireAt s1 uid tid i sg true th pc)
              | .trap s1 tr => chargeIssue i t.asid th (takeTrap s1 uid tid tr)
              | .hold s1 w => chargeIssue i t.asid th (holdThread s1 uid tid w)
              | .left s1 => chargeIssue i t.asid th s1))

/-- An instruction whose effect is its writes in its own thread. -/
def runAlu (i : Instr) (sg : Sig) (f : Cur → Writes) (s : State) : Host.Outcome State Fault Refusal :=
  run i sg (fun s uid tid c => .done (applyWrites s uid tid (f c))) s

/-- An instruction whose effect is its writes, or a trap of its own entry (check 10). -/
def runTry (i : Instr) (sg : Sig) (f : Cur → Except Trap Writes) (s : State) : Host.Outcome State Fault Refusal :=
  run i sg (fun s uid tid c => match f c with
    | .ok w => .done (applyWrites s uid tid w)
    | .error tr => .trap s tr) s

/-- Return from the in-context handler (R119): v0 to v3 and p0 to p6 come back from the frame, the handler-active state ends,
and the thread goes on, a cohort of one, where ACTION says. -/
def returnHandler (s : State) (uid tid : Nat) (c : Cur) : Act :=
  if !c.th.handler then .trap s { cause := .badTarget }
  else
    let action := frameBits s c.team tid 671 664
    let raddr := frameBits s c.team tid 767 704
    if action > 2 || raddr % 4 != 0 then
      .trap s { cause := .badTarget, addr := BitVec.ofNat 64 raddr, aux := action }
    else
      let pc := BitVec.ofNat 64 (frameBits s c.team tid 511 448)
      let w0 := BitVec.ofNat 32 (frameBits s c.team tid 383 352)
      let next := match action with
        | 0 => pc
        | 1 => pc + BitVec.ofNat 64 (4 * wordLen w0)
        | _ => BitVec.ofNat 64 raddr
      let s1 := modTeam s uid (fun t => leaveCohort t tid)
      .jump (modThread s1 uid tid (fun th => { restoreFrame s c.team tid (settled th) with handler := false })) next

end Sys2Proof.Machine
end

