-- ==== Sys2Proof/Machine/Link.lean ====
section
/-! DEFINITION. The chip fabric as this chip sees it: tags (R333, R366), channels and reservations (R357 to R359), permits and the
replay buffer (R355, R360), streams, paths and detours (R361 to R365), and the requests of a core (R361, R362). -/

namespace Sys2Proof.Machine

open Sys2Proof

/-! ## Tags -/

/-- The entry of an ASID in the tag table: incarnation and LIVE (R366). -/
def tagEntry (s : State) (asid : Nat) : Nat × Bool :=
  match s.fab.tags.find? (fun t => t.1 == asid) with
  | some t => t.2
  | none => (0, false)

/-- A context's fabric tag (R333). -/
def ftagOf (s : State) (asid : Nat) : BitVec 16 := BitVec.ofNat 16 ((tagEntry s asid).1 % 4 * 2 ^ 14 + asid)

def tagAsid (t : BitVec 16) : Nat := t.toNat % 2 ^ 14

/-- The ingress accepts the tag (R366). -/
def tagLive (s : State) (t : BitVec 16) : Bool :=
  (tagEntry s (tagAsid t)).2 && (tagEntry s (tagAsid t)).1 % 4 == t.toNat / 2 ^ 14

/-! ## Channels (R357 to R359) -/

/-- Flits of a packet (R354). -/
def flitsOf (p : Packet) : Nat := (16 + p.len.toNat + 63) / 64

def linkShare (c : Ctx) (port : Nat) : Nat := c.grant.linkbw.getD port 0

/-- Tenants with a share on a port, in increasing ASID. -/
def tenants (s : State) (port : Nat) : List Ctx :=
  sortBy (fun (a b : Ctx) => decide (a.asid ≤ b.asid)) (s.ctxs.filter (fun c =>
    c.live && c.level == 1 && c.grant.span.getLsbD (chipId s) && decide (linkShare c port > 0)))

def shareSum (s : State) (port : Nat) : Nat := ((tenants s port).map (fun c => linkShare c port)).sum

/-- The tenant of a channel from 8 up. -/
def tenantOf (s : State) (port ch : Nat) : Option Ctx := if ch < 8 then none else ((tenants s port).take 56)[ch - 8]?

/-- A tenant channel's reservation (R359), or the system's. -/
def reservation (s : State) (port ch : Nat) : Nat :=
  if ch == 1 || ch == 4 then 32
  else if ch == 3 then 64
  else match tenantOf s port ch with
    | some c => 896 * linkShare c port / max 256 (shareSum s port)
    | none => 0

/-- The parts of a port's ingress pool (R358): the whole, a minimum for each channel, the system's reservations and the tenants', and what
is shared. -/
def poolFlits : Nat := 2048
def channelMinimum : Nat := 1
def systemFlits : Nat := 128
def tenantFlits : Nat := 896

/-- Flits that the tenants' reservations leave join the shared part. -/
def sharedFlits (s : State) (port : Nat) : Nat :=
  poolFlits - 64 * channelMinimum - systemFlits - (((List.range 56).map (fun i => reservation s port (8 + i))).sum)

/-- The channel of a context's traffic on a port. -/
def contextChannel (s : State) (asid port : Nat) : Nat :=
  match (chainOf s asid).find? (fun c => c.level == 1) with
  | none => 5
  | some c =>
    match ((tenants s port).take 56).findIdx? (fun x => x.asid == c.asid) with
    | some i => 8 + i
    | none => 5

/-- The channel of a packet on its first hop (R357). -/
def firstChannel (s : State) (port : Nat) (p : Packet) : Nat :=
  match p.kind.toNat with
  | 11 => 0
  | 5 => 1
  | 10 => 1
  | 2 => 2
  | 4 => 2
  | 8 => 4
  | 9 => 4
  | _ => contextChannel s (tagAsid p.ftag) port

/-- The weight of a class of channels at an egress; class 5 is channels 5 to 7 together. -/
def drrWeight (s : State) (port cls : Nat) : Nat :=
  if cls == 5 then max 1 (256 - shareSum s port)
  else ((tenantOf s port cls).map (fun c => linkShare c port)).getD 0

def classOf (ch : Nat) : Nat := if ch ≤ 7 then 5 else ch

/-! ## Egress -/

def usedOn (l : List (Nat × Nat)) (ch : Nat) : Nat := (getKey l ch).getD 0

/-- Dedicated permits of a channel (R360). -/
def dedicated (s : State) (port ch : Nat) : Nat := channelMinimum + reservation s port ch

/-- The sender holds permits for all flits of a packet (R360). -/
def hasPermits (s : State) (lp : LinkPort) (p : Packet) : Bool :=
  let ch := p.chan.toNat
  decide (usedOn lp.used ch + flitsOf p ≤ dedicated s lp.num ch + usedOn lp.shared ch)

/-- Flits in the replay buffer: sent and not acknowledged (R355). -/
def unackedFlits (lp : LinkPort) : Nat := (lp.txNext - 1 - lp.acked).toNat

/-- Permits for all flits of a packet, and room in the replay buffer (R355, R360). -/
def canSend (s : State) (lp : LinkPort) (p : Packet) : Bool :=
  lp.up && !lp.disabled && hasPermits s lp p && decide (unackedFlits lp + flitsOf p ≤ 256)

/-- One packet leaves. -/
def sendOn (lp : LinkPort) (p : Packet) : LinkPort :=
  let n := flitsOf p
  let ch := p.chan.toNat
  { lp with
    queue := lp.queue.erase p
    txNext := lp.txNext + BitVec.ofNat 10 n
    replay := lp.replay ++ [(lp.txNext + BitVec.ofNat 10 (n - 1), p)]
    used := putKey lp.used ch (usedOn lp.used ch + n) }

/-- The packet that leads the queue of channels for which `sel` holds. -/
def headWhere (lp : LinkPort) (sel : Nat → Bool) : Option Packet := lp.queue.find? (fun p => sel p.chan.toNat)

/-- The strict-priority choice among channels 0 to 4 (R359). -/
def strictHead (s : State) (lp : LinkPort) : Option Packet :=
  ((List.range 5).filterMap (fun ch => headWhere lp (· == ch))).find? (canSend s lp)

/-- The deficit round robin over channels 5 to 63: the packet to send and the port with its round robin moved. -/
def drrHead (s : State) : Nat → LinkPort → Option Packet × LinkPort
  | 0, lp => (none, lp)
  | n + 1, lp =>
    let cls := lp.rr
    let nxt := if cls ≥ 63 then 5 else if cls == 5 then 8 else cls + 1
    let move := fun (l : LinkPort) =>
      drrHead s n { l with rr := nxt, deficit := putKey l.deficit nxt (usedOn l.deficit nxt + drrWeight s l.num nxt) }
    match headWhere lp (fun ch => decide (ch ≥ 5) && classOf ch == cls) with
    | none => move { lp with deficit := putKey lp.deficit cls 0 }
    | some p =>
      if canSend s lp p && decide (usedOn lp.deficit cls ≥ flitsOf p) then
        (some p, { lp with deficit := putKey lp.deficit cls (usedOn lp.deficit cls - flitsOf p) })
      else move lp

def getPort (s : State) (n : Nat) : Option LinkPort := s.fab.ports.find? (fun p => p.num == n)
def setPort (s : State) (lp : LinkPort) : State :=
  { s with fab := { s.fab with ports := replaceIf (fun p => p.num == lp.num) lp s.fab.ports } }

/-- Everything that can leave a port leaves. -/
def pumpPort (port : Nat) : Nat → State → State
  | 0, s => s
  | n + 1, s =>
    match getPort s port with
    | none => s
    | some lp =>
      if lp.queue.isEmpty then s
      else
        let pick := match strictHead s lp with
          | some p => (some p, lp)
          | none => drrHead s 400 lp
        match pick with
        | (none, _) => s
        | (some p, lp1) =>
          let s1 := setPort s (sendOn lp1 p)
          pumpPort port n (charge { s1 with fab := { s1.fab with egress := s1.fab.egress ++ [(port, p)] } } (tagAsid p.ftag) 5 (flitsOf p))

def pump (s : State) (port : Nat) : State := pumpPort port (((getPort s port).map (fun l => l.queue.length)).getD 0) s

/-- A packet enters a port's queue; on a second hop it takes channel 3 (R357, R363). A packet of a revoked tag is discarded (R367). -/
def enqueue (s : State) (port : Nat) (p : Packet) : State :=
  match (if tagLive s p.ftag then getPort s port else none) with
  | none => s
  | some lp =>
    let ch := if p.rly then 3 else firstChannel s port p
    pump (setPort s { lp with queue := lp.queue ++ [{ p with chan := BitVec.ofNat 6 ch }] }) port

/-! ## Paths (R362 to R365) -/

def portUp (s : State) (n : Nat) : Bool := ((getPort s n).map (fun p => p.up && !p.disabled)).getD false

/-- Ports that face a chip, in increasing number. -/
def portsTo (s : State) (peer : Nat) : List Nat :=
  (List.range 15).filter (fun n => match getPort s n with
    | some p => p.peer == peer && !p.disabled
    | none => false)

/-- The port that a core's stream to a facing chip takes: its direct port, else the other (R365). -/
def directPort (s : State) (core peer : Nat) : Option Nat :=
  let ps := portsTo s peer
  let mine := if core % 2 == 0 then ps.head? else ps.getLast?
  match mine with
  | some p => if portUp s p then some p else ps.find? (portUp s)
  | none => none

/-- The relay of a detour: the lowest chip whose links to both are up (R364). -/
def detourChip (s : State) (peer : Nat) : Option Nat :=
  (List.range 16).find? (fun r => r != peer && r != chipId s && (portsTo s r).any (portUp s) && Config.farLink s.cycle r peer)

/-- Flits queued at the egress toward a chip. -/
def queuedTo (s : State) (core peer : Nat) : Nat :=
  match (directPort s core peer).bind (getPort s) with
  | some lp => (lp.queue.map flitsOf).sum
  | none => 0

/-- The relay of a congested path (R363): the lowest chip with both hops up and fewer queued flits on each than the direct port has,
where that has more than 512. -/
def relayChip (s : State) (core peer : Nat) : Option Nat :=
  let n := queuedTo s core peer
  if n ≤ 512 then none
  else
    (List.range 16).find? (fun r => r != peer && r != chipId s && (directPort s core r).isSome && decide (queuedTo s core r < n)
      && Config.farLink s.cycle r peer && decide (Config.farQueue s.cycle r peer < n))

/-- A port on the way to a chip. -/
def routePort (s : State) (core peer : Nat) : Option Nat :=
  match directPort s core peer with
  | some p => some (((relayChip s core peer).bind (fun r => directPort s core r)).getD p)
  | none => (detourChip s peer).bind (fun r => directPort s core r)

def getStream (c : CoreSt) (peer : Nat) : Stream := (c.streams.find? (fun x => x.peer == peer)).getD { peer := peer }
def setStream (c : CoreSt) (st : Stream) : CoreSt := { c with streams := upsert (fun x => x.peer == st.peer) st c.streams }

/-- Requests of a core's stream that await an answer. -/
def streamOut (c : CoreSt) (peer : Nat) : List Outst := c.outst.filter (fun o => o.peer == peer)

/-- The port of a core's stream now: a stream with packets unacknowledged keeps its port while that is up (R362, R363). -/
def streamPort (s : State) (core peer : Nat) : Option Nat :=
  let c := getCore s core
  match (getStream c peer).port with
  | some p => if !(streamOut c peer).isEmpty && portUp s p then some p else routePort s core peer
  | none => routePort s core peer

/-- A path to the chip exists (R364, R398). -/
def pathTo (s : State) (core peer : Nat) : Bool := (streamPort s core peer).isSome

/-- A packet without stream is sent toward a chip; it is lost where no path exists and nothing holds it. -/
def sendToward (s : State) (core peer : Nat) (p : Packet) : State :=
  match routePort s core peer with
  | some n => enqueue s n p
  | none =>
    match (portsTo s peer).head? with
    | some n => enqueue s n p
    | none => s

/-- A relay passes a packet on to its destination: on its own link, with no further relay (R363). -/
def relayOn (s : State) (core peer : Nat) (p : Packet) : State :=
  match (directPort s core peer).orElse (fun _ => (portsTo s peer).head?) with
  | some n => enqueue s n { p with rly := true }
  | none => s

/-- Packets that stand queued at a port that is down leave on another way where one has appeared (R364, R398). -/
def moveQueue (s : State) (lp : LinkPort) : State :=
  if lp.up then s
  else
    let way := fun (p : Packet) => match (if p.rly then directPort s p.score.toNat p.dchip.toNat else routePort s p.score.toNat p.dchip.toNat) with
      | some n => n != lp.num
      | none => false
    let go := lp.queue.filter way
    if go.isEmpty then s
    else go.foldl (fun st p => if p.rly then relayOn st p.score.toNat p.dchip.toNat p else sendToward st p.score.toNat p.dchip.toNat p)
      (setPort s { lp with queue := lp.queue.filter (fun p => !way p) })

/-! ## Requests (R361, R362) -/

/-- Reply flits reserved by a core, and by the chip. -/
def replyFlits (c : CoreSt) : Nat := (c.outst.map (·.flits)).sum
def chipReplyFlits (s : State) : Nat := (s.cores.map replyFlits).sum

/-- A fabric request as its core makes it; SEQ, the channel and the source are filled when it is sent. -/
def requestPacket (s : State) (asid core peer dcore kind addr : Nat) (win be : Bool) (data : List Byte) : Packet :=
  { ftag := ftagOf s asid, schip := BitVec.ofNat 4 (chipId s), dchip := BitVec.ofNat 4 peer, score := BitVec.ofNat 7 core,
    dcore := BitVec.ofNat 7 dcore, chan := 5, kind := BitVec.ofNat 4 kind, len := BitVec.ofNat 9 data.length, rly := false,
    be := be, seq := 0, win := win, rsv := 0, addr := BitVec.ofNat 52 addr, data := data }

/-- Room for one more request: 2,048 in the stream, 256 reply flits of the core, 32,768 of the chip. -/
def requestRoom (s : State) (core peer flits : Nat) : Bool :=
  let c := getCore s core
  decide ((streamOut c peer).length < 2048)
    && (flits == 0 || (decide (replyFlits c + flits ≤ 256) && decide (chipReplyFlits s + flits ≤ 32768)))

/-- Packets of a stream that have left and are unacknowledged. -/
def streamSent (c : CoreSt) (peer : Nat) : Nat := ((streamOut c peer).filter (·.sent)).length

/-- A request takes the next SEQ of its stream and leaves, or is held while no path exists (R398) or 2,048 packets of the stream
are unacknowledged (R362). -/
def sendNamed (s : State) (id core peer : Nat) (p : Packet) (asker : Asker) (teams : List Nat) (flits : Nat) : State :=
  let c := getCore s core
  let st := getStream c peer
  let q := { p with seq := st.next }
  let way := streamPort s core peer
  let go := way.isSome && decide (streamSent c peer < 2048)
  let o : Outst := { peer := peer, seq := st.next, pkt := q, asker := asker, teams := teams, flits := flits, sent := go, since := s.ns,
                     id := id }
  let s1 := setCore s { setStream c { st with next := st.next + 1, port := way } with outst := c.outst ++ [o] }
  match way with
  | some n => if go then enqueue s1 n q else s1
  | none => s1

/-- The same, under a name that the model has not used. -/
def sendRequest (s : State) (core peer : Nat) (p : Packet) (asker : Asker) (teams : List Nat) (flits : Nat) : State :=
  sendNamed { s with stamp := s.stamp + 1 } s.stamp core peer p asker teams flits

/-- The oldest request that waits for room in its stream leaves. -/
def sendNext (s : State) (core peer : Nat) : State :=
  let c := getCore s core
  match (streamOut c peer).find? (fun o => !o.sent), streamPort s core peer with
  | some o, some n =>
    if streamSent c peer < 2048 then
      enqueue (setCore s { c with outst := replaceIf (fun x => x.peer == peer && !x.sent) { o with sent := true } c.outst }) n o.pkt
    else s
  | _, _ => s

/-- The request that a reply answers, and the state without it (R357). -/
def answered (s : State) (core schip : Nat) (seq : BitVec 12) : Option (Outst × State) :=
  let c := getCore s core
  match c.outst.find? (fun o => o.peer == schip && o.seq == seq && o.sent) with
  | none => none
  | some o => some (o, sendNext (setCore s { c with outst := c.outst.erase o }) core schip)

/-- The reply of a home (R357). -/
def replyPacket (s : State) (q : Packet) (kind : Nat) (data : List Byte) : Packet :=
  { q with schip := BitVec.ofNat 4 (chipId s), score := q.dcore, dchip := q.schip, dcore := q.score, kind := BitVec.ofNat 4 kind,
           len := BitVec.ofNat 9 data.length, rly := false, be := false, win := false, addr := 0, data := data }

def sendReply (s : State) (q : Packet) (kind : Nat) (data : List Byte) : State :=
  sendToward s q.dcore.toNat q.schip.toNat (replyPacket s q kind data)

/-! ## Failure and return of a link -/

/-- Every unacknowledged packet of a stream is sent again on its new port, in order, or held (R362, R364, R365). -/
def resendStream (s : State) (core peer : Nat) : State :=
  let c := getCore s core
  let way := routePort s core peer
  let out := streamOut c peer
  let s1 := setCore s { setStream c { getStream c peer with port := way } with
    outst := c.outst.map (fun o => if o.peer == peer then { o with sent := way.isSome && (out.take 2048).contains o, since := if o.sent then s.ns else o.since } else o) }
  match way with
  | some n => (out.take 2048).foldl (fun st o => enqueue st n o.pkt) s1
  | none => s1

/-- Streams that stand on a port. -/
def streamsOn (s : State) (port : Nat) : List (Nat × Nat) :=
  s.cores.flatMap (fun c => (c.streams.filter (fun x => x.port == some port)).map (fun x => (c.id, x.peer)))

/-- A packet of a core's own unacknowledged requests. -/
def isRequest (s : State) (p : Packet) : Bool :=
  p.schip.toNat == chipId s && (getCore s p.score.toNat).outst.any (fun o => o.pkt.seq == p.seq && o.peer == p.dchip.toNat)
    && (p.kind == 0 || p.kind == 1 || p.kind == 3)

def linkNotice (s : State) (kind port peer : Nat) (detour : Option Nat) : State :=
  postNotice s { kind := kind, data := BitVec.ofNat 64 (port + peer * 16 + detour.getD 15 * 256), chip := chipId s }

/-- A link is declared failed (R355, R364, R365): what it held goes to the other port or the detour. -/
def failLink (s : State) (port : Nat) : State :=
  match getPort s port with
  | none => s
  | some lp =>
    if !lp.up then s
    else
      let moved := (lp.replay.map (·.2) ++ lp.queue).filter (fun p => !isRequest s p)
      let fresh : LinkPort := { num := port, peer := lp.peer, disabled := lp.disabled, pool := lp.pool }
      let on := streamsOn s port
      let s1 := setPort s fresh
      let s2 := on.foldl (fun st x => resendStream st x.1 x.2) s1
      let s3 := moved.foldl (fun st p => if p.rly then relayOn st p.score.toNat p.dchip.toNat p
        else sendToward st p.score.toNat p.dchip.toNat p) s2
      let other := (portsTo s3 lp.peer).any (portUp s3)
      linkNotice s3 4 port lp.peer (if other then none else detourChip s3 lp.peer)

/-- Requests held for want of a path leave when one has appeared (R398). -/
def sendHeld (s : State) : State :=
  s.cores.foldl (fun st c =>
    ((c.outst.filter (fun o => !o.sent)).map (·.peer)).eraseDups.foldl (fun st peer =>
      if (routePort st c.id peer).isSome then resendStream st c.id peer else st) st) s

/-- Requests that wait leave as soon as there is a path and room in their streams (R362, R398). -/
def sendWaiting (s : State) : State :=
  s.cores.foldl (fun st c =>
    (c.outst.filter (fun o => !o.sent)).foldl (fun st o => sendNext st c.id o.peer) st) s

/-! ## Framing (R354, R355, R360) -/

/-- Channels of a port whose leading packet wants permits. -/
def demand (s : State) (lp : LinkPort) : List Nat :=
  (List.range 64).filter (fun ch => (headWhere lp (· == ch)).any (fun p => !hasPermits s lp p))

def sharedLeft (s : State) (lp : LinkPort) : Nat := sharedFlits s lp.num - (lp.granted.map (·.2)).sum

/-- One batch of 8 shared permits for each channel with demand, in turn, while the shared part has 8 free flits. -/
def grantBatches (s : State) : List Nat → LinkPort → List (Nat × Nat) → LinkPort × List (Nat × Nat)
  | [], lp, l => (lp, l)
  | ch :: r, lp, l =>
    if sharedLeft s lp < 8 then ({ lp with want := ch :: r }, l)
    else grantBatches s r { lp with granted := putKey lp.granted ch (usedOn lp.granted ch + 8), turn := ch + 1, want := r } (l ++ [(ch, 8)])

/-- What a port has to tell its peer at the end of a cycle: acknowledgement, returned and granted permits, demand, and a request for
replay. -/
def frameStep (s : State) (lp : LinkPort) : State :=
  if !lp.up || lp.disabled then s
  else
    let order := lp.want.filter (fun ch => decide (lp.turn ≤ ch)) ++ lp.want.filter (fun ch => decide (ch < lp.turn))
    let g := grantBatches s order lp []
    let say : BitVec 10 × List Nat × Bool := (lp.rxNext - 1, demand s lp, lp.askReplay)
    if lp.owed.isEmpty && g.2.isEmpty && say == lp.told then setPort s g.1
    else
      let s1 := setPort s { g.1 with owed := [], told := say }
      { s1 with fab := { s1.fab with framing := s1.fab.framing ++
          [{ port := lp.num, ack := say.1, again := say.2.2, back := lp.owed, grant := g.2, want := say.2.1 }] } }

/-- A link has retrained (R364): it starts afresh and posts its notice. -/
def retrainLink (s : State) (port peer : Nat) : State :=
  match getPort s port with
  | none => s
  | some lp =>
    let s1 := setPort s { num := port, peer := lp.peer, disabled := lp.disabled, pool := lp.pool, queue := lp.queue, up := true }
    linkNotice (pump (sendHeld s1) port) 5 port peer none

end Sys2Proof.Machine
end

