-- ==== Sys2Proof/Machine/Num.lean ====
section
/-! DEFINITION. Number formats and exact arithmetic (R31 to R54): decoding to exact values, one rounding function for every
format and mode, the conversions, the exact sums, and the results with a stated accuracy held to it. -/

namespace Sys2Proof.Machine

open Sys2Proof

/-! ## Formats (R31 to R33) -/

/-- How a format uses its top exponent (R32): as IEEE formats do; E4M3, whose one NaN code per sign is all ones; E2M1,
which has no special code. -/
inductive FKind where
  | ieee | e4m3 | e2m1
  deriving DecidableEq, Repr

/-- A floating-point format: exponent and mantissa widths. -/
structure Fmt where
  ebits : Nat
  mbits : Nat
  bias  : Nat
  kind  : FKind
  deriving DecidableEq, Repr

def fmtF64 : Fmt := { ebits := 11, mbits := 52, bias := 1023, kind := .ieee }
def fmtF32 : Fmt := { ebits := 8, mbits := 23, bias := 127, kind := .ieee }
def fmtF16 : Fmt := { ebits := 5, mbits := 10, bias := 15, kind := .ieee }
def fmtBF16 : Fmt := { ebits := 8, mbits := 7, bias := 127, kind := .ieee }
def fmtE4M3 : Fmt := { ebits := 4, mbits := 3, bias := 7, kind := .e4m3 }
def fmtE5M2 : Fmt := { ebits := 5, mbits := 2, bias := 15, kind := .ieee }
def fmtE2M1 : Fmt := { ebits := 2, mbits := 1, bias := 1, kind := .e2m1 }

/-- Width of a code in bits. -/
def fmtWidth (f : Fmt) : Nat := 1 + f.ebits + f.mbits

/-- The mantissa, implied bit included, and quantum exponent of the largest finite value (R33). -/
def fmtMaxMant (f : Fmt) : Nat :=
  match f.kind with
  | .e4m3 => 2 ^ (f.mbits + 1) - 2
  | _ => 2 ^ (f.mbits + 1) - 1

def fmtMaxQ (f : Fmt) : Int :=
  match f.kind with
  | .ieee => (2 : Int) ^ f.ebits - 2 - f.bias - f.mbits
  | _ => (2 : Int) ^ f.ebits - 1 - f.bias - f.mbits

/-- The code of the largest finite magnitude. -/
def fmtMaxCode (f : Fmt) : Nat :=
  match f.kind with
  | .ieee => (2 ^ f.ebits - 1) * 2 ^ f.mbits - 1
  | .e4m3 => 2 ^ (f.ebits + f.mbits) - 2
  | .e2m1 => 2 ^ (f.ebits + f.mbits) - 1

/-- The sign bit as a code. -/
def signCode (f : Fmt) (neg : Bool) : Nat := if neg then 2 ^ (f.ebits + f.mbits) else 0

/-- The canonical NaN (R35). E2M1 has none; a NaN becomes +0 there (R44). -/
def fmtNan (f : Fmt) : Nat :=
  match f.kind with
  | .ieee => (2 ^ f.ebits - 1) * 2 ^ f.mbits + 2 ^ (f.mbits - 1)
  | .e4m3 => 2 ^ (f.ebits + f.mbits) - 1
  | .e2m1 => 0

/-- An infinity, or what stands for it in a format without one (R38). -/
def fmtInf (f : Fmt) (neg : Bool) : Nat :=
  signCode f neg +
    match f.kind with
    | .ieee => (2 ^ f.ebits - 1) * 2 ^ f.mbits
    | .e4m3 => 2 ^ (f.ebits + f.mbits) - 1
    | .e2m1 => fmtMaxCode f

def fmtMax (f : Fmt) (neg : Bool) : Nat := signCode f neg + fmtMaxCode f

/-! ## Exact values -/

/-- An exact value: NaN, an infinity, or (-1)^neg * m * 2^e; m = 0 is a zero of that sign. -/
inductive Num where
  | nan
  | inf (neg : Bool)
  | fin (neg : Bool) (m : Nat) (e : Int)
  deriving DecidableEq, Repr

/-- A code's value (R32). -/
def decodeNum (f : Fmt) (c : Nat) : Num :=
  let neg := c / 2 ^ (f.ebits + f.mbits) % 2 == 1
  let e := c / 2 ^ f.mbits % 2 ^ f.ebits
  let m := c % 2 ^ f.mbits
  let low : Int := 1 - (f.bias : Int) - f.mbits
  if e == 0 then .fin neg m low
  else if f.kind == .ieee && e == 2 ^ f.ebits - 1 then (if m == 0 then .inf neg else .nan)
  else if f.kind == .e4m3 && e == 2 ^ f.ebits - 1 && m == 2 ^ f.mbits - 1 then .nan
  else .fin neg (2 ^ f.mbits + m) ((e : Int) - f.bias - f.mbits)

def isNanCode (f : Fmt) (c : Nat) : Bool := decodeNum f c == .nan

/-- Bits needed to write n. -/
def bitLen (n : Nat) : Nat := if n == 0 then 0 else Nat.log2 n + 1

/-- n * 2^k, or its floor. -/
def shiftInt (n : Nat) (k : Int) : Nat := if 0 ≤ k then n * 2 ^ k.toNat else n / 2 ^ (-k).toNat

/-- Whether the magnitude lo + rem / 2^k rounds up to lo + 1 (R37, R39); `odd` is the parity of the lower code. -/
def roundsUp (mode r : Nat) (neg odd : Bool) (rem k : Nat) : Bool :=
  match mode with
  | 0 => rem * 2 > 2 ^ k || (rem * 2 == 2 ^ k && odd)
  | 1 => false
  | 2 => neg && rem != 0
  | 3 => !neg && rem != 0
  | _ => rem * 2 ^ 16 / 2 ^ k + r ≥ 2 ^ 16

/-- The magnitude m * 2^e rounded to a multiple of 2^q under a mode. -/
def roundAt (mode r : Nat) (neg : Bool) (m : Nat) (e q : Int) : Nat :=
  if q ≤ e then m * 2 ^ (e - q).toNat
  else
    let k := (q - e).toNat
    let lo := m / 2 ^ k
    if roundsUp mode r neg (lo % 2 == 1) (m % 2 ^ k) k then lo + 1 else lo

/-- The overflow result (R38). -/
def overflowCode (f : Fmt) (mode : Nat) (sat neg : Bool) : Nat :=
  let toInf := mode == 0 || mode == 4 || (mode == 2 && neg) || (mode == 3 && !neg)
  if toInf && !sat then fmtInf f neg else fmtMax f neg

/-- The code of an exact finite value rounded once to a format (R37 to R39), with .sat as R38 has it. -/
def roundFin (f : Fmt) (mode r : Nat) (sat neg : Bool) (m : Nat) (e : Int) : Nat :=
  if m == 0 then signCode f neg
  else
    let emin : Int := 1 - (f.bias : Int)
    let top : Int := e + (Nat.log2 m : Int)
    let q := max top emin - f.mbits
    let n := roundAt mode r neg m e q
    let full := 2 ^ (f.mbits + 1)
    let n' := if n == full then n / 2 else n
    let q' := if n == full then q + 1 else q
    if q' > fmtMaxQ f || (q' == fmtMaxQ f && n' > fmtMaxMant f) then overflowCode f mode sat neg
    else if n' < 2 ^ f.mbits then signCode f neg + n'
    else signCode f neg + (q' + f.mbits + f.bias).toNat * 2 ^ f.mbits + (n' - 2 ^ f.mbits)

/-- The code of an exact value: a NaN becomes canonical, an infinity is itself or, under `sat`, the largest finite value
(R121, R35). -/
def roundNum (f : Fmt) (mode r : Nat) (sat : Bool) (x : Num) : Nat :=
  match x with
  | .nan => fmtNan f
  | .inf neg => if sat then fmtMax f neg else fmtInf f neg
  | .fin neg m e => roundFin f mode r sat neg m e

/-! ## Exact operations (R37, R51) -/

def negNum (x : Num) : Num :=
  match x with
  | .nan => .nan
  | .inf n => .inf (!n)
  | .fin n m e => .fin (!n) m e

/-- Signed mantissa at exponent q, for q at most e. -/
def atExp (neg : Bool) (m : Nat) (e q : Int) : Int :=
  let v : Int := (m * 2 ^ (e - q).toNat : Nat)
  if neg then -v else v

/-- The exact sum; a zero takes its sign from R37. -/
def addNum (mode : Nat) (x y : Num) : Num :=
  match x, y with
  | .nan, _ => .nan
  | _, .nan => .nan
  | .inf a, .inf b => if a == b then .inf a else .nan
  | .inf a, _ => .inf a
  | _, .inf b => .inf b
  | .fin n1 m1 e1, .fin n2 m2 e2 =>
    let q := min e1 e2
    let s := atExp n1 m1 e1 q + atExp n2 m2 e2 q
    if s == 0 then .fin (if n1 == n2 && m1 == 0 && m2 == 0 then n1 else mode == 2) 0 q
    else .fin (s < 0) s.natAbs q

/-- The exact product. -/
def mulNum (x y : Num) : Num :=
  match x, y with
  | .nan, _ => .nan
  | _, .nan => .nan
  | .inf a, .inf b => .inf (a != b)
  | .inf a, .fin b m _ => if m == 0 then .nan else .inf (a != b)
  | .fin a m _, .inf b => if m == 0 then .nan else .inf (a != b)
  | .fin a m1 e1, .fin b m2 e2 => .fin (a != b) (m1 * m2) (e1 + e2)

/-- A quotient to 80 bits with a sticky bit below: enough to round it once to any format (R126). -/
def divNum (x y : Num) : Num :=
  match x, y with
  | .nan, _ => .nan
  | _, .nan => .nan
  | .inf _, .inf _ => .nan
  | .inf a, .fin b _ _ => .inf (a != b)
  | .fin a _ _, .inf b => .fin (a != b) 0 0
  | .fin a m1 e1, .fin b m2 e2 =>
    if m2 == 0 then (if m1 == 0 then .nan else .inf (a != b))
    else
      let k := 80 + bitLen m2
      let n := m1 * 2 ^ k
      .fin (a != b) (2 * (n / m2) + (if n % m2 == 0 then 0 else 1)) (e1 - e2 - k - 1)

/-- The floor of a square root, bit by bit from 2^i down. -/
def isqrt (v : Nat) : Nat → Nat → Nat
  | 0, r => if (r + 1) * (r + 1) ≤ v then r + 1 else r
  | i + 1, r => isqrt v i (if (r + 2 ^ (i + 1)) * (r + 2 ^ (i + 1)) ≤ v then r + 2 ^ (i + 1) else r)

def natSqrt (v : Nat) : Nat := isqrt v ((bitLen v + 1) / 2) 0

/-- A square root with a sticky bit (R126, R128). -/
def sqrtNum (x : Num) : Num :=
  match x with
  | .nan => .nan
  | .inf n => if n then .nan else .inf false
  | .fin n m e =>
    if m == 0 then .fin n 0 0
    else if n then .nan
    else
      let odd := e % 2 != 0
      let m' := if odd then 2 * m else m
      let e' := if odd then e - 1 else e
      let v := m' * 2 ^ 160
      let s := natSqrt v
      .fin false (2 * s + (if s * s == v then 0 else 1)) (e' / 2 - 81)

/-- Comparison of exact finite values or infinities, as a sign: -1, 0 or 1. Zeros are equal. -/
def cmpNum (x y : Num) : Int :=
  match x, y with
  | .inf a, .inf b => if a == b then 0 else if a then -1 else 1
  | .inf a, _ => if a then -1 else 1
  | _, .inf b => if b then 1 else -1
  | .fin n1 m1 e1, .fin n2 m2 e2 =>
    let q := min e1 e2
    let d := atExp n1 m1 e1 q - atExp n2 m2 e2 q
    if d < 0 then -1 else if d == 0 then 0 else 1
  | _, _ => 0

/-- An exact value rounded to an integer (R46, R53). -/
def roundToInt (mode r : Nat) (neg : Bool) (m : Nat) (e : Int) : Int :=
  let v : Int := (roundAt mode r neg m e 0 : Nat)
  if neg then -v else v

def clampInt (lo hi z : Int) : Int := if z < lo then lo else if z > hi then hi else z

/-! ## Element operations (R122 to R125) -/

/-- Sign flipped when asked: a sign-bit operation (R120). -/
def flipSign (f : Fmt) (neg : Bool) (c : Nat) : Nat :=
  if neg then c ^^^ 2 ^ (f.ebits + f.mbits) else c

def addElem (f : Fmt) (mode r : Nat) (sat : Bool) (a b : Nat) : Nat :=
  roundNum f mode r sat (addNum mode (decodeNum f a) (decodeNum f b))

def mulElem (f : Fmt) (mode r : Nat) (sat : Bool) (a b : Nat) : Nat :=
  roundNum f mode r sat (mulNum (decodeNum f a) (decodeNum f b))

def fmaElem (f : Fmt) (mode r : Nat) (sat : Bool) (a b c : Nat) : Nat :=
  roundNum f mode r sat (addNum mode (mulNum (decodeNum f a) (decodeNum f b)) (decodeNum f c))

def divElem (f : Fmt) (mode : Nat) (sat : Bool) (a b : Nat) : Nat :=
  roundNum f mode 0 sat (divNum (decodeNum f a) (decodeNum f b))

def sqrtElem (f : Fmt) (mode : Nat) (a : Nat) : Nat := roundNum f mode 0 false (sqrtNum (decodeNum f a))

/-- Minimum or maximum, bit for bit, −0 below +0 (R124). -/
def minmaxElem (f : Fmt) (isMax : Bool) (a b : Nat) : Nat :=
  let x := decodeNum f a
  let y := decodeNum f b
  match x, y with
  | .nan, .nan => fmtNan f
  | .nan, _ => b
  | _, .nan => a
  | _, _ =>
    let c := cmpNum x y
    let below := c < 0 || (c == 0 && a / 2 ^ (f.ebits + f.mbits) % 2 == 1)
    if isMax then (if below then b else a) else (if below then a else b)

/-- A floating comparison by code (R125). -/
def compareElem (f : Fmt) (code a b : Nat) : Bool :=
  let x := decodeNum f a
  let y := decodeNum f b
  let nan := x == .nan || y == .nan
  let c := cmpNum x y
  match code with
  | 0 => !nan && c == 0
  | 1 => nan || c != 0
  | 2 => !nan && c < 0
  | 3 => !nan && c ≤ 0
  | 4 => !nan && c > 0
  | 5 => !nan && c ≥ 0
  | 6 => !nan
  | _ => nan

/-- Rounding to an integral value of the same format (R129). -/
def integralElem (f : Fmt) (mode a : Nat) : Nat :=
  match decodeNum f a with
  | .nan => fmtNan f
  | .inf _ => a
  | .fin neg m e => if m == 0 then a else roundFin f 0 0 false neg (roundAt mode 0 neg m e 0) 0

/-- a − ⌊a⌋ of an F32 (R129). -/
def fractionElem (a : Nat) : Nat :=
  match decodeNum fmtF32 a with
  | .nan => fmtNan fmtF32
  | .inf _ => fmtNan fmtF32
  | .fin neg m e =>
    let fl : Int := roundToInt 2 0 neg m e
    let d := addNum 0 (.fin neg m e) (.fin (0 < fl) fl.natAbs 0)
    let c := match d with
      | .fin _ 0 _ => 0
      | _ => roundNum fmtF32 0 0 false d
    if c == 0x3F800000 then 0x3F7FFFFF else c

/-- The class mask of R130. -/
def classMask (a : Nat) : Nat :=
  let neg := a / 2 ^ 31 % 2 == 1
  let e := a / 2 ^ 23 % 256
  let m := a % 2 ^ 23
  if e == 255 then (if m == 0 then (if neg then 2 ^ 2 else 2 ^ 9) else if m < 2 ^ 22 then 1 else 2)
  else if e == 0 then (if m == 0 then (if neg then 2 ^ 5 else 2 ^ 6) else if neg then 2 ^ 4 else 2 ^ 7)
  else if neg then 2 ^ 3 else 2 ^ 8

/-- a * 2^n + c, rounded once (R131); c is absent in the two-operand forms. -/
def scaleElem (mode r : Nat) (sat : Bool) (a : Nat) (n : Int) (c : Option Nat) : Nat :=
  let x := match decodeNum fmtF32 a with
    | .fin neg m e => Num.fin neg m (e + n)
    | v => v
  match c with
  | none => roundNum fmtF32 mode r sat x
  | some c => roundNum fmtF32 mode r sat (addNum mode x (decodeNum fmtF32 c))

/-! ## Conversions (R42 to R46) -/

/-- A NaN carried between formats (R44). -/
def convertNan (s d : Fmt) (c : Nat) : Nat :=
  let neg := c / 2 ^ (s.ebits + s.mbits) % 2 == 1
  let m := c % 2 ^ s.mbits
  match d.kind with
  | .e2m1 => 0
  | .e4m3 => signCode d neg + fmtNan d
  | .ieee =>
    let top := signCode d neg + (2 ^ d.ebits - 1) * 2 ^ d.mbits
    if s.kind == .e4m3 then top + (if d.mbits == 2 then 3 else 7 * 2 ^ (d.mbits - 3))
    else
      let m' := if s.mbits ≤ d.mbits then m * 2 ^ (d.mbits - s.mbits) else m / 2 ^ (s.mbits - d.mbits)
      top + (if m' == 0 then 1 else m')

/-- Float to float, one rounding (R42, R44). -/
def convertFloat (s d : Fmt) (mode r : Nat) (sat : Bool) (c : Nat) : Nat :=
  match decodeNum s c with
  | .nan => convertNan s d c
  | v => roundNum d mode r sat v

/-- The value of an E8M0 code (R32). -/
def decodeE8M0 (c : Nat) : Num := if c == 255 then .nan else .fin false 1 ((c : Int) - 127)

/-- E8M0 to a float: the NaN becomes canonical (R44). -/
def fromE8M0 (d : Fmt) (c : Nat) : Nat := roundNum d 0 0 false (decodeE8M0 c)

/-- Float to E8M0 (R45). -/
def toE8M0 (s : Fmt) (mode r : Nat) (sat : Bool) (c : Nat) : Nat :=
  match decodeNum s c with
  | .nan => 255
  | .inf neg => if neg then (if sat then 0 else 255) else (if sat then 254 else 255)
  | .fin neg m e =>
    if neg || m == 0 then (if sat then 0 else 255)
    else
      let len := Nat.log2 m
      let n : Int := e + len
      let code : Int := n + 127
      let rem := m - 2 ^ len
      let up := roundsUp mode r false (code % 2 != 0) rem len
      let code' := if up then code + 1 else code
      if code' < 0 then 0
      else if code' > 254 then (if sat then 254 else 255)
      else code'.toNat

/-- Bounds of an integer type. -/
def intMin (w : Nat) (signed : Bool) : Int := if signed then -((2 : Int) ^ (w - 1)) else 0
def intMax (w : Nat) (signed : Bool) : Int := if signed then (2 : Int) ^ (w - 1) - 1 else (2 : Int) ^ w - 1

/-- Float to integer: rounds, then saturates; NaN gives 0 (R46). -/
def floatToInt (s : Fmt) (mode r w : Nat) (signed : Bool) (c : Nat) : Int :=
  match decodeNum s c with
  | .nan => 0
  | .inf neg => if neg then intMin w signed else intMax w signed
  | .fin neg m e => clampInt (intMin w signed) (intMax w signed) (roundToInt mode r neg m e)

/-- Integer to float (R42, R46); a zero is +0. -/
def intToFloat (d : Fmt) (mode r : Nat) (sat : Bool) (z : Int) : Nat := roundFin d mode r sat (z < 0) z.natAbs 0

/-- Integer to narrower or wider integer (R46). -/
def intToInt (w : Nat) (signed sat : Bool) (z : Int) : Int :=
  if sat then clampInt (intMin w signed) (intMax w signed) z
  else if signed then toSigned w (wrapTo w z) else (wrapTo w z : Nat)

/-! ## Quantised values (R53) -/

def quantise (mode r : Nat) (a : Nat) (e : Int) : Int :=
  match decodeNum fmtF32 a with
  | .nan => 0
  | .inf neg => if neg then intMin 64 true else intMax 64 true
  | .fin neg m x => clampInt (intMin 64 true) (intMax 64 true) (roundToInt mode r neg m (x + 23 - e))

def dequantise (mode r : Nat) (sat : Bool) (q : Int) (e : Int) : Nat :=
  roundFin fmtF32 mode r sat (q < 0) q.natAbs (e - 23)

/-- The block exponent of an F32 value; none for a NaN or infinity (R53, R54). -/
def blockExp (a : Nat) : Option Int :=
  match decodeNum fmtF32 a with
  | .fin _ m e => if m == 0 then some (-126) else some (max (e + (Nat.log2 m : Int)) (-126))
  | _ => none

/-! ## Exact sums (R49 to R51) -/

/-- The exact sum of terms under R51: a zero sum is −0 only when every term is −0. -/
def sumExact (xs : List Num) : Num :=
  if xs.any (· == .nan) then .nan
  else
    let pos := xs.any (· == .inf false)
    let neg := xs.any (· == .inf true)
    if pos && neg then .nan
    else if pos then .inf false
    else if neg then .inf true
    else
      let s := xs.foldl (addNum 0) (.fin false 0 0)
      match s with
      | .fin _ 0 e => .fin (xs.all (fun x => match x with | .fin n m _ => n && m == 0 | _ => false) && !xs.isEmpty) 0 e
      | v => v

/-- A scale applied to an element's value, exactly (R48). -/
def scaleNum (s x : Num) : Num := mulNum s x

/-- The value of a scale code: E8M0, or E4M3, whose negative codes other than −0 count as NaN (R48). -/
def scaleE8 (c : Nat) : Num := decodeE8M0 c
def scaleE4M3 (c : Nat) : Num :=
  match decodeNum fmtE4M3 c with
  | .fin true 0 e => .fin false 0 e
  | .fin true _ _ => .nan
  | v => v

/-- The lanes of a packed register (R34): n elements of w bits, element 0 lowest. -/
def elements (w : Nat) : Nat → Nat → List Nat
  | 0, _ => []
  | n + 1, v => v % 2 ^ w :: elements w n (v / 2 ^ w)

def packElements (w : Nat) : List Nat → Nat
  | [] => 0
  | x :: r => x % 2 ^ w + 2 ^ w * packElements w r

/-! ## The generator (R138) -/

def philoxStep (k0 k1 : W32) (x : W32 × W32 × W32 × W32) : W32 × W32 × W32 × W32 :=
  let p := 0xD2511F53 * x.1.toNat
  let q := 0xCD9E8D57 * x.2.2.1.toNat
  (BitVec.ofNat 32 (q / 2 ^ 32) ^^^ x.2.1 ^^^ k0, BitVec.ofNat 32 q,
   BitVec.ofNat 32 (p / 2 ^ 32) ^^^ x.2.2.2 ^^^ k1, BitVec.ofNat 32 p)

def philoxRounds : Nat → W32 → W32 → (W32 × W32 × W32 × W32) → W32 × W32 × W32 × W32
  | 0, _, _, x => x
  | n + 1, k0, k1, x => philoxRounds n (k0 + 0x9E3779B9) (k1 + 0xBB67AE85) (philoxStep k0 k1 x)

/-- philox4x32_10(key, counter) (R138). -/
def philox (k0 k1 : W32) (x : W32 × W32 × W32 × W32) : W32 × W32 × W32 × W32 := philoxRounds 10 k0 k1 x

/-- Half-word h of four generator words, bits [15:0] of word 0 first. -/
def halfWord (w : W32 × W32 × W32 × W32) (h : Nat) : Nat :=
  let v := match h / 2 with
    | 0 => w.1
    | 1 => w.2.1
    | 2 => w.2.2.1
    | _ => w.2.2.2
  v.toNat / (if h % 2 == 0 then 1 else 2 ^ 16) % 2 ^ 16

/-- The random bits of result element e under sr.seed (R40). -/
def seedBits (seed : W64) (e : Nat) : Nat := halfWord (philox (lo32 seed) (hi32 seed) (0, 0, 0, 0x52530001)) e

/-- The random bits of output element i under an operation's seed (R41). -/
def blockBits (seed : W64) (i : Nat) : Nat :=
  halfWord (philox (lo32 seed) (hi32 seed)
    (BitVec.ofNat 32 (i / 8), BitVec.ofNat 32 (i / 8 / 2 ^ 32), 0, 0x52530002)) (i % 8)

/-! ## Results of stated accuracy (R126 to R128, R140)

A fixed-point value is a Nat or Int in units of 2^-P. Each function below brackets the exact result between two values, no
further apart than 2^-100 of the tolerance, and on the same side of the values at which a bound can be met with equality. The free
pick stands when it lies within the spec's bound of both, and so of the exact result; the correctly rounded value stands in its
place otherwise. -/

def fixP : Nat := 128

/-- 2^fixP * ln 2, and 2^400 / (2 pi), and 2^fixP * 2 pi, each rounded down. -/
def fixLn2 : Nat := 0xb17217f7d1cf79abc9e3b39803f2f6af
def fixInvTwoPi : Nat := 0x28be60db9391054a7f09d5f47d4d377036d8a5664f10e4107f9458eaf7aef1586dc91b8e909374b801924bba827464873f87
def fixTwoPi : Nat := 0x6487ed5110b4611a62633145c06e0e689

/-- Taylor sum of exp in fixed point: n terms, `t` the current term, k its index. -/
def expSeries (x : Nat) : Nat → Nat → Nat → Nat
  | 0, _, t => t
  | n + 1, k, t => t + expSeries x n (k + 1) (t * x / 2 ^ fixP / (k + 1))

/-- 2^f for f in [0, 1), in fixed point. -/
def fixExp2 (f : Nat) : Nat := expSeries (f * fixLn2 / 2 ^ fixP) 40 0 (2 ^ fixP)

/-- Sum of z^(2k+1) / (2k+1). -/
def atanhSeries (z2 : Nat) : Nat → Nat → Nat → Nat
  | 0, _, _ => 0
  | n + 1, k, t => t / (2 * k + 1) + atanhSeries z2 n (k + 1) (t * z2 / 2 ^ fixP)

/-- ln of a value in [1, 2) given in fixed point. -/
def fixLn (m : Nat) : Nat :=
  let z := (m - 2 ^ fixP) * 2 ^ fixP / (m + 2 ^ fixP)
  2 * atanhSeries (z * z / 2 ^ fixP) 45 0 z

/-- Alternating series of sine or cosine: `t` the current term, k its power. -/
def trigSeries (x2 : Nat) : Nat → Nat → Nat → Int
  | 0, _, _ => 0
  | n + 1, k, t => (t : Int) - trigSeries x2 n (k + 2) (t * x2 / 2 ^ fixP / ((k + 1) * (k + 2)))

/-- sin and cos of 2 pi t for t in [0, 1), in fixed point. -/
def fixSin (t : Nat) : Int :=
  let x := t * fixTwoPi / 2 ^ fixP
  trigSeries (x * x / 2 ^ fixP) 32 1 x
def fixCos (t : Nat) : Int :=
  let x := t * fixTwoPi / 2 ^ fixP
  trigSeries (x * x / 2 ^ fixP) 32 0 (2 ^ fixP)

/-- The fraction of a turn of m * 2^e radians, in fixed point: an exact reduction to 2^-fixP for every F32. -/
def turnOf (neg : Bool) (m : Nat) (e : Int) : Nat :=
  let t := shiftInt (m * fixInvTwoPi) (e - 400 + fixP) % 2 ^ fixP
  if neg then (2 ^ fixP - t) % 2 ^ fixP else t

/-- One ulp of an F32 value (R126), as an exponent. -/
def ulpExp (m : Nat) (e : Int) : Int := if m == 0 then -149 else max (e + (Nat.log2 m : Int)) (-126) - 23

/-- A finite value is within tm * 2^te of another. -/
def within (x y : Num) (tm : Nat) (te : Int) : Bool :=
  match addNum 0 x (negNum y) with
  | .fin _ dm de => decide (cmpNum (.fin false dm de) (.fin false tm te) ≤ 0)
  | _ => false

/-- The pick when it is within tm * 2^te of both ends of the bracket, or the lower end rounded RNE. -/
def nearPick (pick : W32) (lo hi : Num) (tm : Nat) (te : Int) : W32 :=
  let x := decodeNum fmtF32 pick.toNat
  if within x lo tm te && within x hi tm te then pick else BitVec.ofNat 32 (roundNum fmtF32 0 0 false lo)

/-- A signed integer in units of 2^e. -/
def fixNum (z e : Int) : Num := .fin (z < 0) z.natAbs e

/-- A bracket in fixed point, with tolerance the larger of `ulps` ulp and 2^absE. -/
def nearFix (pick : W32) (lo hi : Int) (e : Int) (ulps : Nat) (absE : Option Int) : W32 :=
  let u := ulpExp (min lo.natAbs hi.natAbs) e
  let p := nearPick pick (fixNum lo e) (fixNum hi e)
  match absE with
  | none => p ulps u
  | some a => if cmpNum (.fin false ulps u) (.fin false 1 a) < 0 then p 1 a else p ulps u

def canonF32 : W32 := 0x7FC00000

/-- 1 / √a within 1 ulp (R126, R128): the integer root r of 2^200 / m' brackets it by r and r + 1, and is exact where it is. -/
def frsqElem (a : W32) : W32 :=
  match decodeNum fmtF32 a.toNat with
  | .nan => canonF32
  | .inf neg => if neg then canonF32 else 0
  | .fin neg m e =>
    if m == 0 then (if neg then 0xFF800000 else 0x7F800000)
    else if neg then canonF32
    else
      let m' := if e % 2 == 0 then m else 2 * m
      let e' := if e % 2 == 0 then e else e - 1
      let r := natSqrt (2 ^ 200 / m')
      let x := -100 - e' / 2
      let hi := if r * r * m' == 2 ^ 200 then r else r + 1
      nearPick (Config.frsqPick a) (.fin false r x) (.fin false hi x) 1 (ulpExp r x)

/-- 2^a within 2 ulp; exact for an integer a whose power is representable (R126 to R128). -/
def fex2Elem (a : W32) : W32 :=
  match decodeNum fmtF32 a.toNat with
  | .nan => canonF32
  | .inf neg => if neg then 0 else 0x7F800000
  | .fin neg m e =>
    let n := roundToInt 2 0 neg m e
    let pick := Config.fex2Pick a
    if n > 127 then 0x7F800000
    else if n < -200 then nearPick pick (.fin false 0 0) (.fin false 1 (-200)) 2 (-149)
    else
      let whole := atExp neg m e (min e 0) - n * 2 ^ (0 - min e 0).toNat
      if whole == 0 then
        (if n ≥ -149 then BitVec.ofNat 32 (roundFin fmtF32 0 0 false false 1 n)
         else nearPick pick (.fin false 1 n) (.fin false 1 n) 2 (-149))
      else
        let y := fixExp2 (shiftInt whole.natAbs (min e 0 + fixP))
        nearPick pick (.fin false y (n - fixP)) (.fin false (min (y + 256) (2 ^ (fixP + 1))) (n - fixP)) 2 (ulpExp y (n - fixP))

/-- log2 a within 2 ulp, or 2^-22 in [0.5, 2]; exact for a power of two (R126 to R128). -/
def flg2Elem (a : W32) : W32 :=
  match decodeNum fmtF32 a.toNat with
  | .nan => canonF32
  | .inf neg => if neg then canonF32 else 0x7F800000
  | .fin neg m e =>
    if m == 0 then 0xFF800000
    else if neg then canonF32
    else
      let l := Nat.log2 m
      let n : Int := e + l
      if m == 2 ^ l then BitVec.ofNat 32 (intToFloat fmtF32 0 0 false n)
      else
        let frac := fixLn (m * 2 ^ fixP / 2 ^ l) * 2 ^ fixP / fixLn2
        let z : Int := n * 2 ^ fixP + frac
        nearFix (Config.flg2Pick a) (z - 4) (z + 1024) (-fixP) 2 (if n == -1 || n == 0 then some (-22) else none)

/-- The bracket of a sine or cosine that is not 0 or ±1 exactly, by its fixed-point value. -/
def nearTrig (pick : W32) (z : Int) : W32 :=
  let one : Int := 2 ^ fixP
  nearFix pick (max (z - 4096) (-one)) (min (z + 4096) one) (-fixP) 2 (some (-22))

/-- sin a or cos a within 2 ulp or 2^-22 (R126 to R128). A small a lies between its sine and that and a part in 2^80. -/
def fsinElem (a : W32) : W32 :=
  match decodeNum fmtF32 a.toNat with
  | .fin neg m e =>
    if m == 0 then a
    else if e + (Nat.log2 m : Int) < -40 then
      nearPick (Config.fsinPick a) (.fin neg (m * (2 ^ 80 - 1)) (e - 80)) (.fin neg m e) 1 (-22)
    else nearTrig (Config.fsinPick a) (fixSin (turnOf neg m e))
  | _ => canonF32
def fcosElem (a : W32) : W32 :=
  match decodeNum fmtF32 a.toNat with
  | .fin neg m e => if m == 0 then 0x3F800000 else nearTrig (Config.fcosPick a) (fixCos (turnOf neg m e))
  | _ => canonF32

/-- The uniform values of `rngf` (R140), in units of 2^-24. -/
def unit24 (w : W32) : Nat := w.toNat / 256

/-- A magnitude of at most √(48 ln 2) (R140): its square, m * m * 2^(2e), against 48 ln 2. -/
def nrmWithin (v : W32) : Bool :=
  match decodeNum fmtF32 v.toNat with
  | .fin _ m e => decide (cmpNum (.fin false (m * m) (2 * e)) (.fin false (48 * fixLn2) (-fixP)) ≤ 0)
  | _ => false

/-- √(−2 ln u1) × cos(2π u2) within 4 ulp or 2^-21, and never above √(48 ln 2) (R140): exactly 0 for u1 = 1 and where the cosine is 0. -/
def nrmElem (a b : W32) : W32 :=
  let u1 := unit24 a + 1
  let u2 := unit24 b
  let l := Nat.log2 u1
  let lnU := fixLn (u1 * 2 ^ fixP / 2 ^ l) + l * fixLn2
  let neglog := 24 * fixLn2 - lnU
  let root := natSqrt (2 * neglog * 2 ^ fixP)
  let z := (root : Int) * fixCos (u2 * 2 ^ (fixP - 24)) / 2 ^ fixP
  let zero := u1 == 2 ^ 24 || u2 == 2 ^ 22 || u2 == 3 * 2 ^ 22
  let lo := if zero then 0 else z - 2 ^ 24
  let hi := if zero then 0 else z + 2 ^ 24
  let r := nearFix (Config.nrmPick a b) lo hi (-fixP) 4 (some (-21))
  if nrmWithin r then r else BitVec.ofNat 32 (roundNum fmtF32 1 0 false (fixNum z (-fixP)))

end Sys2Proof.Machine
end

