-- ==== Sys2Proof/Machine/Atomic.lean ====
section
/-! DEFINITION. Read-modify-writes at a home (R152, R157 to R161, R165, R166) as functions of the old bytes, and their layout in
an AT packet's payload (log 18). -/

namespace Sys2Proof.Machine

open Sys2Proof

/-- An indivisible operation at a home. -/
inductive HomeOp where
  | atom (sub b : Nat)
  | cas (wide : Bool) (c n : Nat)
  | fatom (sub b : Nat)
  | stn4 (high : Bool) (v : Nat)
  | swarm (n : Nat) (auto : Bool)
  | swadd (n : Nat)
  | swread
  | mflip
  deriving DecidableEq, Repr

/-! ## Integer atomics (R158) -/

/-- Operand size of an `atom` SUB in bytes. -/
def atomSize (sub : Nat) : Nat := if sub % 4 ≥ 2 then 8 else 4

/-- The new value of an `atom`. -/
def atomNew (sub old b : Nat) : Nat :=
  let w := 8 * atomSize sub
  let signed := sub % 2 == 0
  let le := if signed then decide (toSigned w old ≤ toSigned w b) else decide (old ≤ b)
  match sub / 4 with
  | 0 => (old + b) % 2 ^ w
  | 1 => if le then old else b
  | 2 => if le then b else old
  | 3 => old &&& b
  | 4 => old ||| b
  | 5 => old ^^^ b
  | 6 => b
  | 7 => if old ≥ b then 0 else old + 1
  | _ => if old == 0 || decide (old > b) then b else old - 1

/-! ## Floating-point atomics (R161) -/

/-- Operand size, element format and element count of a `fatom` SUB. -/
def fatomSize (sub : Nat) : Nat := if sub % 4 == 1 then 8 else 4
def fatomFmt (sub : Nat) : Fmt :=
  match sub % 4 with
  | 0 => fmtF32
  | 1 => fmtF64
  | 2 => fmtF16
  | _ => fmtBF16
def fatomCount (sub : Nat) : Nat := if sub % 4 ≥ 2 then 2 else 1

/-- The new value of a `fatom`. -/
def fatomNew (sub old b : Nat) : Nat :=
  let f := fatomFmt sub
  let xs := elements (fmtWidth f) (fatomCount sub) old
  let ys := elements (fmtWidth f) (fatomCount sub) b
  packElements (fmtWidth f) ((xs.zip ys).map (fun p =>
    match sub / 4 with
    | 0 => addElem f 0 0 false p.1 p.2
    | 1 => minmaxElem f false p.1 p.2
    | _ => minmaxElem f true p.1 p.2))

/-! ## Sync words (R165, R166) -/

/-- A sync word's fields. -/
structure SyncWord where
  tgt : Nat
  cnt : Nat
  gen : Nat
  arm : Bool
  auto : Bool
  ovr : Bool
  deriving DecidableEq, Repr

def syncOf (n : Nat) : SyncWord :=
  { tgt := bitsAt n 31 0, cnt := bitsAt n 63 32, gen := bitsAt n 95 64, arm := bitsAt n 96 96 == 1, auto := bitsAt n 97 97 == 1,
    ovr := bitsAt n 98 98 == 1 }

def syncNat (w : SyncWord) : Nat :=
  w.tgt + w.cnt * 2 ^ 32 + w.gen * 2 ^ 64 + w.arm.toNat * 2 ^ 96 + w.auto.toNat * 2 ^ 97 + w.ovr.toNat * 2 ^ 98

/-- complete() of R166. -/
def syncComplete (w : SyncWord) : SyncWord := { w with gen := (w.gen + 1) % 2 ^ 32, cnt := 0, arm := w.auto }

def syncArm (w : SyncWord) (n : Nat) (auto : Bool) : SyncWord :=
  let w1 := { w with tgt := n, cnt := 0, ovr := false, auto := auto, arm := true }
  if n == 0 then syncComplete w1 else w1

def syncAdd (w : SyncWord) (b : Nat) : SyncWord :=
  if !w.arm then { w with cnt := min (w.cnt + b) (2 ^ 32 - 1), ovr := true }
  else
    let c := w.cnt + b
    if c ≥ w.tgt then syncComplete { w with cnt := c, ovr := w.ovr || decide (c > w.tgt) } else { w with cnt := c }

/-! ## All of them -/

/-- Bytes that an operation reads and writes. -/
def homeOpSize (op : HomeOp) : Nat :=
  match op with
  | .atom sub _ => atomSize sub
  | .cas wide _ _ => if wide then 8 else 4
  | .fatom sub _ => fatomSize sub
  | .stn4 _ _ => 1
  | .swarm _ _ => 16
  | .swadd _ => 16
  | .swread => 16
  | .mflip => 0

/-- The bytes that an operation leaves; none where it writes nothing. -/
def homeOpNew (op : HomeOp) (old : Nat) : Option Nat :=
  match op with
  | .atom sub b => some (atomNew sub old b)
  | .cas _ c n => if old == c then some n else none
  | .fatom sub b => some (fatomNew sub old b)
  | .stn4 high v => some (if high then old % 16 + v % 16 * 16 else old / 16 * 16 + v % 16)
  | .swarm n auto => some (syncNat (syncArm (syncOf old) n auto))
  | .swadd n => some (syncNat (syncAdd (syncOf old) n))
  | .swread => none
  | .mflip => none

/-- A write of a release sequence, which keeps the carried set (R259). -/
def keepsSet (op : HomeOp) : Bool :=
  match op with
  | .swarm _ _ => false
  | _ => true

/-- The operation on bytes of this chip: the old value and the state with the new one. -/
def applyHome (s : State) (asid key : Nat) (op : HomeOp) : Nat × State :=
  let n := homeOpSize op
  let old := bytesNat (readKey s key n)
  match homeOpNew op old with
  | some v => (old, homeWrite s asid key (natBytes n v))
  | none => (old, chargeLines s asid key n)

/-! ## AT payloads -/

def opCode (op : HomeOp) : Nat :=
  match op with
  | .atom .. => 0
  | .cas .. => 1
  | .fatom .. => 2
  | .stn4 .. => 3
  | .swarm .. => 4
  | .swadd _ => 5
  | .swread => 6
  | .mflip => 7

/-- The payload: the kind, SUB and a flag in bytes 0 to 2, the operands in bytes 8 to 23. -/
def encodeOp (op : HomeOp) : List Byte :=
  let f := match op with
    | .atom sub b => (sub, 0, b, 0)
    | .cas wide c n => (0, wide.toNat, c, n)
    | .fatom sub b => (sub, 0, b, 0)
    | .stn4 high v => (0, high.toNat, v, 0)
    | .swarm n auto => (0, auto.toNat, n, 0)
    | .swadd n => (0, 0, n, 0)
    | .swread => (0, 0, 0, 0)
    | .mflip => (0, 0, 0, 0)
  natBytes 24 (opCode op + f.1 * 2 ^ 8 + f.2.1 * 2 ^ 16 + f.2.2.1 * 2 ^ 64 + f.2.2.2 * 2 ^ 128)

def decodeOp (bs : List Byte) : Option HomeOp :=
  let n := bytesNat bs
  let sub := bitsAt n 15 8
  let flag := bitsAt n 16 16 == 1
  let a := bitsAt n 127 64
  let b := bitsAt n 191 128
  if bs.length != 24 then none
  else match bitsAt n 7 0 with
    | 0 => some (.atom sub a)
    | 1 => some (.cas flag a b)
    | 2 => some (.fatom sub a)
    | 3 => some (.stn4 flag a)
    | 4 => some (.swarm (a % 2 ^ 32) flag)
    | 5 => some (.swadd (a % 2 ^ 32))
    | 6 => some .swread
    | 7 => some .mflip
    | _ => none

end Sys2Proof.Machine
end

