-- ==== Sys2Proof/Machine/Tokens.lean ====
section
/-! DEFINITION. Tokens: handles and slots (R279, R280), owners (R203, R284, R285), order (R286, R287), what a token counts and
releases (R174, R175), fault records (R291) and its end (R281, R297). -/

namespace Sys2Proof.Machine

open Sys2Proof

/-! ## Handles and lookup (R279, R280) -/

def tokenHandle (s : State) (core : Nat) (tk : Token) : W32 :=
  BitVec.ofNat 32 (chipId s % 16 * 2 ^ 28 + core % 128 * 2 ^ 21 + tk.slot % 512 * 2 ^ 12 + tk.gen.toNat)

def getToken (s : State) (core slot : Nat) : Option Token := (getCore s core).tokens.find? (fun t => t.slot == slot)

def setToken (s : State) (core : Nat) (tk : Token) : State :=
  modCore s core (fun c => { c with tokens := replaceIf (fun t => t.slot == tk.slot) tk c.tokens })

def modToken (s : State) (core slot : Nat) (f : Token → Token) : State :=
  match getToken s core slot with
  | some tk => setToken s core (f tk)
  | none => s

/-- DONE, FAULTED or CANCELLED (R280). -/
def terminal (tk : Token) : Bool := tk.st == .done || tk.st == .faulted || tk.st == .cancelled

/-- The handle that a restored context now uses for an old one (R348). -/
def newHandle (s : State) (asid : Nat) (h : W32) : W32 :=
  match getCtx s asid with
  | none => h
  | some c => ((c.handles.find? (fun p => p.1 == h)).map (·.2)).getD h

/-- The token a handle names for a context, with its core; none is GONE (R202). -/
def findToken (s : State) (asid : Nat) (h0 : W32) : Option (Nat × Token) :=
  let h := (newHandle s asid h0).toNat
  let core := bitsAt h 27 21
  match getToken s core (bitsAt h 20 12) with
  | some tk =>
    if bitsAt h 31 28 == chipId s && tk.gen.toNat == bitsAt h 11 0 && tk.asid == asid then some (core, tk) else none
  | none => none

/-- Every token with its core. -/
def allTokens (s : State) : List (Nat × Token) := s.cores.flatMap (fun c => c.tokens.map (fun t => (c.id, t)))

def stateCode (st : TokState) : Nat :=
  match st with
  | .pending => 0
  | .running => 1
  | .split => 2
  | .done => 3
  | .faulted => 4
  | .cancelled => 5

def isAttached (tk : Token) : Bool := match tk.holder with | .team _ => true | _ => false

/-- The result word (R202). -/
def tokenWord (tk : Token) (ref : Bool) : W32 :=
  BitVec.ofNat 32 (stateCode tk.st + (isAttached tk).toNat * 8 + tk.pri.toNat * 16 + tk.cxl.toNat * 64 + tk.hold.toNat * 128
    + ref.toNat * 2 ^ 31)

def goneWord (ref : Bool) : W32 := if ref then 0x80000007 else 7

/-! ## Owners (R203, R284) -/

/-- A thread of the team may change the token. -/
def mayChange (t : Team) (tk : Token) : Bool :=
  match tk.holder with
  | .team u => u == t.uid
  | .grid g => g == t.grid
  | .root => true

/-- A team's attached tokens that are not terminal. -/
def attachedCount (s : State) (uid : Nat) : Nat :=
  ((allTokens s).filter (fun p => p.2.holder == .team uid && !terminal p.2)).length

/-! ## Slots -/

/-- The generation after one. -/
def nextGen (g : BitVec 12) : BitVec 12 := if g == 0xFFF then 1 else g + 1

/-- The first generation of a slot. -/
def firstGen (core slot : Nat) : BitVec 12 := if Config.firstGen core slot == 0 then 1 else Config.firstGen core slot

/-- Slots for a new token with their generations: those that are free, else the one reclaimed under R280. -/
def freeSlots (c : CoreSt) : List (Nat × BitVec 12) :=
  let gen := fun n => (c.gens.find? (fun g => g.1 == n)).map (·.2)
  match (List.range Config.tokenSlots).filter (fun n => !(c.tokens.any (fun t => t.slot == n))) with
  | [] =>
    let oldest := fun (l : List Token) => l.foldl (fun (b : Option Token) t => match b with
      | none => some t
      | some x => if t.ended < x.ended then some t else some x) none
    let first := oldest (c.tokens.filter (fun t => t.st == .done || t.st == .cancelled || (t.st == .faulted && t.recordRead)))
    let pick : Option Token := match first with
      | some t => some t
      | none => oldest (c.tokens.filter (fun t => t.st == .faulted))
    (pick.map (fun (t : Token) => (t.slot, nextGen t.gen))).toList
  | free => free.map (fun n => (n, match gen n with | none => firstGen c.id n | some g => nextGen g))

/-- Room for one more token of a team on its core (R173). -/
def tokenRoom (s : State) (t : Team) : Bool :=
  decide (attachedCount s t.uid < 64) && !(freeSlots (getCore s (teamCore t))).isEmpty

/-- Where a token's own accesses stand in the Loupe, and all that is ordered before its release (R174, R266). -/
def tokenSet (s : State) (tk : Token) : List LEntry :=
  let ep := ((getTeam s tk.team).map (·.epoch)).getD 0
  addEntry tk.hb { team := tk.serial, epoch := ep + 1, sk := 1, src := BitVec.ofNat 12 tk.slot, mask := 0, w := false, marked := false }

/-- Entries of the team's ended operations that stand before a new one in its order. -/
def orderedSet (t : Team) (cls issuer : Nat) : List LEntry :=
  ((t.ordered.find? (fun x => x.1 == cls && x.2.1 == issuer)).map (fun x => x.2.2)).getD []

/-! ## Classes and order (R286, R287) -/

inductive EngineClass where
  | matrix | copy | coll
  deriving DecidableEq, Repr

def classOfOp (o : Op) : EngineClass :=
  match o with
  | .mma _ _ => .matrix
  | .copy _ => .copy
  | .coll _ => .coll

/-- The model's number of a class. -/
def classCode (o : Op) : Nat :=
  match classOfOp o with
  | .matrix => 0
  | .copy => 1
  | .coll => 2

/-- The issuer within the team: the thread, or the team itself for copies. -/
def issuerOf (o : Op) (tid : Nat) : Nat := if classOfOp o == .copy then 0 else tid

/-- A new token in its slot; the caller has seen that there is room. -/
def createToken (s : State) (t : Team) (issuer : Nat) (mod : BitVec 6) (hb : List LEntry) (op : Op) : W32 × State :=
  let core := teamCore t
  let c := getCore s core
  let choice := pickFrom s (freeSlots c)
  match choice.1 with
  | none => (0, s)
  | some (slot, gen) =>
    let tk : Token := { slot := slot, gen := gen, asid := t.asid, team := t.uid, serial := t.serial, issuer := issuer,
                        holder := .team t.uid, hold := mod.getLsbD 5, unord := mod.getLsbD 4, scope := mod.extractLsb' 2 2,
                        pri := mod.extractLsb' 0 2, born := s.stamp, op := op
                        hb := if mod.getLsbD 4 then hb else addEntries hb (orderedSet t (classCode op) (issuerOf op issuer)) }
    let s1 := setCore { choice.2 with stamp := s.stamp + 1 }
      { c with tokens := upsert (fun x => x.slot == slot) tk c.tokens, gens := putKey c.gens slot gen }
    (tokenHandle s core tk, s1)

/-- Whose order a token stands in, and its place there: a continuation takes those of its original (R287). -/
def orderKey (tk : Token) : Nat × Nat :=
  match tk.seat with
  | some x => (x.1, x.2.1)
  | none => (tk.team, issuerOf tk.op tk.issuer)
def placeOf (tk : Token) : Nat := (tk.seat.map (fun x => x.2.2)).getD tk.born

/-- Later tokens of the order wait for it: it is not `.unord`, or it continues one that is not. -/
def inOrder (tk : Token) : Bool := !tk.unord || tk.seat.isSome

/-- Two tokens of one issuer and class: the issuing thread for matrix and collective, the team for copies. -/
def sameOrder (a b : Token) : Bool := a.asid == b.asid && classOfOp a.op == classOfOp b.op && orderKey a == orderKey b

/-- A token of the order that still holds back a later one; a SPLIT token whose block was accepted is replaced by its
continuation. -/
def holdsBack (tk : Token) : Bool := !terminal tk && !(tk.st == .split && tk.cont.isSome)

/-- When an operation was issued: a continuation counts as its original (R187). -/
def orderBorn (s : State) : Nat → Token → Nat
  | 0, tk => tk.born
  | n + 1, tk =>
    match tk.orig.bind (fun h => findToken s tk.asid h) with
    | some p => orderBorn s n p.2
    | none => tk.born

def bornOf (s : State) (tk : Token) : Nat := orderBorn s 64 tk

/-- Every earlier token of the order is terminal or replaced. -/
def orderFree (s : State) (tk : Token) : Bool :=
  tk.unord || !(allTokens s).any (fun p => inOrder p.2 && sameOrder p.2 tk && holdsBack p.2 && decide (placeOf p.2 < placeOf tk))

/-- How the dependencies stand: some failed, all terminal, or still open (R209, R281). GONE counts as DONE. -/
def depFailed (s : State) (tk : Token) : Bool :=
  tk.deps.any (fun h => match findToken s tk.asid h with
    | some p => p.2.st == .faulted || p.2.st == .cancelled
    | none => false)
def depsDone (s : State) (tk : Token) : Bool :=
  tk.deps.all (fun h => match findToken s tk.asid h with
    | some p => p.2.st == .done
    | none => true)

/-! ## Mirror pages (R270 to R272) -/

/-- The first frame of the MIR page that an address lies in, as a physical 64 KiB frame number. -/
def mirFrame (s : State) : List Ctx → Nat → Option Nat
  | [], _ => none
  | c :: rest, a =>
    let rd := fun p => match walk s false rest p with
      | .error k => .error k
      | .ok x => .ok (BitVec.ofNat 64 (bytesNat (readKey s x.pa 8)))
    match descend rd c.level (c.level == 0) a [(55, 2), (42, 13), (29, 13), (16, 13)] true c.cxr.stagea.toNat with
    | .error _ => none
    | .ok (t, attr, _) =>
      if attr.getLsbD 4 then
        match walk s false rest (t - t % 65536) with
        | .ok x => some (x.pa / 65536)
        | .error _ => none
      else mirFrame s rest t

def mirFrameOf (s : State) (asid : Nat) (va : W64) : Option Nat :=
  if isWindow va then none else mirFrame s (chainOf s asid) (va.toNat % 2 ^ 57)

/-- The selector toggles at the page's home (R272). -/
def flipMirror (s : State) (frame : Nat) : State :=
  { s with mirrors := (frame, !((getKey s.mirrors frame).getD false)) :: s.mirrors.filter (fun p => p.1 != frame) }

/-- Bytes of an element size code (R191). -/
def eszBytes (esz : Nat) : Nat := 2 ^ esz

/-- 64 KiB granules of n bytes from an address. -/
def granulesFrom (a : W64) (n : Nat) : List Nat :=
  if n == 0 then []
  else (List.range ((a.toNat % 65536 + n - 1) / 65536 + 1)).map (fun i => a.toNat / 65536 + i)

/-- Element bytes of a collective's type. -/
def etypeSize (e : Nat) : Nat :=
  match e with
  | 0 => 1
  | 1 => 2
  | 3 | 6 | 7 | 9 => 8
  | _ => 4

/-- Bytes that a collective delivers to this rank (R195). -/
def collDestBytes (c : CollOp) : Nat :=
  let x := c.cnt * etypeSize c.etype
  match c.kind with
  | 0 => x
  | 1 => if c.rank == c.root then x else 0
  | 2 => x
  | 3 => if c.rank == c.root then c.nrank * x else 0
  | 4 => c.nrank * x
  | 5 => c.nrank * x
  | _ => c.recvs.length * 2 ^ c.blog

/-- Granules that an operation's destinations include, by device address; a matrix operation has none. -/
def destGranules (o : Op) : List Nat :=
  (match o with
  | .mma _ _ => []
  | .copy c => c.slices.flatMap (fun (sl : Slice) => match sl.what with
    | .bytes _ d n => granulesFrom d n
    | .tile t =>
      (List.range (t.ext.2.2 + 1)).flatMap (fun t2 => (List.range (t.ext.2.1 + 1)).flatMap (fun t1 =>
        granulesFrom (t.dst + BitVec.ofNat 64 (t1 * t.dstr.1 + t2 * t.dstr.2)) ((t.ext.1 + 1) * eszBytes t.esz))))
  | .coll c => granulesFrom c.dstb (collDestBytes c)).eraseDups

/-- MIR pages that a token's destinations include. -/
def destFrames (s : State) (tk : Token) : List Nat :=
  ((destGranules tk.op).filterMap (fun g => mirFrameOf s tk.asid (BitVec.ofNat 64 (g * 65536)))).eraseDups

/-- A destination of a token that is not terminal, other than the one at a slot, includes the page. -/
def frameBusy (s : State) (frame : Nat) (core slot : Nat) : Bool :=
  (allTokens s).any (fun p => !terminal p.2 && !(p.1 == core && p.2.slot == slot) && (destFrames s p.2).contains frame)

/-! ## Counting and release (R174, R175) -/

def arriveMode (a : W32) : Nat := a.toNat % 4
def arriveBarNo (a : W32) : Nat := bitsAt a.toNat 5 2
def arriveSwo (a : W32) : Nat := bitsAt a.toNat 26 6 * 16

/-- The team's epoch advances at a release of its token (R266). -/
def tokenEpoch (s : State) (tk : Token) : State := if loupeOn s tk.asid then advanceEpoch s tk.team else s

/-- A token's set goes with a barrier phase. -/
def tokenPhase (s : State) (tk : Token) (uid nb : Nat) : State :=
  if !loupeOn s tk.asid then s
  else
    match getTeam s uid with
    | some t => addPhase s t nb (tokenSet s tk)
    | none => s

/-- The core of an arrival word's sync word: the token's, unless it moved with the team's scratch (R300). -/
def swoCore (core : Nat) (tk : Token) (arrive : W32) : Nat := ((tk.swoHome.find? (fun p => p.1 == arrive)).map (·.2)).getD core

/-- n bytes delivered for a token, counted on an arrival word (R175). The bytes are released at the token's scope. -/
def countBytes (s : State) (core : Nat) (tk : Token) (arrive : W32) (n : Nat) : State :=
  let s0 := modToken s core tk.slot (fun t => { t with bytes := t.bytes + n })
  match arriveMode arrive with
  | 0 => s0
  | 3 =>
    let key := sliceKey (swoCore core tk arrive) (arriveSwo arrive)
    let s1 := if loupeOn s0 tk.asid then
        storeCarried s0 { key := .bytes key 16, asid := tk.asid, scope := tk.scope, team := tk.team, set := tokenSet s0 tk } else s0
    tokenEpoch (applyHome s1 tk.asid key (.swadd n)).2 tk
  | _ => tokenEpoch (bytesBar (tokenPhase s0 tk tk.team (arriveBarNo arrive)) tk.team (arriveBarNo arrive) n) tk

/-- Arrival words of an operation. -/
def arriveWords (o : Op) : List W32 :=
  match o with
  | .mma m _ => [m.arrive]
  | .copy c => c.slices.map (·.arrive)
  | .coll c => [c.arrive]

/-- One arrival on each distinct barrier named with MODE 2 (R175, R188). -/
def doneArrivals (s : State) (tk : Token) : State :=
  let nbs := (((arriveWords tk.op).filter (fun a => arriveMode a == 2)).map arriveBarNo).eraseDups
  nbs.foldl (fun st nb => engineArrive (tokenPhase st tk tk.team nb) tk.team nb) s

def wantsFlip (o : Op) : Bool :=
  match o with
  | .mma _ _ => false
  | .copy c => c.flip
  | .coll c => c.flip

/-- A MIR page is homed on another chip. -/
def frameFar (s : State) (f : Nat) : Bool := paChip (f * 65536) != chipId s

/-- `.flip` at DONE: every MIR page of the destinations that no other token still writes (R188, R272). Those of other chips have
flipped before. -/
def doneFlip (s : State) (core : Nat) (tk : Token) : State :=
  if !wantsFlip tk.op then s
  else
    (destFrames s tk).foldl (fun st f =>
      if frameFar st f || frameBusy st f core tk.slot then st
      else
        let s1 := flipMirror st f
        if loupeOn s1 tk.asid then
          storeCarried s1 { key := .flip f, asid := tk.asid, scope := tk.scope, team := tk.team, set := tokenSet s1 tk }
        else s1) s

/-- The pages of other chips that a token flips at DONE. -/
def farFlips (s : State) (core : Nat) (tk : Token) : List Nat :=
  if wantsFlip tk.op then (destFrames s tk).filter (fun f => frameFar s f && !frameBusy s f core tk.slot) else []

/-- Flips that a token awaits are asked of their homes, each once and where the core may send (R272, R361). -/
def askFlips (s : State) (core : Nat) (tk : Token) : State :=
  tk.flips.foldl (fun st f =>
    let peer := paChip (f * 65536)
    if (getCore st core).outst.any (fun o => o.asker == .flip tk.slot f) || !requestRoom st core peer 1 then st
    else
      sendRequest st core peer (requestPacket st tk.asid core peer (paCore (f * 65536)) 3 (f * 65536) false false (encodeOp .mflip))
        (.flip tk.slot f) [] 1) s

/-! ## Fault records and the end (R281, R291) -/

def kindCode (o : Op) : Nat :=
  match o with
  | .mma _ false => 0
  | .mma _ true => 1
  | .copy c => if c.tiled then 3 else 2
  | .coll _ => 4

def progOf (o : Op) : Nat :=
  match o with
  | .mma m _ => m.knext
  | .copy _ => 0
  | .coll c => c.chunk

/-- The 512 bits of a token's record (R291). -/
def tokRecNat (r : TokRec) : Nat :=
  r.addr.toNat * 2 ^ 448 + r.doneb % 2 ^ 48 * 2 ^ 400 + r.prog.toNat * 2 ^ 368 + r.unit.toNat * 2 ^ 352 + r.cause.toNat * 2 ^ 344
    + r.kind.toNat * 2 ^ 341 + r.stage.toNat * 2 ^ 338 + r.rpl.toNat * 2 ^ 337 + r.wr.toNat * 2 ^ 336 + r.pool.toNat * 2 ^ 335
    + r.more.toNat * 2 ^ 334 + r.handle.toNat * 2 ^ 288 + r.team.toNat * 2 ^ 256 + r.aux.toNat

/-- The record of a token whose fault has a cause; the caller adds what the cause names. -/
def recordFor (s : State) (core : Nat) (tk : Token) (cause : Cause) : TokRec :=
  { doneb := tk.bytes, prog := BitVec.ofNat 32 (progOf tk.op), unit := if classOfOp tk.op == .matrix then 0xFFFF else 0,
    cause := BitVec.ofNat 8 (causeCode cause), kind := BitVec.ofNat 3 (kindCode tk.op), handle := tokenHandle s core tk,
    team := tk.serial }

/-- The record of a TOKEN_FAULT with its subcode. -/
def subcodeRecord (s : State) (core : Nat) (tk : Token) (sub : Nat) : TokRec :=
  { recordFor s core tk .tokenFault with aux := BitVec.ofNat 256 sub }

/-- What an ended operation did is ordered before the operations that its order or a dependency held back, and before those issued in
its order from now on (R273, R287). -/
def passOn (s : State) (core : Nat) (tk : Token) : State :=
  if !loupeOn s tk.asid then s
  else
    let set := tokenSet s tk
    let waits := fun (q : Token) => q.st == .pending && q.asid == tk.asid &&
      ((inOrder tk && !q.unord && sameOrder tk q && decide (placeOf tk < placeOf q))
        || q.deps.any (fun h => (findToken s q.asid h).any (fun p => p.1 == core && p.2.slot == tk.slot)))
    let s1 := { s with cores := s.cores.map (fun c => { c with tokens := c.tokens.map (fun q =>
      if waits q then { q with hb := addEntries q.hb set } else q) }) }
    if !inOrder tk then s1
    else
      let cls := classCode tk.op
      let who := (orderKey tk).2
      modTeam s1 (orderKey tk).1 (fun t => { t with
        ordered := (cls, who, addEntries (orderedSet t cls who) set) :: t.ordered.filter (fun x => !(x.1 == cls && x.2.1 == who)) })

/-- The token takes a terminal state, and so does the token that it continues, and on to the first (R281, R297). Its record is written
once (R291). -/
def closeToken : Nat → State → Nat → Nat → TokState → Option TokRec → State
  | 0, s, _, _, _, _ => s
  | n + 1, s, core, slot, st, r =>
    match getToken s core slot with
    | none => s
    | some tk =>
      if terminal tk then s
      else
        let rec1 := match r with
          | some x => { x with handle := tokenHandle s core tk }
          | none => tk.record
        let s1 := setToken (passOn { s with stamp := s.stamp + 1 } core tk) core
          { tk with st := st, paused := false, flipping := false, flips := [], splitting := false, ended := s.stamp, record := rec1 }
        match tk.orig.bind (fun h => findToken s1 tk.asid h) with
        | some p => closeToken n s1 p.1 p.2.slot st r
        | none => s1

/-- The handles of a token and of those that it continues, back to the first: each waits for the same end (R297). -/
def endHandles (s : State) (asid : Nat) : Nat → W32 → List W32
  | 0, _ => []
  | n + 1, h => h :: (match (findToken s asid h).bind (fun p => p.2.orig) with
    | some o => endHandles s asid n o
    | none => [])

/-- What DONE releases: a wait on the token, or on one that it continues, meets it (R174, R205). -/
def doneRelease (s : State) (core : Nat) (tk : Token) : State :=
  if loupeOn s tk.asid then
    let leave := fun (st : State) (h : W32) =>
      storeCarried st { key := .token h, asid := tk.asid, scope := tk.scope, team := tk.team, set := tokenSet st tk }
    tokenEpoch ((endHandles s tk.asid 512 (tokenHandle s core tk)).foldl leave s) tk
  else s

/-- A token ends. At DONE its writes are released, its arrivals made and its flips done before DONE shows (R174, R272): flips at other
chips are awaited first. -/
def endToken (s : State) (core slot : Nat) (st : TokState) (r : Option TokRec) : State :=
  match getToken s core slot with
  | none => s
  | some tk =>
    if terminal tk then s
    else if st == .done then
      let far := if tk.flipping then tk.flips else farFlips s core tk
      if !far.isEmpty then
        if tk.flipping then s
        else
          let tk1 := { tk with flipping := true, flips := far }
          askFlips (setToken s core tk1) core tk1
      else
        let s1 := doneFlip (doneArrivals s tk) core tk
        doneRelease (closeToken 512 s1 core slot .done none) core tk
    else closeToken 512 s core slot st r

/-- A further fault of an operation whose record stands sets MORE (R291). -/
def noteMore (s : State) (core slot : Nat) : State :=
  modToken s core slot (fun tk => if tk.record == {} || tk.st != .faulted then tk else { tk with record := { tk.record with more := true } })

/-- An answer to a flip of a token (R272). -/
def flipAnswer (s : State) (core slot frame : Nat) : State :=
  let s1 := modToken s core slot (fun tk => { tk with flips := tk.flips.filter (· != frame) })
  match getToken s1 core slot with
  | some tk => if tk.flipping && tk.flips.isEmpty then endToken s1 core slot .done none else s1
  | none => s1

/-! ## Collective groups (R197) -/

def collOf (tk : Token) : Option CollOp :=
  match tk.op with
  | .coll c => some c
  | _ => none

/-- One context is the other or stands above it: ranks of both may share a collective (R301). -/
def kin (s : State) (a b : Nat) : Bool := (chainOf s a).any (fun c => c.asid == b) || (chainOf s b).any (fun c => c.asid == a)

/-- Tokens of this chip that take part in the same collective, this one included: of its context, or of one above or below it with the
same rank table (log 53). -/
def groupTokens (s : State) (tk : Token) : List (Nat × Token) :=
  match collOf tk with
  | none => []
  | some c => (allTokens s).filter (fun p =>
      match collOf p.2 with
      | some d => d.grp == c.grp && d.nth == c.nth && (p.2.asid == tk.asid || (d.rtab == c.rtab && kin s p.2.asid tk.asid))
      | none => false)

/-- A rank that another one's end stops: at once where no chunk is in progress, else at its end. A rank whose deliveries are complete, so
that only a flip is awaited, is past it. -/
def endPeer (s : State) (gone sub : Nat) (p : Nat × Token) : State :=
  match if p.2.flipping then none else collOf p.2 with
  | some c =>
    if c.open_ && p.2.st == .running then setToken s p.1 { p.2 with op := .coll { c with stopped := gone :: c.stopped } }
    else endToken s p.1 p.2.slot .faulted (some (subcodeRecord s p.1 p.2 sub))
  | none => s

/-- A rank's end stops the others at the same boundary (R290): subcode 5. -/
def endPeers (s : State) (core : Nat) (tk : Token) (sub : Nat) : State :=
  (groupTokens s tk).foldl (fun st p => if p.1 == core && p.2.slot == tk.slot then st else endPeer st (((collOf tk).map CollOp.rank).getD 0) sub p) s

/-! ## Saves and freezes (R301, R302) -/

/-- A pre-emption of the token's context stands on a core: requested, or with teams still saved from it. -/
def preempted (s : State) (core asid : Nat) : Bool :=
  (getCore s core).prq.any (fun p => p.asid == asid)
    || s.teams.any (fun t => t.asid == asid && !t.evicted && (t.home == .saved core || t.home == .savedDrained core))

/-- A save, eviction or freeze holds the token's operation at its boundary. -/
def tokenHeld (s : State) (core : Nat) (tk : Token) : Bool :=
  let one := fun (p : Nat × Token) => frozen s p.2.asid || preempted s p.1 p.2.asid || (getTeam s p.2.team).any (·.evicted)
  one (core, tk) || (match collOf tk with
    | some _ => (groupTokens s tk).any (fun p => !terminal p.2 && one p)
    | none => false)

/-- The token's context is being revoked (R349). -/
def revoking (s : State) (asid : Nat) : Bool := (chainOf s asid).any (fun c => !c.live)

/-- A sector of the operation has been read, sent or acknowledged and is not done (R289), or a request of it is out. -/
def inFlight (s : State) (core slot : Nat) : Bool :=
  (getCore s core).outst.any (fun o => match o.asker with
    | .sector sl _ _ => sl == slot
    | .flip sl _ => sl == slot
    | _ => false)
  || (match (getToken s core slot).map Token.op with
      | some (Op.copy c) => c.slices.any (fun (sl : Slice) => !sl.lines.isEmpty || !sl.acked.isEmpty)
      | _ => false)

/-- Coded packets of a shuffle stand in the core's decode slots, which a pause decodes first (R301). -/
def decodesLeft (s : State) (core : Nat) (tk : Token) : Bool :=
  (match tk.op with
   | .coll c => c.kind == 6
   | _ => false) && (getCore s core).decode.any (fun p => tagAsid p.ftag == tk.asid)

/-- No chunk is in progress, or all that is left of it waits for services (R290, R292). -/
def atRest (tk : Token) : Bool :=
  match collOf tk with
  | none => true
  | some c => !c.open_ || (c.todo.all (fun j => c.blocked.any (fun b => b.1 == j))
      && decide (c.total ≤ c.done.length + c.failed.length + c.blocked.length))

/-- The operation has stopped for a save or a revoke (R301). -/
def stopped (s : State) (core : Nat) (tk : Token) : Bool :=
  terminal tk || tk.st == .split || tk.st == .pending
    || (tk.st == .running && classOfOp tk.op != .matrix && !inFlight s core tk.slot && !decodesLeft s core tk && atRest tk)

end Sys2Proof.Machine
end

