-- ==== Sys2Proof/Machine/Teardown.lean ====
section
/-! DEFINITION. The revoke of a context's subtree in its six steps (R349, R366, R367), and the containment of an uncorrectable
error (R397). -/

namespace Sys2Proof.Machine

open Sys2Proof

/-! ## Steps 1 and 2 -/

/-- A token of a revoked context stops where it stands; other ranks of its collective end with it (R301). -/
def revokeToken (s : State) (core : Nat) (tk : Token) : State :=
  let s1 := endToken s core tk.slot .cancelled (some (recordFor s core tk .revoked))
  if tk.st == .running then
    (groupTokens s1 tk).foldl (fun st p =>
      if revoking st p.2.asid then st else endPeer st (((collOf tk).map CollOp.rank).getD 0) 5 p) s1
  else s1

/-- A token that has no boundary still to reach: only a running matrix operation and sectors in flight go on (R301). -/
def stopsNow (s : State) (core : Nat) (tk : Token) : Bool :=
  !terminal tk && !(tk.st == .running && (classOfOp tk.op == .matrix || inFlight s core tk.slot || !atRest tk))

def revokeTokens (s : State) (ids : List Nat) (force : Bool) : State :=
  (allTokens s).foldl (fun st p =>
    if ids.contains p.2.asid && !terminal p.2 && (force || stopsNow s p.1 p.2) then revokeToken st p.1 p.2 else st) s

/-- Threads of the contexts are discarded, with the stores that they have not performed. -/
def discardThreads (s : State) (ids : List Nat) : State :=
  { s with
    teams := s.teams.map (fun t => if ids.contains t.asid then
      { t with threads := t.threads.map (fun th => { th with st := .gone, pending := [], hazards := [] }) } else t)
    cores := s.cores.map (fun c => { c with held := c.held.filter (fun h => !ids.contains h.asid) }) }

/-! ## Steps 3 to 6 -/

/-- Step 3: tags REVOKED, and the subtree's packets, write-combining entries and coded slots dropped (R349, R367). -/
def revokeTags (s : State) (ids : List Nat) : State :=
  let mine := fun (p : Packet) => ids.contains (tagAsid p.ftag)
  { s with
    fab := { s.fab with
      tags := s.fab.tags.map (fun t => if ids.contains t.1 then (t.1, t.2.1, false) else t)
      ports := s.fab.ports.map (fun l => { l with queue := l.queue.filter (fun p => !mine p) })
      prisms := (s.fab.prisms.map (fun q => { q with segs := q.segs.filter (fun g => !mine g.pkt) })).filter
        (fun q => !q.segs.isEmpty)
      have_ := s.fab.have_.filter (fun h => !ids.contains (tagAsid h.ftag))
      haveWait := s.fab.haveWait.filter (fun h => !ids.contains (tagAsid h.1))
      local_ := s.fab.local_.filter (fun p => !mine p) }
    cores := s.cores.map (fun c => { c with
      wcb := c.wcb.filter (fun w => !ids.contains w.asid)
      decode := c.decode.filter (fun p => !mine p)
      outst := (c.outst.filter (fun o => !mine o.pkt || o.flits != 0)).map
        (fun o => if mine o.pkt && !o.dead then { o with dead := true, since := s.ns } else o) }) }

/-- No reply reservation of the contexts is left (R367). -/
def quiescent (s : State) (ids : List Nat) : Bool :=
  !s.cores.any (fun c => c.outst.any (fun o => ids.contains (tagAsid o.pkt.ftag)))

/-- Grants of this chip that contexts hold: by their lists and by their teams' scratch. -/
def heldGrants (s : State) (ids : List Nat) : List (Nat × Nat) :=
  (s.ctxs.filter (fun c => ids.contains c.asid)).flatMap (fun c =>
      (c.grant.srng.filter (fun g => g.1 == chipId s)).map (fun g => (g.2.1, g.2.2)))
    ++ (s.teams.filter (fun t => ids.contains t.asid)).flatMap (fun t =>
      match t.home with
      | .core k => (List.range t.ngrants).map (fun i => (k, t.grant0 + i))
      | .drained k => (List.range t.ngrants).map (fun i => (k, t.grant0 + i))
      | _ => [])

/-- A grant reads as zero before another context can use it. -/
def zeroGrants (s : State) (gs : List (Nat × Nat)) : State :=
  gs.foldl (fun st g => clearKeys st (sliceKey g.1 (g.2 * 65536)) 65536) s

/-- The energy of contexts added to a counter, which saturates with its sticky flag (R229). -/
def addEnergy (c : Ctx) (n : Nat) : Ctx :=
  if c.energy + n < 2 ^ 48 then { c with energy := c.energy + n } else { c with energy := 2 ^ 48 - 1, esat := true }

def nextIncarnation (s : State) (a : Nat) : Nat := ((tagEntry s a).1 + 1) % 4

/-- A terminal token whose context is gone keeps its slot until the slot is reclaimed (R280, R383): no context finds it by a handle, and
no shuffle waits for it. -/
def orphan (t : Token) : Token :=
  { t with asid := 2 ^ 14, op := match t.op with
      | .coll c => .coll { c with left := true, side := [] }
      | o => o }

/-- The queues of a revoked child's run are their caller's again, halted (R349). -/
def returnQueues (base n : Nat) (c : Ctx) : Ctx :=
  { c with queues := c.queues.filter (fun q => !(decide (base ≤ q.num ∧ q.num < base + n)))
      ++ (List.range n).map (fun i => { num := base + i, halted := true }) }

/-- Steps 5 and 6: everything of the subtree returns to the caller, generations and incarnations advance (R332, R349). -/
def removeContexts (s : State) (top : Nat) (ids : List Nat) : State :=
  let energy := ((s.ctxs.filter (fun c => ids.contains c.asid)).map (fun c => c.energy + c.due)).sum
  let share := ((getCtx s top).map (fun c => 1 + c.grant.dslot)).getD 0
  let parent := (getCtx s top).bind (·.parent)
  let gone := fun (c : Concern) => match c with
    | .thread u _ => (getTeam s u).any (fun t => ids.contains t.asid)
    | .token core h => ids.any (fun a => match findToken s a h with | some p => p.1 == core | none => false)
    | _ => false
  let frames := (s.ctxs.filter (fun c => ids.contains c.asid)).flatMap (fun c => match c.parent with
    | some p => mirFrames s p c.grant.mrng []
    | none => [])
  let s0 := bumpGeneration (forgetMirrors (zeroGrants s (heldGrants s ids)) frames) ids
  let lists := (s.ctxs.filter (fun c => ids.contains c.asid)).flatMap (fun c => c.grant.srng)
  let s1 : State := { s0 with
    teams := s0.teams.filter (fun t => !ids.contains t.asid)
    grids := s0.grids.filter (fun g => !ids.contains g.asid)
    carry := s0.carry.filter (fun c => !ids.contains c.asid)
    granules := s0.granules.filter (fun g => !ids.contains g.asid)
    fab := { s0.fab with
      tags := (ids.map (fun a => (a, nextIncarnation s0 a, false))) ++ s0.fab.tags.filter (fun t => !ids.contains t.1) }
    sched := { s0.sched with ring := s0.sched.ring.filter (fun a => !ids.contains a) }
    host := { s0.host with asked := s0.host.asked.filter (fun q => !gone q.about) }
    cores := s0.cores.map (fun c => { c with
      tokens := c.tokens.map (fun t => if ids.contains t.asid then orphan t else t)
      near := c.near.filter (fun n => !ids.contains n.asid)
      icache := c.icache.filter (fun n => !ids.contains n.asid)
      sit := c.sit.filter (fun e => !ids.contains e.asid)
      prq := c.prq.filter (fun p => !ids.contains p.asid)
      prqSeen := c.prqSeen.filter (fun a => !ids.contains a)
      collSeq := c.collSeq.filter (fun x => !ids.contains x.1)
      residue := c.residue.filter (fun x => !ids.contains x.2.1) })
    ctxs := (s0.ctxs.filter (fun c => !ids.contains c.asid)).map (fun c =>
      { c with
        hqes := c.hqes.filter (fun h => h.about == .report || !ids.contains h.ctx)
        popped := c.popped.filter (fun h => h.about == .report || !ids.contains h.ctx)
        freezes := c.freezes.filter (fun a => !ids.contains a)
        bindings := c.bindings.filter (fun b => match b.child with | some a => !ids.contains a | none => true) }) }
  match parent with
  | none => s1
  | some p =>
    let run := ((getCtx s top).map (fun c => (c.qbase, c.grant.nqueue))).getD (0, 0)
    modCtx s1 p (fun c => addEnergy { returnQueues run.1 run.2 c with
      left := c.left + share
      grant := if c.level == 0 then c.grant else { c.grant with srng := c.grant.srng ++ lists } } energy)

/-! ## The whole -/

/-- Contexts whose revoke was begun for themselves: their parent lives. -/
def revokeTops (s : State) : List Ctx :=
  s.ctxs.filter (fun c => !c.live && (match c.parent.bind (getCtx s) with
    | some p => p.live
    | none => true))

/-- One revoke goes as far as it can: step 3 when its operations have stopped, steps 5 and 6 when all is quiescent. -/
def advanceRevoke (s : State) (top : Ctx) (force : Bool) : State :=
  let ids := subtree s top.asid
  let s1 := revokeTokens s ids force
  if (allTokens s1).any (fun p => ids.contains p.2.asid && !terminal p.2) then s1
  else
    let s2 := revokeTags s1 ids
    if quiescent s2 ids then removeContexts s2 top.asid ids else s2

def advanceRevokes (s : State) : State := (revokeTops s).foldl (fun st c => advanceRevoke st c false) s

/-- Steps 1 and 2 begin (R349). -/
def beginRevoke (s : State) (asid : Nat) : State :=
  let ids := subtree s asid
  let s1 := { s with ctxs := s.ctxs.map (fun c => if ids.contains c.asid && c.live then { c with live := false, revokeAt := s.cycle } else c) }
  advanceRevokes (discardThreads s1 ids)

/-! ## Uncorrectable errors (R397) -/

/-- The context named by an owner tag is discarded with its subtree, its parent told; owner 0 ends no context. -/
def containOwner (s : State) (owner : Nat) (aux : Nat) (core : Nat) : State :=
  if owner == 0 then postNotice s { kind := 8, data := BitVec.ofNat 64 aux, chip := chipId s, core := core, cause := 0x12 }
  else
    match getCtx s owner with
    | none => s
    | some c =>
      let h : Hqe := { src := ctxHandle c, cause := 0x12, chip := BitVec.ofNat 4 (chipId s), core := BitVec.ofNat 7 core,
                       aux := BitVec.ofNat 208 aux, about := .report, ctx := owner }
      beginRevoke (postEntry s h (parentChain s owner)).2 owner

end Sys2Proof.Machine
end

