-- ==== Sys2Proof/Machine/Access.lean ====
section
/-! DEFINITION. A thread's accesses to memory: Reticle data comparators (R400), the checks of R144, the near cache (R256), the
write-combining buffer (R156), requests to other chips (R357), the release and acquire parts (R146), translations asked of the
host (R389), and parameter blocks (R172). -/

namespace Sys2Proof.Machine

open Sys2Proof

/-! ## Stores held in a core, and its near cache (R256) -/

def touches (key n : Nat) (data : List (Nat × Byte)) : Bool := data.any (fun p => decide (key ≤ p.1 ∧ p.1 < key + n))

/-- A held store is performed at its home: its bytes, and the sets that they carry (R259). -/
def performStore (s : State) (h : HeldStore) : State := leaveSets (homePut s h.asid h.data) h.data h.carry

/-- The stores of a core up to the last one that touches the bytes are performed. -/
def performThrough (s : State) (core key n : Nat) : State :=
  let c := getCore s core
  match c.held.reverse.findIdx? (fun h => touches key n h.data) with
  | none => s
  | some i =>
    let k := c.held.length - i
    (c.held.take k).foldl performStore (setCore s { c with held := c.held.drop k })

/-- Every store of a context held in a core is performed. -/
def performContext (s : State) (core asid : Nat) : State :=
  let c := getCore s core
  let mine := c.held.filter (fun h => h.asid == asid)
  if mine.isEmpty then s else mine.foldl performStore (setCore s { c with held := c.held.filter (fun h => h.asid != asid) })

/-- Bytes with the held stores of a core and context over them. -/
def overlay (held : List HeldStore) (asid key : Nat) (bs : List Byte) : List Byte :=
  (held.filter (fun h => h.asid == asid)).foldl (fun l h =>
    h.data.foldl (fun l p => if decide (key ≤ p.1) then l.set (p.1 - key) p.2 else l) l) bs

/-- Carried sets without what single bytes of a write carried. -/
def cutCells (data : List (Nat × Byte)) (cs : List Carried) : List Carried :=
  if cs.isEmpty then [] else data.foldl (fun l p => l.flatMap (cutCarried p.1 1)) cs

/-- The sets that bytes at their home carry, with the held stores of a core and context over them. -/
def carriedAt (s : State) (core asid key n : Nat) : List Carried :=
  ((((getCore s core).held.filter (fun h => h.asid == asid)).foldl (fun l h => cutCells h.data l ++ h.carry)
    (s.carry.filter (fun c => keyOverlaps c.key key n)))).filter (fun c => keyOverlaps c.key key n)

/-- A near line leaves a core. -/
def dropLine (s : State) (core asid line : Nat) : State :=
  if (getCore s core).near.any (fun l => l.asid == asid && l.line == line) then
    modCore s core (fun c => { c with near := c.near.filter (fun l => !(l.asid == asid && l.line == line)) })
  else s

/-- Bytes put into a near line that is present, with the sets that they carry; `data` is by key. -/
def nearPut (s : State) (core asid : Nat) (data : List (Nat × Byte)) (sets : List Carried) : State :=
  if (getCore s core).near.any (fun l => l.asid == asid && touches (l.line * 128) 128 data) then
    modCore s core (fun c => { c with near := c.near.map (fun l =>
      if l.asid == asid && touches (l.line * 128) 128 data then
        { l with data := data.foldl (fun d p => if p.1 / 128 == l.line then d.set (p.1 % 128) p.2 else d) l.data
                 carry := cutCells data l.carry ++ sets.filter (fun c => keyOverlaps c.key (l.line * 128) 128) }
      else l) })
  else s

/-- A line enters the near cache, which holds 1,536; where it is full some other line is evicted, and the stores that it holds are
performed (R4, R256). -/
def nearFill (s : State) (core asid line : Nat) (bs : List Byte) : State :=
  let new : NearLine := { asid := asid, line := line, data := bs, carry := carriedAt s core asid (line * 128) 128 }
  let rest := (getCore s core).near.filter (fun l => !(l.asid == asid && l.line == line))
  if rest.length < Config.nearLines then modCore s core (fun c => { c with near := new :: rest })
  else
    match pickFrom s rest with
    | (none, s1) => s1
    | (some v, s1) => modCore (performThrough s1 core (v.line * 128) 128) core (fun c => { c with near := new :: rest.erase v })

def nearLine (s : State) (core asid line : Nat) : Option NearLine :=
  (getCore s core).near.find? (fun l => l.asid == asid && l.line == line)

/-- A site whose lines the near cache may hold (R256). -/
def nearable (site : Site) : Bool := !site.win && !site.attr.getLsbD 4

/-- Bytes of a line homed on this chip as a load finds them, with the sets that they carry: in a near line, or at the home with the
core's own stores over them, which then stand in a near line that is present. `fill` keeps the line. -/
def localLoad (s : State) (core asid key n : Nat) (near fill : Bool) : (List Byte × List Carried) × State :=
  let c := getCore s core
  let line := key / 128
  let home := overlay c.held asid key (readKey s key n)
  let sets := carriedAt s core asid key n
  let bound := fun (st : State) =>
    chargeLines (if fill then nearFill st core asid line (overlay c.held asid (line * 128) (readKey st (line * 128) 128))
      else nearPut st core asid (keyed key home) sets) asid key n
  match (if near then nearLine s core asid line else none) with
  | none => ((home, sets), bound s)
  | some l =>
    let held := (l.data.drop (key % 128)).take n
    if held == home then ((home, sets), s)
    else if Config.nearUsed s.freeCtr then ((held, l.carry.filter (fun c => keyOverlaps c.key key n)), nextFree s)
    else ((home, sets), bound (nextFree s))

/-! ## Requests to other chips -/

/-- The address of a packet for a site (R356). -/
def siteAddr (site : Site) : Nat := if site.win then site.chip * 2 ^ 35 + site.core * 2 ^ 28 + site.off else site.key

/-- The mark of a thread whose access was held 1 ms without a path (R398). -/
def lostTag : Nat := 2 ^ 127
def pathLost (th : Thread) : Bool := th.reply.any (fun p => p.1 == lostTag)

/-- One answer from another chip to the instruction in progress, whose access is at `ea`: `tag` is the model's name of the request. -/
def askRemote (s : State) (uid tid core asid : Nat) (ea : W64) (wr : Bool) (tag : Nat) (site : Site) (kind : Nat) (addr : Nat) (data : List Byte) :
    Except Act (List Byte × State) :=
  match (getTeam s uid).bind (fun t => getThread t tid) with
  | none => .error (.left s)
  | some th =>
    match getKey th.reply tag with
    | some bs => .ok (bs, s)
    | none =>
      if pathLost th then .error (.trap s { cause := .dataFault, addr := ea, wr := wr, aux := 1 })
      else
      let flits := if kind == 1 then 3 else if kind == 3 then 1 else 0
      if (getCore s core).outst.any (fun o => o.asker == .thread uid tid tag) then .error (.hold s .fabric)
      else if !pathTo s core site.chip then .error (.hold s (.path site.chip))
      else if !requestRoom s core site.chip flits then .error (.hold s .fabric)
      else
        .error (.hold (sendRequest s core site.chip
          (requestPacket s asid core site.chip site.core kind addr site.win false data) (.thread uid tid tag) [] flits) .fabric)

/-! ## Lines of other chips and the near cache (R256, R260) -/

/-- The model's name of a line that a thread reads from another chip. -/
def siteLine (site : Site) : Nat := site.chip * 2 ^ 70 + site.win.toNat * 2 ^ 69 + siteAddr site / 128

/-- A thread has asked for the line, or holds its answer. -/
def awaitsLine (c : CoreSt) (uid tid tag : Nat) (th : Thread) : Bool :=
  th.reply.any (fun p => p.1 == tag) || c.outst.any (fun o => o.asker == .thread uid tid tag)

/-- Reads in progress of a core and context, of one line or of all, whose answers no longer enter the near cache: an acquire or another
access of the core came between. `but` is the thread that goes on. -/
def spoilFills (s : State) (core asid : Nat) (tag : Option Nat) (but : Option (Nat × Nat)) : State :=
  let c := getCore s core
  let hit := fun (uid tid : Nat) (th : Thread) => but != some (uid, tid) && (match tag with
    | some g => awaitsLine c uid tid g th
    | none => !th.reply.isEmpty || c.outst.any (fun o => match o.asker with
        | .thread u i _ => u == uid && i == tid
        | _ => false))
  let fetch : Outst → Bool := fun o => match o.asker with
    | .prefetch a g => a == asid && (match tag with
        | some x => x == g
        | none => true)
    | _ => false
  let s1 := if c.outst.any fetch then
      setCore s { c with outst := c.outst.map (fun o => if fetch o then { o with asker := .none } else o) } else s
  { s1 with teams := s1.teams.map (fun t =>
      if teamCore t == core && t.asid == asid && ((List.range t.threads.length).zip t.threads).any (fun p => hit t.uid p.1 p.2) then
        { t with threads := ((List.range t.threads.length).zip t.threads).map (fun p =>
            if hit t.uid p.1 p.2 then { p.2 with noFill := true } else p.2) }
      else t) }

/-- A context's lines leave a core's near cache. -/
def dropNear (s : State) (core asid : Nat) : State :=
  let s1 := spoilFills s core asid none none
  if (getCore s1 core).near.any (fun l => l.asid == asid) then
    modCore s1 core (fun c => { c with near := c.near.filter (fun l => l.asid != asid) })
  else s1

/-- The key under which this chip keeps the sets of bytes at a site. -/
def carryKey (s : State) (site : Site) : Nat :=
  if site.win && site.chip != chipId s then 2 ^ 60 + siteAddr site else site.key

/-- The sets that bytes of a site carry. -/
def siteSets (s : State) (core asid : Nat) (site : Site) (n : Nat) : List Carried :=
  if site.chip == chipId s then carriedAt s core asid site.key n
  else s.carry.filter (fun c => keyOverlaps c.key (carryKey s site) n)

/-! ## The write-combining buffer (R156) -/

/-- The packet's payload of an entry: with byte enables unless the whole line is enabled. -/
def wcbPayload (e : WcbEntry) : Bool × List Byte :=
  let line := (List.range 128).map (fun i => (getKey e.data i).getD 0)
  if e.data.length ≥ 128 then (false, line)
  else (true, natBytes 16 (e.data.foldl (fun m p => m + 2 ^ p.1) 0) ++ line)

def sameEntry (a b : WcbEntry) : Bool := a.peer == b.peer && a.win == b.win && a.line == b.line

/-- An entry drains as one fabric write; it stays where its stream has no room. -/
def drainEntry (s : State) (core : Nat) (e : WcbEntry) : State :=
  if !requestRoom s core e.peer 0 then s
  else
    let p := wcbPayload e
    let s1 := modCore s core (fun c => { c with wcb := c.wcb.filter (fun x => !sameEntry x e) })
    sendNamed s1 e.id core e.peer (requestPacket s1 e.asid core e.peer e.dcore 0 (e.line * 128) e.win p.1 p.2) .none e.teams 0

/-- Every entry of a core drains. -/
def drainAll (s : State) (core : Nat) : State := (getCore s core).wcb.foldl (fun st e => drainEntry st core e) s

/-- The core's entries for a line. -/
def lineEntries (s : State) (core : Nat) (site : Site) : List WcbEntry :=
  (getCore s core).wcb.filter (fun e => e.peer == site.chip && e.win == site.win && e.line == siteAddr site / 128)

/-- The entry of a line drains before another access to the line (R156). -/
def drainLine (s : State) (core : Nat) (site : Site) : State :=
  (lineEntries s core site).foldl (fun st e => drainEntry st core e) s

/-- A store enters the buffer; `data` is by offset from the site's address. -/
def wcbStore (s : State) (core asid uid : Nat) (site : Site) (data : List (Nat × Byte)) : Except Act State :=
  let a := siteAddr site
  let new : WcbEntry := { peer := site.chip, win := site.win, line := a / 128, dcore := site.core, asid := asid,
                          data := [], teams := [uid], id := s.stamp }
  let old := (getCore s core).wcb.find? (sameEntry new)
  let s1 := match old with
    | some e => if e.asid == asid then s else drainEntry s core e
    | none =>
      match (getCore s core).wcb with
      | e :: r => if r.length + 1 ≥ Config.wcbEntries then drainEntry s core e else s
      | [] => s
  let c := getCore s1 core
  let base := (c.wcb.find? (sameEntry new)).getD new
  if base.asid != asid || (c.wcb.length ≥ Config.wcbEntries && !c.wcb.any (sameEntry new)) then .error (.hold s1 .fabric)
  else
    let e : WcbEntry := { base with
      data := data.foldl (fun d p => putKey d (a % 128 + p.1) p.2) base.data
      teams := if base.teams.contains uid then base.teams else uid :: base.teams }
    let s2 := setCore { s1 with stamp := s1.stamp + 1 } { c with wcb := upsert (sameEntry new) e c.wcb }
    .ok (if e.data.length ≥ 128 then drainEntry s2 core e else s2)

/-! ## Release and acquire parts (R146, R275, R277) -/

/-- The writes that a release part at a scope waits for: the buffer's entries, and from `.fb` on every fabric write and atomic of the
core that its home has not acknowledged. -/
def writeIds (s : State) (core : Nat) (scope : BitVec 2) : List Nat :=
  let c := getCore s core
  c.wcb.map (·.id) ++ (if scope.toNat ≥ 2 then (c.outst.filter (fun o => o.pkt.kind == 0 || o.pkt.kind == 3)).map (·.id) else [])

/-- A write that is not acknowledged. -/
def idLive (s : State) (core id : Nat) : Bool :=
  let c := getCore s core
  c.wcb.any (fun e => e.id == id) || c.outst.any (fun o => o.id == id)

/-- A release part still waits. -/
def relLive (s : State) (core : Nat) (r : Release) : Bool := r.ids.any (idLive s core)

def threadRel (s : State) (uid tid : Nat) : Option Release :=
  ((getTeam s uid).bind (fun t => getThread t tid)).bind (·.rel)

/-- The actions of a release part at a scope, and the writes it then waits for. -/
def startRelease (s : State) (core asid : Nat) (scope : BitVec 2) : List Nat × State :=
  let s0 := performContext s core asid
  let s1 := if scope == 3 then poolBack s0 else s0
  let s2 := drainAll s1 core
  ((writeIds s1 core scope).filter (idLive s2 core), s2)

/-- Writes that an instruction starts once and whose acknowledgements it waits for. -/
def awaitWrites (s : State) (uid tid core : Nat) (start : State → List Nat × State) : Except Act State :=
  match threadRel s uid tid with
  | some r => if r.own && !relLive s core r then .ok s else .error (.hold s .release)
  | none =>
    let p := start s
    if p.1.isEmpty then .ok p.2
    else
      .error (.hold (modThread p.2 uid tid (fun th => { th with rel := some { pc := th.pc, own := true, ids := p.1 } })) .release)

/-- The release part at a scope, or the wait for its acknowledgements at the instruction. -/
def releasePart (s : State) (uid tid core asid : Nat) (scope : BitVec 2) : Except Act State :=
  if scope == 0 then .ok s else awaitWrites s uid tid core (fun st => startRelease st core asid scope)

/-- The acquire part at a scope: the context's near lines go, and at `.sy` the clean lines of pool memory. -/
def acquirePart (s : State) (core asid : Nat) (scope : BitVec 2) : State :=
  if scope == 0 then s
  else
    let s1 := dropNear s core asid
    if scope == 3 then poolDrop s1 else s1

def hasRelease (order : Nat) : Bool := order == 2 || order == 3 || order == 4
def hasAcquire (order : Nat) : Bool := order == 1 || order == 3 || order == 4

/-! ## Translations asked of the host (R389) -/

/-- Groups of a function that are outstanding. -/
def prgsOut (s : State) (fn : Nat) : Nat := (s.host.prgs.filter (fun g => g.fn == fn && g.sent)).length

/-- A Page Request Group joined or opened for an access; at most 64 of a function are outstanding. -/
def pageRequest (s : State) (asid : Nat) (rq : AtsReq) (rd wr : Bool) : State :=
  let joins := fun (g : Prg) => g.asid == asid && g.rq == rq && (!g.sent || ((!rd || g.rd) && (!wr || g.wr)))
  match s.host.prgs.find? joins with
  | some g =>
    let g1 := { g with rd := g.rd || rd, wr := g.wr || wr }
    { s with host := { s.host with prgs := replaceIf (fun x => x.fn == g.fn && x.index == g.index) g1 s.host.prgs } }
  | none =>
    let i := (getKey s.host.nextPrg rq.fn).getD 0
    let go := decide (prgsOut s rq.fn < 64)
    { s with host := { s.host with
      prgs := s.host.prgs ++ [{ asid := asid, fn := rq.fn, index := i, rq := rq, wr := wr, rd := rd, sent := go }]
      nextPrg := putKey s.host.nextPrg rq.fn (i + 1)
      out := if go then s.host.out ++ [.pageRequest rq.fn i rq rd wr] else s.host.out } }

/-- The device holds some translation of the page. -/
def atsKnown (s : State) (rq : AtsReq) : Bool := s.host.ats.any (fun e => e.1 == rq)

def askAts (s : State) (rq : AtsReq) (wr : Bool) : State :=
  if s.host.out.any (fun m => match m with | .atsRequest q w => q == rq && w == wr | _ => false) then s
  else { s with host := { s.host with out := s.host.out ++ [.atsRequest rq wr] } }

/-- A thread's access to host memory without a translation: asked of the host, or the thread PARKED with a page request. -/
def hostWait (s : State) (asid uid tid : Nat) (ea : W64) (rq : AtsReq) (rd wr : Bool) : Act :=
  if atsKnown s rq then
    .left (parkPage (pageRequest s asid rq rd wr) uid tid rq { cause := .dataFault, addr := ea, rpl := true, wr := wr })
  else .hold (askAts s rq wr) (.ats rq)

/-! ## Admission of an access -/

/-- The data comparator that an access meets (R399, R400). -/
def watchHit (s : State) (t : Team) (th : Thread) (q : Ask) : Option (Nat × Bool) :=
  if th.pass then none
  else
    ((getCore s (teamCore t)).retic.filter (fun p =>
      decide (8 ≤ p.1) && p.2.en && decide (p.2.szl.toNat ≤ 40) && p.2.caddr.toNat % 2 ^ p.2.szl.toNat == 0
        && ((q.rd && p.2.rd) || (q.wr && p.2.wr))
        && decide (p.2.caddr.toNat < q.ea.toNat + q.size ∧ q.ea.toNat < p.2.caddr.toNat + 2 ^ p.2.szl.toNat)
        && p.2.lmask.getLsbD (64 * th.part + th.lane) && (p.2.anyc || p.2.asid.toNat == t.asid))).foldl
      (fun best p => match best with
        | none => some (p.1, p.2.act)
        | some b => if p.1 < b.1 then some (p.1, p.2.act) else some b) none

/-- The comparators and checks 1 to 6 of an access by the thread in hand, which waits behind an earlier release part (R146). -/
def letPass (s : State) (uid tid : Nat) (c : Cur) (q : Ask) : Except Act (Site × State) :=
  if c.th.rel.any (fun r => !r.own) then .error (.hold s .release)
  else
  match watchHit s c.team c.th q with
  | some (n, act) => .error (.trap s { cause := .watch, addr := q.ea, wr := q.wr, aux := n + 256, halt := act })
  | none =>
    match checkSite s c.team.asid q with
    | (.error (.trap t), s1) => .error (.trap s1 t)
    | (.error (.ats rq), s1) => .error (hostWait s1 c.team.asid uid tid q.ea rq q.rd q.wr)
    | (.ok site, s1) => .ok (site, s1)

/-- A page's flip synchronises with the accesses that follow it (R259). -/
def flipRead (s : State) (uid tid asid : Nat) (ea : W64) (site : Site) (scope : BitVec 2) : State :=
  if site.win || !site.attr.getLsbD 4 then s
  else
    let f := mirFrameOf s asid ea
    let cs := s.carry.filter (fun c => match c.key with
      | .flip g => f == some g && scopeMatch c.scope scope c.team uid
      | _ => false)
    if cs.isEmpty then s else acquireEntries s uid tid (cs.flatMap (·.set))

/-- Check 7 (R144, R265). -/
def admitRace (s : State) (uid tid : Nat) (ea : W64) (site : Site) (offs : List Nat) (wr marked : Bool) : Except Act State :=
  match threadLoupe s uid tid ea site offs wr marked with
  | .error t => .error (.trap s t)
  | .ok s1 => .ok s1

/-! ## Reading and writing a site -/

/-- An answer of 32 bytes to an access to a page marked CHK: its home found a race, and the bytes are AUX of the trap (log 50). -/
def farRace (ea : W64) (site : Site) (wr : Bool) (bs : List Byte) : Option Trap :=
  if !site.win && site.attr.getLsbD 3 && bs.length == 32 then some { cause := .race, addr := ea, wr := wr, aux := bytesNat bs } else none

/-- The line of a MIR page by its first frame. -/
def mirLine (s : State) (key : Nat) : Nat :=
  (if s.mirrors.any (fun p => p.2 && p.1 + 1 == key / 65536) then key - 65536 else key) / 128

/-- A plain load of a MIR page on this chip: what an earlier read of the thread found there, or the home's bytes, which that read then
gives too (R149). -/
def mirLoad (s : State) (uid tid : Nat) (th : Thread) (core asid key n : Nat) : (List Byte × List Carried) × State :=
  let line := mirLine s key
  let r := localLoad s core asid key n false false
  match th.early.find? (fun l => l.line == line) with
  | none => r
  | some l =>
    if Config.nearUsed s.freeCtr then (((l.data.drop (key % 128)).take n, l.carry.filter (fun c => keyOverlaps c.key key n)), nextFree s)
    else
      (r.1, modThread (nextFree r.2) uid tid (fun x => { x with early := x.early.map (fun e =>
        if e.line == line then { e with data := (keyed (key % 128) r.1.1).foldl (fun d p => d.set p.1 p.2) e.data } else e) }))

/-- A line asked of another chip: the bytes of the answer. -/
def farLine (s : State) (uid tid : Nat) (c : Cur) (ea : W64) (site : Site) (n : Nat) (near fill : Bool) :
    Except Act ((List Byte × List Carried) × State) :=
  let core := teamCore c.team
  let asid := c.team.asid
  let a := siteAddr site
  let pos := a % 128
  match askRemote s uid tid core asid ea false (siteLine site) site 1 (a - pos) [] with
  | .error x => .error x
  | .ok (bs, s1) =>
    match farRace ea site false bs with
    | some t => .error (.trap s1 t)
    | none =>
      if bs.length < pos + n then .error (.trap s1 (uncorrectable s1 ea site))
      else
        let s2 := spoilFills s1 core asid (some (siteLine site)) (some (uid, tid))
        let keeps := near && fill && !(((getTeam s uid).bind (fun t => getThread t tid)).map (·.noFill)).getD false
        .ok (((bs.drop pos).take n, siteSets s1 core asid site n),
          if keeps then nearFill s2 core asid (a / 128) (bs.take 128) else dropLine s2 core asid (a / 128))

/-- n bytes of a site that lies within one line, as a thread reads them (R148, R256), with the sets that they carry; check 8 included.
A line of another chip that the near cache holds may be evicted and read again. -/
def readSite (s : State) (uid tid : Nat) (c : Cur) (ea : W64) (site : Site) (n : Nat) (near fill : Bool) :
    Except Act ((List Byte × List Carried) × State) :=
  let core := teamCore c.team
  let asid := c.team.asid
  let chk := !site.win && site.attr.getLsbD 3
  let useNear := near && nearable site
  if site.chip == chipId s then
    if poisoned s site.key n then .error (.trap s (uncorrectable s ea site))
    else if near && !site.win && !nearable site && !chk then .ok (mirLoad s uid tid c.th core asid site.key n)
    else .ok (localLoad s core asid site.key n useNear (useNear && fill))
  else
    let s1 := drainLine s core site
    if !(lineEntries s1 core site).isEmpty then .error (.hold s1 .fabric)
    else
      let line := siteAddr site / 128
      match (if useNear && !chk then nearLine s1 core asid line else none) with
      | some l =>
        if Config.nearUsed s1.freeCtr then
          .ok (((l.data.drop (siteAddr site % 128)).take n, l.carry.filter (fun c => keyOverlaps c.key site.key n)), nextFree s1)
        else farLine (dropLine (nextFree s1) core asid line) uid tid c ea site n useNear fill
      | none => farLine s1 uid tid c ea site n useNear fill

/-- How a store is to be performed: it may be held in its core, takes place at once where its home is on this chip, or is performed
before the thread goes on. -/
inductive StoreHow where
  | plain | strong | complete
  deriving DecidableEq, Repr

/-- Enabled bytes of a site stored by a thread, by offset, with the sets they leave (R148, R156, R259): held in the core, performed at
their home, or on their way to another chip. -/
def writeSite (s : State) (uid tid : Nat) (c : Cur) (ea : W64) (site : Site) (data : List (Nat × Byte)) (how : StoreHow)
    (sets : List Carried) : Except Act State :=
  let core := teamCore c.team
  let asid := c.team.asid
  let chk := !site.win && site.attr.getLsbD 3
  let cells := data.map (fun p => (site.key + p.1, p.2))
  let near := fun (st : State) => if nearable site then nearPut st core asid cells sets else st
  let left := fun (st : State) => leaveSets st (data.map (fun p => (carryKey s site + p.1, p.2))) sets
  if site.chip == chipId s then
    if nearable site && !chk && how == .plain then
      .ok (near (modCore s core (fun k =>
        { k with held := k.held ++ [{ asid := asid, team := uid, tid := tid, data := cells, carry := sets }] })))
    else .ok (near (left (homePut (performThrough s core site.key 16) asid cells)))
  else
    let done := fun (st : State) => left (near (spoilFills st core asid (some (siteLine site)) none))
    if chk || how == .complete then
      let s1 := drainLine s core site
      if !(lineEntries s1 core site).isEmpty then .error (.hold s1 .fabric)
      else
        let a := siteAddr site
        let pos := a % 128
        let mask := data.foldl (fun m p => m + 2 ^ (pos + p.1)) 0
        let line := (List.range 128).map (fun i => (getKey data (i - pos)).getD 0)
        match askRemote s1 uid tid core asid ea true (2 ^ 80 + a)
            { site with key := site.key - pos, off := site.off - pos } 0 (a - pos) (natBytes 16 mask ++ line) with
        | .error x => .error x
        | .ok (bs, s2) =>
          match farRace ea site true bs with
          | some t => .error (.trap s2 t)
          | none => .ok (done s2)
    else
      match wcbStore s core asid uid site data with
      | .error x => .error x
      | .ok s1 => .ok (done s1)

/-- A read-modify-write at a site's home (R157): the old value. -/
def rmwSite (s : State) (uid tid : Nat) (c : Cur) (ea : W64) (site : Site) (op : HomeOp) : Except Act (Nat × State) :=
  let core := teamCore c.team
  let asid := c.team.asid
  let n := homeOpSize op
  if site.chip == chipId s then
    if poisoned s site.key n then .error (.trap s (uncorrectable s ea site))
    else
      let r := applyHome (performThrough s core site.key n) asid site.key op
      .ok (r.1, if nearable site then nearPut r.2 core asid (keyed site.key (natBytes n ((homeOpNew op r.1).getD r.1))) [] else r.2)
  else
    let s1 := drainLine s core site
    if !(lineEntries s1 core site).isEmpty then .error (.hold s1 .fabric)
    else
      match askRemote s1 uid tid core asid ea true (2 ^ 90) site 3 (siteAddr site) (encodeOp op) with
      | .error x => .error x
      | .ok (bs, s2) =>
        match farRace ea site true bs with
        | some t => .error (.trap s2 t)
        | none =>
          if bs.isEmpty then .error (.trap s2 (uncorrectable s2 ea site))
          else .ok (bytesNat bs, dropLine (spoilFills s2 core asid (some (siteLine site)) none) core asid (siteAddr site / 128))

/-! ## Parameter blocks (R172) -/

/-- Bytes of [ea, ea + n) read line by line, each line checked and read as a plain load. -/
def readLines (uid tid : Nat) (c : Cur) : Nat → State → W64 → Nat → List Byte → Except Act (List Byte × State)
  | 0, s, _, _, acc => .ok (acc, s)
  | f + 1, s, ea, n, acc =>
    if n == 0 then .ok (acc, s)
    else
      let k := min n (128 - ea.toNat % 128)
      match letPass s uid tid c { ea := ea, size := k, align := 1, rd := true, wr := false } with
      | .error x => .error x
      | .ok (site, s1) =>
        match admitRace (flipRead s1 uid tid c.team.asid ea site 0) uid tid ea site (List.range k) false false with
        | .error x => .error x
        | .ok s2 =>
          match readSite s2 uid tid c ea site k true true with
          | .error x => .error x
          | .ok (r, s3) =>
            readLines uid tid c f (carryRead s3 uid tid r.2 0 false) (ea + BitVec.ofNat 64 k) (n - k) (acc ++ r.1)

/-- A range of bytes read at issue. -/
def readRange (s : State) (uid tid : Nat) (c : Cur) (ea : W64) (n : Nat) : Except Act (List Byte × State) :=
  readLines uid tid c (n / 128 + 2) s ea n []

/-- A parameter block, aligned to its size: as a number. -/
def readBlock (s : State) (uid tid : Nat) (c : Cur) (ea : W64) (n : Nat) : Except Act (Nat × State) :=
  match letPass s uid tid c { ea := ea, size := n, align := n, rd := true, wr := false } with
  | .error x => .error x
  | .ok (_, s1) =>
    match readRange s1 uid tid c ea n with
    | .error x => .error x
    | .ok (bs, s2) => .ok (bytesNat bs, s2)

/-- RESERVED_FIELD for a block: its address and the offset of the first offending field. -/
def blockTrap (ea : W64) (off : Nat) : Trap := { cause := .reservedField, aux := ea.toNat + off * 2 ^ 64 }

/-- The smallest offset among the rules that fail. -/
def firstOffset (rules : List (Bool × Nat)) : Option Nat :=
  (rules.filter (fun r => !r.1)).foldl (fun b r => match b with
    | none => some r.2
    | some x => some (min x r.2)) none

end Sys2Proof.Machine
end

