-- ==== Sys2Proof/Machine/MemInstr.lean ====
section
/-! DEFINITION. Memory instructions: opcodes 0xA0 to 0xBB (R142 to R168). -/

namespace Sys2Proof.Machine

open Sys2Proof

/-! ## Shared parts -/

/-- `Except` steps of an access in sequence, ending in an `Act`. -/
def andThen {α : Type} (x : Except Act α) (f : α → Act) : Act :=
  match x with
  | .ok a => f a
  | .error e => e

/-- The same, with a further step. -/
def orStop {α β : Type} (x : Except Act α) (f : α → Except Act β) : Except Act β :=
  match x with
  | .ok a => f a
  | .error e => .error e

/-- Element types that a store leaves unchecked (R147). -/
def bitType (t : BitVec 6) : Bool := decide (0x08 ≤ t.toNat ∧ t.toNat ≤ 0x0C)

/-- Access width in bytes, and registers, of a type (R147). -/
def memSize (t : BitVec 6) : Nat := tyBits t / 8
def memRegs (t : BitVec 6) : Nat := if t == 0x0C then 4 else if ty64 t then 2 else 1

def memBase (o : Long) : List RegUse := useRaw 2 (srcA o)

/-- The stored value of a type from a register up. -/
def storeNat (c : Cur) (t : BitVec 6) (r : Nat) : Nat :=
  ((List.range (memRegs t)).foldl (fun n i => n + (readV c.th (r + i)).val.toNat * 2 ^ (32 * i)) 0) % 2 ^ (8 * memSize t)

/-- The registers that a load writes (R147): narrow types extended to 32 bits. -/
def loadRegs (t : BitVec 6) (r v : Nat) : List (Nat × Reg) :=
  if memSize t < 4 then
    result32 r (BitVec.ofNat 32 (if tySigned t then wrapTo 32 (toSigned (8 * memSize t) v) else v)) .b32
  else
    ((List.range (memRegs t)).zip (tyTags t)).map (fun p => (r + p.1, { val := BitVec.ofNat 32 (v / 2 ^ (32 * p.1)), tag := p.2 }))

/-- The release part of an instruction, which waits at it (R146). -/
def doRelease (s : State) (uid tid : Nat) (c : Cur) (order : Nat) (scope : BitVec 2) : Except Act State :=
  if hasRelease order then releasePart s uid tid (teamCore c.team) c.team.asid scope else .ok s

/-- The release part of an instruction with which the thread goes on: `after` is what waits behind it (R146). -/
def goRelease (s : State) (uid tid : Nat) (c : Cur) (order : Nat) (scope : BitVec 2) (after : State → Release → Release)
    (now : State → Except Act State) : Except Act State :=
  if !hasRelease order || scope == 0 then now s
  else
    let p := startRelease s (teamCore c.team) c.team.asid scope
    if p.1.isEmpty then now p.2
    else .ok (modThread p.2 uid tid (fun th => { th with rel := some (after p.2 { pc := th.pc, own := false, ids := p.1 }) }))

def releaseEpoch (s : State) (uid : Nat) (c : Cur) (order : Nat) : State :=
  if hasRelease order && loupeOn s c.team.asid then advanceEpoch s uid else s

def doAcquire (s : State) (c : Cur) (order : Nat) (scope : BitVec 2) : State :=
  if hasAcquire order then acquirePart s (teamCore c.team) c.team.asid scope else s

/-! ## Misaligned accesses (R168) -/

/-- MISALIGNED_DATA is emulated: routed to the context itself, by a thread that is not in its handler (R118, R168). -/
def emulates (c : Cur) : Bool := c.team.trm.getLsbD 6 && !c.th.handler

/-- The model's name for byte i of an emulated access that is done. -/
def byteDone (i : Nat) : Nat := 2 ^ 100 + i

def markDone (s : State) (uid tid i : Nat) (bs : List Byte) : State :=
  modThread s uid tid (fun th => { th with reply := putKey th.reply (byteDone i) bs })

def replyOf (s : State) (uid tid tag : Nat) : Option (List Byte) :=
  ((getTeam s uid).bind (fun t => getThread t tid)).bind (fun th => getKey th.reply tag)

/-- The bytes of an emulated access in ascending address, each a `.rlx` access of its own; those done before a wait are not
done again. `data` holds what a store writes, by offset. -/
def emulateBytes (uid tid : Nat) (c : Cur) (ea : W64) (scope : BitVec 2) (data : Option (List (Nat × Byte))) :
    List Nat → State → List Byte → Except Act (List Byte × State)
  | [], s, acc => .ok (acc, s)
  | i :: r, s, acc =>
    match replyOf s uid tid (byteDone i) with
    | some bs => emulateBytes uid tid c ea scope data r s (acc ++ bs)
    | none =>
      let a := ea + BitVec.ofNat 64 i
      let wr := data.isSome
      orStop (letPass s uid tid c { ea := a, size := 1, align := 1, rd := !wr, wr := wr }) (fun p =>
        orStop (admitRace (flipRead p.2 uid tid c.team.asid a p.1 scope) uid tid a p.1 [0] wr false) (fun s1 =>
          match data with
          | some d =>
            let one := (d.filter (fun x => x.1 == i)).map (fun x => (0, x.2))
            orStop (writeSite s1 uid tid c a p.1 one .complete (writerSets s1 uid tid (carryKey s1 p.1) 1 scope false)) (fun s2 =>
              emulateBytes uid tid c ea scope data r (markDone s2 uid tid i []) acc)
          | none =>
            orStop (readSite s1 uid tid c a p.1 1 true true) (fun q =>
              emulateBytes uid tid c ea scope data r (markDone (carryRead q.2 uid tid q.1.2 scope false) uid tid i q.1.1)
                (acc ++ q.1.1))))

/-- Pelnar's routine around an access (R168): the frame is filled with ACTION 1, and the thread leaves its cohort, as at handler
entry. -/
def emulateEntry (s : State) (uid tid : Nat) (c : Cur) (ea : W64) (n : Nat) : State :=
  match (getTeam s uid).bind (fun t => (getThread t tid).map (fun th => (t, th))) with
  | none => s
  | some (t, th) =>
    let f := recordOf s t tid th { cause := .misalignedData, addr := ea, aux := n }
    modTeam (fillFrame s c.team tid c.th f 1) uid (fun t => leaveCohort t tid)

/-! ## Loads and stores (R147 to R151) -/

/-- The bytes of an aligned load by the thread in hand. -/
def loadSite (s : State) (uid tid : Nat) (c : Cur) (ea : W64) (site : Site) (n order : Nat) (scope : BitVec 2) (strm : Bool) :
    Except Act (List Byte × State) :=
  let marked := order != 0
  orStop (doRelease s uid tid c order scope) (fun s1 =>
    orStop (admitRace (flipRead s1 uid tid c.team.asid ea site scope) uid tid ea site (List.range n) false marked) (fun s2 =>
      orStop (readSite s2 uid tid c ea site n (!marked) (!strm)) (fun q =>
        .ok (q.1.1, doAcquire (carryRead (releaseEpoch q.2 uid c order) uid tid q.1.2 scope (hasAcquire order)) c order scope))))

def isMisaligned (ea : W64) (n : Nat) : Bool := ea.toNat % n != 0

/-- `ld` (R148). -/
def execLd (o : Long) (s : State) : Host.Outcome State Fault Refusal :=
  let n := memSize o.sub
  run (.ld o) (sigR (memBase o ++ useDst o.dst.toNat (memRegs o.sub))) (fun s uid tid c =>
    let ea := effAddr c o
    let done := fun (st : State) (bs : List Byte) =>
      Act.done (applyWrites st uid tid (outR (loadRegs o.sub o.dst.toNat (bytesNat bs))))
    if isMisaligned ea n && (isWindow ea || isCanonical ea) && emulates c then
      andThen (doRelease s uid tid c o.order o.scope) (fun s1 =>
        andThen (emulateBytes uid tid c ea o.scope none (List.range n)
            (emulateEntry (releaseEpoch s1 uid c o.order) uid tid c ea n) []) (fun p =>
          done (doAcquire p.2 c o.order o.scope) p.1))
    else
      andThen (letPass s uid tid c { ea := ea, size := n, align := n, rd := true, wr := false }) (fun p =>
        andThen (loadSite p.2 uid tid c ea p.1 n o.order o.scope o.flag) (fun q => done q.2 q.1))) s

/-- The enabled bytes of a store (R150). -/
def enabledBytes (o : Long) (c : Cur) (n : Nat) (bs : List Byte) : List (Nat × Byte) :=
  let m := opd32 c (regOpd o.kb o.sb)
  ((List.range n).zip bs).filter (fun p => !o.flag || m.getLsbD p.1)

/-- The carried sets that a store of some bytes leaves (R259): for the whole access, or byte by byte where a mask leaves gaps. -/
def storeSets (s : State) (uid tid key n : Nat) (scope : BitVec 2) (rel : Bool) (offs : List Nat) : List Carried :=
  if offs.length == n then writerSets s uid tid key n scope rel
  else offs.flatMap (fun i => writerSets s uid tid (key + i) 1 scope rel)

/-- An `.sc` store takes place at once where its home is on this chip; any other may be held in its core (R256, R261, R278). -/
def storeHow (order : Nat) : StoreHow := if order == 4 then .strong else .plain

/-- A store of the thread in hand to an admitted site. On a page that is not marked CHK the thread goes on while the release part
waits. -/
def storeSite (s : State) (uid tid : Nat) (c : Cur) (ea : W64) (site : Site) (n order : Nat) (scope : BitVec 2)
    (data : List (Nat × Byte)) : Except Act State :=
  let offs := data.map (·.1)
  let sets := fun (st : State) => storeSets st uid tid (carryKey st site) n scope (hasRelease order) offs
  let now := fun (st : State) => if data.isEmpty then .ok st
    else
      orStop (admitRace (flipRead st uid tid c.team.asid ea site scope) uid tid ea site offs true (order != 0)) (fun s2 =>
        writeSite s2 uid tid c ea site data (storeHow order) (sets s2))
  let back := fun (st : State) (r : Release) => if data.isEmpty then r
    else { r with store := some { ea := ea, site := site, data := data, order := order, scope := scope, carry := sets st } }
  orStop (if !site.win && site.attr.getLsbD 3 then orStop (doRelease s uid tid c order scope) now
    else goRelease s uid tid c order scope back now) (fun s1 => .ok (releaseEpoch s1 uid c order))

/-- `st` (R148, R150). -/
def execSt (o : Long) (s : State) : Host.Outcome State Fault Refusal :=
  let n := memSize o.sub
  let data := if bitType o.sub then useRaw (memRegs o.sub) (.v o.dst.toNat) else useTyped o.sub (.v o.dst.toNat)
  let mask := if o.flag then useRaw 1 (regOpd o.kb o.sb) else []
  run (.st o) (sigR (memBase o ++ mask ++ data)) (fun s uid tid c =>
    let ea := effAddr c o
    let bytes := enabledBytes o c n (natBytes n (storeNat c o.sub o.dst.toNat))
    if isMisaligned ea n && (isWindow ea || isCanonical ea) && emulates c then
      andThen (doRelease s uid tid c o.order o.scope) (fun s1 =>
        andThen (emulateBytes uid tid c ea o.scope (some bytes) (bytes.map (·.1))
            (emulateEntry (releaseEpoch s1 uid c o.order) uid tid c ea n) []) (fun p => .done p.2))
    else
      andThen (letPass s uid tid c { ea := ea, size := n, align := n, rd := false, wr := true }) (fun p =>
        andThen (storeSite p.2 uid tid c ea p.1 n o.order o.scope bytes) (fun s1 => .done s1))) s

/-! ## Team-uniform loads (R153) -/

def ldkCount (o : Long) : Nat := o.sub.toNat + 1

/-- Where the words of an `ldk` lie that have not been read yet: each with its number and address. -/
def ldkSites (uid tid : Nat) (c : Cur) (o : Long) (ea : W64) :
    List Nat → State → List (Nat × W64 × Site) → Except Act (List (Nat × W64 × Site) × State)
  | [], s, acc => .ok (acc, s)
  | i :: r, s, acc =>
    if (replyOf s uid tid (byteDone i)).isSome then ldkSites uid tid c o ea r s acc
    else
      let a := ea + BitVec.ofNat 64 (4 * i)
      orStop (letPass s uid tid c { ea := a, size := 4, align := 4, rd := true, wr := false }) (fun p =>
        ldkSites uid tid c o ea r (flipRead p.2 uid tid c.team.asid a p.1 o.scope) (acc ++ [(i, a, p.1)]))

/-- The words of an `ldk`, each read by itself; those read before a wait stay in the thread's reply list. -/
def ldkRead (uid tid : Nat) (c : Cur) (o : Long) : List (Nat × W64 × Site) → State → Except Act State
  | [], s => .ok s
  | (i, a, site) :: r, s =>
    orStop (readSite s uid tid c a site 4 (o.order == 0) true) (fun q =>
      ldkRead uid tid c o r (markDone (carryRead q.2 uid tid q.1.2 o.scope (hasAcquire o.order)) uid tid i q.1.1))

/-- The words of an `ldk`, one access for the Loupe (R266, R269). -/
def ldkWords (uid tid : Nat) (c : Cur) (o : Long) (ea : W64) (s : State) : Except Act (List W32 × State) :=
  orStop (ldkSites uid tid c o ea (List.range (ldkCount o)) s []) (fun p =>
    match threadAccess p.2 uid tid (p.1.map (fun x => (x.2.1, x.2.2, [0, 1, 2, 3]))) false (hasAcquire o.order) with
    | .error t => .error (.trap p.2 t)
    | .ok s1 =>
      orStop (ldkRead uid tid c o p.1 s1) (fun s2 =>
        .ok ((List.range (ldkCount o)).map (fun i => BitVec.ofNat 32 (bytesNat ((replyOf s2 uid tid (byteDone i)).getD []))), s2)))

/-- k registers of a team written from f up (R21). -/
def putK (t : Team) (f : Nat) (ws : List W32) : Team :=
  { t with k := ((List.range ws.length).zip ws).foldl (fun k p => k.set (f + p.1) p.2) t.k }

/-- `ldk` (R153). The k registers are interlocked for the issuing thread alone. R21 leaves open which of them other threads see old or
new while it completes: the model writes all of them in the `ldk`'s own step (DESIGN CHOICE, log 10). -/
def execLdk (o : Long) (s : State) : Host.Outcome State Fault Refusal :=
  let f := o.dst.toNat % 64
  let n := ldkCount o
  run (.ldk o) (sigR (memBase o)) (fun s uid tid c =>
    let ea := effAddr c o
    andThen (doRelease s uid tid c o.order o.scope) (fun s1 =>
      if isMisaligned ea 4 then
        andThen (letPass s1 uid tid c { ea := ea, size := 4, align := 4, rd := true, wr := false }) (fun p => .done p.2)
      else
        andThen (ldkWords uid tid c o ea s1) (fun p =>
          let s2 := modTeam (doAcquire (releaseEpoch p.2 uid c o.order) c o.order o.scope) uid (fun t => putK t f p.1)
          .done (modThread s2 uid tid (fun th =>
            { th with pending := th.pending ++ (List.range n).map (fun i => Pending.k (f + i)) }))))) s

/-! ## Prefetch and probes (R154, R155) -/

/-- One line brought into the near cache, where that can be done without a trap: it changes no counter. A line of another chip is asked
for, and enters when its answer comes. -/
def prefLine (s : State) (c : Cur) (ea : W64) : State :=
  let core := teamCore c.team
  let asid := c.team.asid
  match checkSite s asid { ea := ea, size := 1, align := 1, rd := true, wr := false } with
  | (.ok site, s1) =>
    let line := site.key / 128
    if !nearable site || (nearLine s core asid line).isSome then s1
    else if site.chip == chipId s then
      if poisoned s site.key 1 then s1
      else nearFill s1 core asid line (overlay (getCore s1 core).held asid (line * 128) (readKey s1 (line * 128) 128))
    else
      let s2 := drainLine s1 core site
      if !(lineEntries s2 core site).isEmpty || !pathTo s2 core site.chip || !requestRoom s2 core site.chip 3 then s2
      else
        sendRequest s2 core site.chip (requestPacket s2 asid core site.chip site.core 1 (line * 128) false false [])
          (.prefetch asid (siteLine site)) [] 3
  | (.error _, s1) => s1

/-- `pref` (R154). -/
def execPref (o : Long) (s : State) : Host.Outcome State Fault Refusal :=
  run (.pref o) (sigR (memBase o)) (fun s _ _ c =>
    let ea := effAddr c o
    let base := ea - BitVec.ofNat 64 (ea.toNat % 128)
    let n := match o.form with | .cm => 2 ^ o.order | _ => 1
    if o.sub == 0 then .done ((List.range n).foldl (fun st i => prefLine st c (base + BitVec.ofNat 64 (128 * i))) s)
    else .done s) s

/-- The word that `cchk` writes (R155). For a window address that fails check 3 the table fixes BAD alone; every other field is then 0
(DESIGN CHOICE, log 51). -/
def cchkWord (s : State) (asid : Nat) (ea : W64) : Nat :=
  let place := fun (chip core : Nat) => chip % 16 * 2 ^ 28 + core % 128 * 2 ^ 21
  if isWindow ea then
    let bad := decide (winOff ea ≥ Config.sliceBytes) || !grantHeld s asid (winChip ea) (winCore ea) (winOff ea / 65536)
      || (winChip ea == chipId s && hitsPrivate s (winCore ea) (winOff ea) 1)
    if bad then 256 else place (winChip ea) (winCore ea) + 3 * 2 ^ 19 + 7
  else if !isCanonical ea then 256
  else
    match walk s false (chainOf s asid) (ea.toNat % 2 ^ 57) with
    | .error _ => 128
    | .ok x =>
      let at_ := 1 + x.attr.toNat * 2 + (paHost x.pa).toNat * 64 + x.size * 2 ^ 19
      if paExists s x.pa then
        at_ + place (paChip x.pa) (paCore x.home)
      else at_ + 256

/-- `cchk` (R155). -/
def execCchk (o : Long) (s : State) : Host.Outcome State Fault Refusal :=
  run (.cchk o) (sigR (memBase o ++ useDst o.dst.toNat 1)) (fun s uid tid c =>
    .done (applyWrites s uid tid (outR (result32 o.dst.toNat
      (BitVec.ofNat 32 (cchkWord s c.team.asid (effAddr c o))) .b32)))) s

/-! ## Read-modify-writes (R152, R157 to R161) -/

/-- The operation, performed now at a home on this chip, would write (a failed compare does not, R160). -/
def wouldWrite (s : State) (core : Nat) (site : Site) (op : HomeOp) : Bool :=
  site.chip != chipId s
    || (homeOpNew op (bytesNat (readKey (performThrough s core site.key (homeOpSize op)) site.key (homeOpSize op)))).isSome

/-- A read-modify-write by the thread in hand: the old value. `q` gives the address, its alignment and the placement rules. -/
def rmwAt (s : State) (uid tid : Nat) (c : Cur) (q : Ask) (order : Nat) (scope : BitVec 2) (op : HomeOp) :
    Except Act (Nat × State) :=
  orStop (letPass s uid tid c q) (fun p =>
    orStop (doRelease p.2 uid tid c order scope) (fun s1 =>
      let wr := wouldWrite s1 (teamCore c.team) p.1 op
      orStop (admitRace (flipRead s1 uid tid c.team.asid q.ea p.1 scope) uid tid q.ea p.1 (List.range q.size) wr true) (fun s2 =>
        let s3 := carryRead s2 uid tid (siteSets s2 (teamCore c.team) c.team.asid p.1 q.size) scope (hasAcquire order)
        orStop (rmwSite s3 uid tid c q.ea p.1 op) (fun r =>
          let wrote := (homeOpNew op r.1).isSome
          let s4 := if wrote then carryWrite r.2 uid tid (carryKey r.2 p.1) q.size scope (hasRelease order) (keepsSet op) else r.2
          .ok (r.1, doAcquire (releaseEpoch s4 uid c order) c order scope)))))

/-- An atomic's question to R144: aligned to its size, not in host memory. -/
def atomicAsk (ea : W64) (n : Nat) : Ask := { ea := ea, size := n, align := n, rd := true, wr := true, noHost := true }

/-- `stn4` (R152). The rule does not say whether the page must be readable: the model asks for the right to write alone (DESIGN CHOICE,
log 51). -/
def execStn4 (o : Long) (s : State) : Host.Outcome State Fault Refusal :=
  run (.stn4 o) (sigR (memBase o ++ useRaw 1 (regOpd o.kb o.sb) ++ useRaw 1 (.v o.dst.toNat))) (fun s uid tid c =>
    let j := opd32 c (regOpd o.kb o.sb)
    let ea := effAddr c o + (j >>> 1).setWidth 64
    andThen (rmwAt s uid tid c { ea := ea, size := 1, align := 1, rd := false, wr := true } o.order o.scope
      (.stn4 (j.getLsbD 0) ((readV c.th o.dst.toNat).val.toNat % 16))) (fun r => .done r.2)) s

/-- The operand of `atom` and `red`, and its register use. -/
def atomOpd (o : Long) (c : Cur) : Nat := opdNat c (atomSize o.sub.toNat == 8) (regOpd o.kb o.sb)
def atomUse (o : Long) : List RegUse := useTyped (if atomSize o.sub.toNat == 8 then 0x02 else 0x00) (regOpd o.kb o.sb)

/-- The old value of 4 or 8 bytes into registers tagged B32. -/
def oldRegs (n r v : Nat) : List (Nat × Reg) :=
  if n == 8 then result64 r (BitVec.ofNat 64 v) .b32 else result32 r (BitVec.ofNat 32 v) .b32

/-- `atom` (R158). -/
def execAtom (o : Long) (s : State) : Host.Outcome State Fault Refusal :=
  let n := atomSize o.sub.toNat
  run (.atom o) (sigR (memBase o ++ atomUse o ++ useDst o.dst.toNat (n / 4))) (fun s uid tid c =>
    andThen (rmwAt s uid tid c (atomicAsk (effAddr c o) n) o.order o.scope (.atom o.sub.toNat (atomOpd o c))) (fun r =>
      .done (applyWrites r.2 uid tid (outR (oldRegs n o.dst.toNat r.1))))) s

/-- `red` (R159). -/
def execRed (o : Long) (s : State) : Host.Outcome State Fault Refusal :=
  run (.red o) (sigR (memBase o ++ atomUse o)) (fun s uid tid c =>
    andThen (rmwAt s uid tid c (atomicAsk (effAddr c o) (atomSize o.sub.toNat)) o.order o.scope
      (.atom o.sub.toNat (atomOpd o c))) (fun r => .done r.2)) s

/-- Compare and new value of `cas`, at SB and above (R160). -/
def casOpds (o : Long) (c : Cur) : Nat × Nat :=
  let at_ := fun i => (opdReg c (regOpd o.kb o.sb) i).val.toNat
  if o.sub == 0x0B then (at_ 0 + at_ 1 * 2 ^ 32, at_ 2 + at_ 3 * 2 ^ 32) else (at_ 0, at_ 1)

/-- `cas` (R160). -/
def execCas (o : Long) (s : State) : Host.Outcome State Fault Refusal :=
  let wide := o.sub == 0x0B
  let n := if wide then 8 else 4
  run (.cas o) (sigR (memBase o ++ useRaw (if wide then 4 else 2) (regOpd o.kb o.sb) ++ useDst o.dst.toNat (n / 4)))
    (fun s uid tid c =>
      let p := casOpds o c
      andThen (rmwAt s uid tid c (atomicAsk (effAddr c o) n) o.order o.scope (.cas wide p.1 p.2)) (fun r =>
        .done (applyWrites r.2 uid tid (outR (oldRegs n o.dst.toNat r.1))))) s

/-- The type code of a `fatom` format (R161). -/
def fatomType (sub : Nat) : BitVec 6 :=
  match sub % 4 with
  | 0 => 0x10
  | 1 => 0x11
  | 2 => 0x12
  | _ => 0x13

/-- `fatom` (R161). -/
def execFatom (o : Long) (s : State) : Host.Outcome State Fault Refusal :=
  let t := fatomType o.sub.toNat
  let n := fatomSize o.sub.toNat
  let b := regOpd o.kb o.sb
  run (.fatom o) (sigR (memBase o ++ useTyped t b ++ (if o.flag then [] else useDst o.dst.toNat (n / 4)))) (fun s uid tid c =>
    andThen (rmwAt s uid tid c (atomicAsk (effAddr c o) n) o.order o.scope (.fatom o.sub.toNat (opdNat c (n == 8) b)))
      (fun r => .done (if o.flag then r.2
        else applyWrites r.2 uid tid (outR (resultAs t o.dst.toNat (BitVec.ofNat 64 r.1)))))) s

/-! ## Fences and cache maintenance (R163, R164) -/

/-- `fence` (R163). The thread goes on while its release part waits, and its acquire part follows that (R146). -/
def execFence (o : Long) (s : State) : Host.Outcome State Fault Refusal :=
  run (.fence o) {} (fun s uid tid c =>
    if c.th.rel.any (fun r => !r.own) then .hold s .release
    else
      andThen (goRelease s uid tid c o.order o.scope
        (fun _ r => { r with acquire := if hasAcquire o.order then some o.scope else none })
        (fun s1 => .ok (doAcquire s1 c o.order o.scope))) (fun s1 =>
          .done (loupeFence s1 uid tid o.scope (hasRelease o.order) (hasAcquire o.order)))) s

/-- The range of a `flush`: one line, or SB bytes (R164). -/
def flushRange (o : Long) (c : Cur) : W64 × Nat :=
  let ea := effAddr c o
  match o.form with
  | .cm => (ea, (opd32 c (regOpd o.kb o.sb)).toNat)
  | _ => (ea - BitVec.ofNat 64 (ea.toNat % 128), 128)

def flushUse (o : Long) : List RegUse :=
  memBase o ++ (match o.form with | .cm => useRaw 1 (regOpd o.kb o.sb) | _ => [])

/-- The thread's stores held for a range of device addresses: those whose pages the range translates to. -/
def flushKeys (s : State) (asid : Nat) (a : W64) (n : Nat) : List (Nat × Nat) :=
  (granulesFrom a n).filterMap (fun g =>
    let lo := max a.toNat (g * 65536)
    let hi := min (a.toNat + n) ((g + 1) * 65536)
    match walk s false (chainOf s asid) (lo % 2 ^ 57) with
    | .ok x => if isWindow a || !isCanonical (BitVec.ofNat 64 lo) then none else some (x.pa, hi - lo)
    | .error _ => none)

/-- The held stores of a core that touch any of the ranges are performed. -/
def performRanges (s : State) (core : Nat) (ks : List (Nat × Nat)) : State :=
  ks.foldl (fun st k => performThrough st core k.1 k.2) s

/-- Instructions of a range leave a core's instruction cache. -/
def dropIcache (s : State) (core asid : Nat) (a : W64) (n : Nat) : State :=
  if (getCore s core).icache.isEmpty then s
  else
    let lo := a.toNat - a.toNat % 128
    let hi := (a.toNat + n + 127) / 128 * 128
    modCore s core (fun c => { c with icache := c.icache.filter (fun e =>
      !(e.asid == asid && n != 0 && decide (e.pc.toNat < hi ∧ lo < e.pc.toNat + 4 * e.words.length))) })

/-- Cores of this chip that a flush at a scope names. -/
def flushCores (s : State) (c : Cur) (scope : BitVec 2) : List Nat :=
  if scope == 0 then [teamCore c.team]
  else (s.cores.filter (fun k => k.icache.any (fun e => e.asid == c.team.asid))).map (·.id)

/-- A write to another chip lies in one of the ranges. -/
def inRanges (ks : List (Nat × Nat)) (line : Nat) : Bool := ks.any (fun k => decide (k.1 / 128 ≤ line ∧ line * 128 < k.1 + k.2))

/-- The thread's stores to the ranges start to be performed: the writes to wait for. -/
def startRanges (s : State) (core : Nat) (ks : List (Nat × Nat)) : List Nat × State :=
  let s1 := performRanges s core ks
  let es := (getCore s1 core).wcb.filter (fun e => !e.win && inRanges ks e.line)
  let out := (getCore s1 core).outst.filter (fun o => o.pkt.kind == 0 && !o.pkt.win && inRanges ks (o.pkt.addr.toNat / 128))
  let s2 := es.foldl (fun st e => drainEntry st core e) s1
  ((es.map (·.id) ++ out.map (·.id)).filter (idLive s2 core), s2)

/-- Every entry of the write-combining buffer starts to drain: the writes to wait for. -/
def startDrain (s : State) (core : Nat) : List Nat × State :=
  let s1 := drainAll s core
  ((writeIds s core 1).filter (idLive s1 core), s1)

/-- `flush.icache` (R164). -/
def execFlushIcache (o : Long) (s : State) : Host.Outcome State Fault Refusal :=
  run (.flushIcache o) (sigR (flushUse o)) (fun s uid tid c =>
    let r := flushRange o c
    let scope := match o.form with | .cm => o.scope | _ => 0
    let core := teamCore c.team
    andThen (awaitWrites s uid tid core (fun st => startRanges st core (flushKeys st c.team.asid r.1 r.2))) (fun s1 =>
      .done ((flushCores s1 c scope).foldl (fun st k => dropIcache st k c.team.asid r.1 r.2) s1))) s

/-- `flush.near` (R164). -/
def execFlushNear (o : Long) (s : State) : Host.Outcome State Fault Refusal :=
  run (.flushNear o) (sigR (flushUse o)) (fun s _ _ c =>
    let r := flushRange o c
    let core := teamCore c.team
    let ks := flushKeys s c.team.asid r.1 r.2
    .done (modCore (performRanges s core ks) core (fun k => { k with near := k.near.filter (fun l =>
      !(l.asid == c.team.asid && ks.any (fun x => decide (x.1 < l.line * 128 + 128 ∧ l.line * 128 < x.1 + x.2)))) }))) s

/-- `flush.wcb` (R164). -/
def execFlushWcb (o : Long) (s : State) : Host.Outcome State Fault Refusal :=
  run (.flushWcb o) {} (fun s uid tid c =>
    let core := teamCore c.team
    andThen (awaitWrites s uid tid core (fun st => startDrain st core)) (fun s1 => .done s1)) s

/-! ## Sync words (R166) -/

/-- A sync-word access: a window address, aligned to 16. -/
def syncAsk (ea : W64) (wr : Bool) : Ask := { ea := ea, size := 16, align := 16, rd := true, wr := wr, winOnly := true }

/-- A sync-word instruction that writes: DST receives the generation before it. -/
def syncWrite (i : Instr) (o : Long) (op : Nat → HomeOp) (s : State) : Host.Outcome State Fault Refusal :=
  run i (sigR (memBase o ++ useTyped 0x01 (regOpd o.kb o.sb) ++ useDst o.dst.toNat 1)) (fun s uid tid c =>
    andThen (rmwAt s uid tid c (syncAsk (effAddr c o) true) o.order o.scope (op (opd32 c (regOpd o.kb o.sb)).toNat)) (fun r =>
      .done (applyWrites r.2 uid tid (outR (result32 o.dst.toNat (BitVec.ofNat 32 (syncOf r.1).gen) .b32))))) s

/-- `swarm` (R166). -/
def execSwarm (o : Long) (s : State) : Host.Outcome State Fault Refusal :=
  syncWrite (.swarm o) o (fun n => .swarm n o.flag) s

/-- `swadd` (R166). -/
def execSwadd (o : Long) (s : State) : Host.Outcome State Fault Refusal := syncWrite (.swadd o) o (fun n => .swadd n) s

/-- `swread` (R166). -/
def execSwread (o : Long) (s : State) : Host.Outcome State Fault Refusal :=
  run (.swread o) (sigR (memBase o ++ useDst o.dst.toNat 4)) (fun s uid tid c =>
    andThen (rmwAt s uid tid c (syncAsk (effAddr c o) false) o.order o.scope .swread) (fun r =>
      .done (applyWrites r.2 uid tid (outR (loadRegs 0x0C o.dst.toNat r.1))))) s

/-- The word of a `swwait` that has not changed: on this chip the thread waits at it, on another chip it asks again. -/
def swAgain (s : State) (uid tid : Nat) (c : Cur) (ea : W64) (site : Site) (g : Nat) : Act :=
  let s1 := modThread s uid tid (fun th => { th with reply := [] })
  if site.chip == chipId s then .hold s1 (.swwait (siteAddr site) (BitVec.ofNat 32 g))
  else
    match rmwSite s1 uid tid c ea site .swread with
    | .error (.hold s2 _) => .hold s2 .swfar
    | _ => .hold s1 .swfar

/-- `swwait` (R166, R167): it waits at the word while its generation is the expected one. -/
def execSwwait (o : Long) (s : State) : Host.Outcome State Fault Refusal :=
  run (.swwait o) (sigR (memBase o ++ useTyped 0x01 (regOpd o.kb o.sb) ++ useDst o.dst.toNat 1)) (fun s uid tid c =>
    let ea := effAddr c o
    let g := (opd32 c (regOpd o.kb o.sb)).toNat
    andThen (letPass s uid tid c (syncAsk ea false)) (fun p =>
      andThen (doRelease p.2 uid tid c o.order o.scope) (fun s1 =>
        match rmwSite s1 uid tid c ea p.1 .swread with
        | .error (.hold s2 .fabric) => .hold s2 .swfar
        | .error a => a
        | .ok r =>
          if (syncOf r.1).gen == g then swAgain r.2 uid tid c ea p.1 g
          else
            let s2 := releaseEpoch r.2 uid c o.order
            let s3 := carryRead s2 uid tid (siteSets s2 (teamCore c.team) c.team.asid p.1 16) o.scope (hasAcquire o.order)
            .done (applyWrites (doAcquire s3 c o.order o.scope) uid tid
              (outR (result32 o.dst.toNat (BitVec.ofNat 32 (syncOf r.1).gen) .b32)))))) s

end Sys2Proof.Machine
end

