-- ==== Sys2Proof/Machine/Barrier.lean ====
section
/-! DEFINITION. The barrier instructions: opcode 0xD0 (R176 to R178). -/

namespace Sys2Proof.Machine

open Sys2Proof

/-- Barrier number, operand x and its use (R176). -/
def barNo (o : Long) : Nat := o.sa.toNat % 16
def barX (o : Long) (c : Cur) : W32 :=
  match o.form with
  | .bi => o.imm.setWidth 32
  | _ => opd32 c (regOpd o.kb o.sb)
def barUse (o : Long) : List RegUse :=
  match o.form with
  | .bi => []
  | _ => useRaw 1 (regOpd o.kb o.sb)

def phaseOf (s : State) (uid nb : Nat) : Bool := ((getTeam s uid).map (fun t => (getBar t nb).ph)).getD false
def isFreed (s : State) (uid tid : Nat) : Bool := (((getTeam s uid).bind (fun t => getThread t tid)).map (·.freed)).getD false

/-- `bar.init` (R177). -/
def execBarInit (o : Long) (s : State) : Host.Outcome State Fault Refusal :=
  run (.barInit o) (sigR (barUse o)) (fun s uid _ c =>
    let x := barX o c
    if x.toNat == 0 || x.toNat > 4096 then .trap s (trapOf .reservedField)
    else .done (modTeam s uid (fun t =>
      let b := getBar t (barNo o)
      setBar t (barNo o) { b with exp := x.toNat, init := true, arv := 0, bcnt := 0, btgt := 0 }))) s

/-- `bar.exp` (R177). -/
def execBarExp (o : Long) (s : State) : Host.Outcome State Fault Refusal :=
  run (.barExp o) (sigR (barUse o)) (fun s uid _ c =>
    .done (tryComplete (modTeam s uid (fun t =>
      let b := getBar t (barNo o)
      setBar t (barNo o) { b with btgt := barX o c })) uid (barNo o))) s

/-- An arrival with its release part at `.tm` (R177). -/
def arrive (s : State) (uid tid nb : Nat) : State := arriveBar (loupeArrive s uid tid nb) uid tid nb

/-- `bar.arv` (R177). -/
def execBarArv (o : Long) (s : State) : Host.Outcome State Fault Refusal :=
  run (.barArv o) (sigR (useDst o.dst.toNat 1)) (fun s uid tid _ =>
    let ph := phaseOf s uid (barNo o)
    .done (applyWrites (arrive s uid tid (barNo o)) uid tid
      (outR (result32 o.dst.toNat (BitVec.ofNat 32 ph.toNat) .b32)))) s

/-- `bar.wait` (R177). -/
def execBarWait (o : Long) (s : State) : Host.Outcome State Fault Refusal :=
  run (.barWait o) (sigR (barUse o)) (fun s uid tid c =>
    let nb := barNo o
    let ph := (barX o c).getLsbD 0
    if isFreed s uid tid || phaseOf s uid nb != ph then .done (loupeReturn s uid tid nb) else .hold s (.bar nb ph)) s

/-- `bar.sync` (R177, R178): it arrives once, and waits for the end of the phase in which it arrived. -/
def execBarSync (o : Long) (s : State) : Host.Outcome State Fault Refusal :=
  run (.barSync o) {} (fun s uid tid c =>
    let nb := barNo o
    let wait := fun (st : State) (p : Bool) =>
      if isFreed st uid tid || phaseOf st uid nb != p then Act.done (loupeReturn st uid tid nb)
      else .hold (modThread st uid tid (fun th => { th with syncing := some (nb, p) })) (.bar nb p)
    match c.th.syncing with
    | some (_, p) => wait s p
    | none =>
      let p := phaseOf s uid nb
      wait (arrive s uid tid nb) p) s

/-- `bar.test` (R177). -/
def execBarTest (o : Long) (s : State) : Host.Outcome State Fault Refusal :=
  let pd := o.dst.toNat % 8
  run (.barTest o) (sigP (barUse o) [] [pd]) (fun s uid tid c =>
    let nb := barNo o
    let done := phaseOf s uid nb != (barX o c).getLsbD 0
    .done (applyWrites (if done then loupeReturn s uid tid nb else s) uid tid (outP pd done))) s

end Sys2Proof.Machine
end

