-- ==== Sys2Proof/Machine/Matrix.lean ====
section
/-! DEFINITION. Matrix operations and the accumulators: opcodes 0xD4 to 0xD9 (R179 to R187), the matrix unit's k-blocks and
continuation blocks (R293 to R297). -/

namespace Sys2Proof.Machine

open Sys2Proof

/-! ## Accumulator tiles (R184) -/

/-- Entry at row r, column k of a tile; an entry that is not listed holds +0. -/
def tileGet (tile : List (Nat × W32)) (i : Nat) : W32 := (getKey tile i).getD 0
def tilePut (tile : List (Nat × W32)) (i : Nat) (v : W32) : List (Nat × W32) :=
  if v == 0 then tile.filter (fun p => p.1 != i) else putKey tile i v

def holdsTile (t : Team) (n : Nat) : Bool := decide (n < t.tiles.length)
def getTile (t : Team) (n : Nat) : List (Nat × W32) := t.tiles.getD n []
def setTile (t : Team) (n : Nat) (tile : List (Nat × W32)) : Team := { t with tiles := t.tiles.set n tile }

/-- A PENDING or RUNNING matrix operation targets the tile (R187). -/
def tileBusy (s : State) (t : Team) (n : Nat) : Bool :=
  (allTokens s).any (fun p => p.2.team == t.uid && (p.2.st == .pending || p.2.st == .running) &&
    (match p.2.op with
     | .mma m _ => m.tile == n
     | _ => false))

/-! ## Parameter blocks -/

/-- The arrival word's own rule (R175): reserved bits, the limit of SWO, and fields that the MODE does not use. -/
def arriveOk (a : W32) : Bool :=
  bitsAt a.toNat 31 27 == 0 && decide (bitsAt a.toNat 26 6 < 1835008)
    && (arriveMode a == 3 || bitsAt a.toNat 26 6 == 0) && (arriveMode a == 1 || arriveMode a == 2 || arriveBarNo a == 0)

/-- A window address in the issuing core's own slice. -/
def inOwnSlice (s : State) (t : Team) (a : Nat) : Bool :=
  let w := BitVec.ofNat 64 a
  isWindow w && winChip w == chipId s && winCore w == teamCore t

/-- Offset of the team's scratch, and the address lies within the scratch allocation (R296). -/
def scratchBase (t : Team) : Nat := t.grant0 * 65536
def inScratch (s : State) (t : Team) (a : Nat) : Bool :=
  inOwnSlice s t a && decide (scratchBase t ≤ winOff (BitVec.ofNat 64 a) ∧ winOff (BitVec.ofNat 64 a) < scratchBase t + t.scr * 65536)

def fieldW (n hi lo : Nat) : Nat := bitsAt n hi lo

/-- The MPB (R180). -/
def mpbOf (n : Nat) : MmaOp :=
  let f := bitsAt n
  { abase := f 63 0, bbase := f 127 64, sabase := f 191 128, sbbase := f 255 192, idxb := f 319 256, cbaddr := f 383 320,
    k := f 415 384, m := f 424 416 + 1, n := f 432 425 + 1, afmt := f 435 433, bfmt := f 438 436, sck := f 441 439,
    acc := f 442 442 == 1, tile := f 443 443, row0 := f 452 444, col0 := f 460 453, astr := f 511 480, bstr := f 543 512,
    sastr := f 559 544, sbstr := f 575 560, arrive := BitVec.ofNat 32 (f 607 576), idx := [] }

/-- Format pairs of R181. -/
def mmaFormats (m : MmaOp) : Bool :=
  (m.afmt ≤ 2 && m.bfmt ≤ 2) || (m.sck == 0 && (m.afmt == 3 || m.afmt == 4) && (m.bfmt == 3 || m.bfmt == 4))
    || (m.sck == 0 && m.afmt == m.bfmt && 5 ≤ m.afmt)

def isNibble (f : Nat) : Bool := f == 2 || f == 4

/-- The rules of R180, R181 and R296, each with its offset. -/
def mpbRules (s : State) (t : Team) (n : Nat) (m : MmaOp) : List (Bool × Nat) :=
  let own := inOwnSlice s t
  let scr := fun (a : Nat) => m.cbaddr == 0 || inScratch s t a
  [ (m.abase % 16 == 0 && own m.abase && scr m.abase, 0),
    (m.bbase % 16 == 0 && own m.bbase && scr m.bbase, 8),
    (if m.sck == 0 then m.sabase == 0 else own m.sabase && scr m.sabase, 16),
    (if m.sck == 0 then m.sbbase == 0 else own m.sbbase && scr m.sbbase, 24),
    (m.idxb == 0 || (m.idxb % 16 == 0 && own m.idxb && scr m.idxb), 32),
    (m.cbaddr == 0 || (m.cbaddr % 64 == 0 && own m.cbaddr && scr m.cbaddr), 40),
    (m.k != 0 && (m.k % 2 == 0 || !(isNibble m.afmt || isNibble m.bfmt)), 48),
    (decide (m.row0 + m.m ≤ 384), 52),
    (decide (m.col0 + m.n ≤ 256), 53),
    (decide (m.sck ≤ 4) && mmaFormats m, 54),
    (holdsTile t m.tile, 55),
    (bitsAt n 479 461 == 0, 57),
    (m.astr % 16 == 0, 60),
    (m.bstr % 16 == 0, 64),
    (arriveOk m.arrive, 72),
    (bitsAt n 1023 608 == 0, 76) ]

/-- 16-bit entries of an index vector. -/
def pairsOf : List Byte → List Nat
  | a :: b :: r => (a.toNat + 256 * b.toNat) :: pairsOf r
  | _ => []

/-- The index vector, read at issue (R182). -/
def readIndex (s : State) (uid tid : Nat) (c : Cur) (m : MmaOp) : Except Act (MmaOp × State) :=
  if m.idxb == 0 then .ok (m, s)
  else orStop (readRange s uid tid c (BitVec.ofNat 64 m.idxb) (2 * m.m)) (fun p => .ok ({ m with idx := pairsOf p.1 }, p.2))

/-! ## Creation (R173, R174) -/

/-- Scope of a token as its MOD gives it. -/
def tokenScope (o : Long) : BitVec 2 := o.mod.extractLsb' 2 2

/-- What is ordered before a token that a thread creates (R266). -/
def creationSet (s : State) (uid tid : Nat) : List LEntry :=
  match getTeam s uid with
  | none => []
  | some t => if loupeOn s t.asid then ((getThread t tid).map (fun th => releaseSet t th tid)).getD [] else []

/-- A token created by one thread, after the release part at its scope: handle and state. -/
def createOne (s : State) (uid tid : Nat) (c : Cur) (o : Long) (op : Op) : Except Act (W32 × State) :=
  orStop (releasePart s uid tid (teamCore c.team) c.team.asid (tokenScope o)) (fun s1 =>
    match getTeam s1 uid with
    | none => .error (.left s1)
    | some t =>
      let r := createToken s1 t tid o.mod (creationSet s1 uid tid) op
      .ok (r.1, if loupeOn r.2 t.asid then advanceEpoch r.2 uid else r.2))

/-- The handle in DST. -/
def putHandle (s : State) (uid tid : Nat) (o : Long) (h : W32) : State :=
  applyWrites s uid tid (outR (result32 o.dst.toNat h .b32))

/-- `mma` (R179 to R182). -/
def execMma (o : Long) (s : State) : Host.Outcome State Fault Refusal :=
  run (.mma o) (sigR (useRaw 2 (srcA o) ++ useDst o.dst.toNat 1)) (fun s uid tid c =>
    let ea := opd64 c (srcA o)
    if !tokenRoom s c.team then .hold s .room
    else
      andThen (readBlock s uid tid c ea 128) (fun p =>
        let m := mpbOf p.1
        match firstOffset (mpbRules p.2 c.team p.1 m) with
        | some off => .trap p.2 (blockTrap ea off)
        | none =>
          andThen (readIndex p.2 uid tid c m) (fun q =>
            andThen (createOne q.2 uid tid c o (.mma q.1 false)) (fun r => .done (putHandle r.2 uid tid o r.1))))) s

/-! ## Continuation blocks (R296, R297) -/

/-- The block without its CHECK word. -/
def contNat (t : Team) (m : MmaOp) (h : W32) : Nat :=
  let off := fun (a : Nat) => winOff (BitVec.ofNat 64 a) - scratchBase t
  h.toNat * 2 ^ 448 + m.knext * 2 ^ 416 + m.k * 2 ^ 384 + off m.abase * 2 ^ 356 + off m.bbase * 2 ^ 328
    + (if m.sck == 0 then 0 else off m.sabase) * 2 ^ 300 + (if m.sck == 0 then 0 else off m.sbbase) * 2 ^ 272
    + (if m.idxb == 0 then 0 else off m.idxb) * 2 ^ 244 + m.arrive.toNat * 2 ^ 212 + m.astr * 2 ^ 180 + m.bstr * 2 ^ 148
    + m.sastr * 2 ^ 132 + m.sbstr * 2 ^ 116 + (m.n - 1) * 2 ^ 108 + (m.m - 1) * 2 ^ 99 + m.row0 * 2 ^ 90 + m.col0 * 2 ^ 82
    + m.tile * 2 ^ 81 + m.sck * 2 ^ 78 + m.bfmt * 2 ^ 75 + m.afmt * 2 ^ 72 + (m.idxb != 0).toNat * 2 ^ 71 + m.acc.toNat * 2 ^ 70

/-- CHECK over bits [479:0], with the context's private value. -/
def contCheck (s : State) (asid n : Nat) : Nat :=
  (Config.checkWord (((getCtx s asid).map (·.keyId)).getD 0) [n % 2 ^ 480]).toNat % 2 ^ 32

/-- The operation that a block describes, for a team's current scratch; `cb` is the block's own address. -/
def contOp (s : State) (t : Team) (n : Nat) (cb : W64) : MmaOp :=
  let f := bitsAt n
  let at_ := fun (off : Nat) => (windowAddr (chipId s) (teamCore t) (scratchBase t + off)).toNat
  let sck := f 80 78
  { abase := at_ (f 383 356), bbase := at_ (f 355 328), sabase := if sck == 0 then 0 else at_ (f 327 300),
    sbbase := if sck == 0 then 0 else at_ (f 299 272), idxb := if f 71 71 == 1 then at_ (f 271 244) else 0,
    cbaddr := cb.toNat, k := f 415 384, m := f 107 99 + 1, n := f 115 108 + 1, afmt := f 74 72, bfmt := f 77 75, sck := sck,
    acc := f 70 70 == 1, tile := f 81 81, row0 := f 98 90, col0 := f 89 82, astr := f 211 180, bstr := f 179 148,
    sastr := f 147 132, sbstr := f 131 116, arrive := BitVec.ofNat 32 (f 243 212), idx := [], knext := f 447 416 }

/-- The checks of R183: 1 not SPLIT or not owned, 2 already resumed, 3 check word. -/
def mmacFails (s : State) (asid n : Nat) : Option Nat :=
  match findToken s asid (BitVec.ofNat 32 (bitsAt n 479 448)) with
  | none => some 1
  | some p =>
    if p.2.st != .split then some 1
    else if p.2.cont.isSome then some 2
    else if bitsAt n 511 480 != contCheck s asid n then some 3
    else none

/-- The split token names its continuation, and the continuation the split token (R183, R297). -/
def linkCont (s : State) (asid : Nat) (og : Option (Nat × Token)) (new : W32) : State :=
  match og with
  | none => s
  | some og =>
    let s1 := modToken s og.1 og.2.slot (fun tk => { tk with cont := some new })
    match findToken s1 asid new with
    | some nw => modToken s1 nw.1 nw.2.slot (fun tk => { tk with
        orig := some (tokenHandle s1 og.1 og.2)
        seat := if inOrder og.2 then some ((orderKey og.2).1, (orderKey og.2).2, placeOf og.2) else none })
    | none => s1

/-- `mmac` (R183, R297). -/
def execMmac (o : Long) (s : State) : Host.Outcome State Fault Refusal :=
  run (.mmac o) (sigR (useRaw 2 (srcA o) ++ useDst o.dst.toNat 1)) (fun s uid tid c =>
    let ea := opd64 c (srcA o)
    if !tokenRoom s c.team then .hold s .room
    else
      andThen (readBlock s uid tid c ea 64) (fun p =>
        let h := BitVec.ofNat 32 (bitsAt p.1 479 448)
        match mmacFails p.2 c.team.asid p.1 with
        | some k => .trap p.2 { cause := .tokenFault, aux := h.toNat + k * 2 ^ 32 }
        | none =>
          let m := contOp p.2 c.team p.1 ea
          if !holdsTile c.team m.tile then .trap p.2 (trapOf .permission)
          else
            andThen (readIndex p.2 uid tid c m) (fun q =>
              andThen (createOne q.2 uid tid c o (.mma q.1 true)) (fun r =>
                .done (putHandle (linkCont r.2 c.team.asid (findToken p.2 c.team.asid h) r.1) uid tid o r.1))))) s

/-! ## Accumulator instructions (R185 to R187) -/

def accEntries : Nat := 98304

/-- Checks of an entry index: in range, the tile held, no operation on it. -/
def accIndex (s : State) (c : Cur) (e : Nat) (f : Nat → Nat → Act) : Act :=
  if e ≥ 2 * accEntries then .trap s (trapOf .reservedField)
  else if !holdsTile c.team (e / accEntries) then .trap s (trapOf .permission)
  else if tileBusy s c.team (e / accEntries) then .hold s .tile
  else f (e / accEntries) (e % accEntries)

def accE (o : Long) (c : Cur) : Nat := (opd32 c (srcA o)).toNat + (match o.form with | .c => o.imm.toNat | _ => 0)

def accTag (o : Long) : Tag := if o.sub == 0x10 then .f32 else .b32

/-- `accrd` (R185). -/
def execAccrd (o : Long) (s : State) : Host.Outcome State Fault Refusal :=
  run (.accrd o) (sigR (useTyped 0x01 (srcA o) ++ useDst o.dst.toNat 1)) (fun s uid tid c =>
    accIndex s c (accE o c) (fun n i =>
      let v := ((getTeam s uid).map (fun t => tileGet (getTile t n) i)).getD 0
      .done (applyWrites s uid tid (outR (result32 o.dst.toNat v (accTag o)))))) s

/-- `accwr` (R185). -/
def execAccwr (o : Long) (s : State) : Host.Outcome State Fault Refusal :=
  run (.accwr o) (sigR (useTyped 0x01 (srcA o) ++ useRaw 1 (regOpd o.kb o.sb))) (fun s uid _ c =>
    accIndex s c (accE o c) (fun n i =>
      .done (modTeam s uid (fun t => setTile t n (tilePut (getTile t n) i (opd32 c (regOpd o.kb o.sb))))))) s

/-- Rows of a descriptor: first row, count, tile; none where it breaks its rules (R185). -/
def accRows (d : W32) : Option (Nat × Nat × Nat) :=
  let r := bitsAt d.toNat 8 0
  let n := bitsAt d.toNat 17 9 + 1
  if bitsAt d.toNat 31 19 != 0 || decide (r + n > 384) then none else some (r, n, bitsAt d.toNat 18 18)

/-- `accclr` (R185). -/
def execAccclr (o : Long) (s : State) : Host.Outcome State Fault Refusal :=
  let useA := match o.form with | .bi => [] | _ => useTyped 0x01 (srcA o)
  let useB := match o.form with | .c => useRaw 1 (regOpd o.kb o.sb) | _ => []
  run (.accclr o) (sigR (useA ++ useB)) (fun s uid _ c =>
    let d := match o.form with
      | .bi => some (0, 384, o.imm.toNat % 2)
      | _ => accRows (opd32 c (srcA o))
    let fill : W32 := match o.form with | .c => opd32 c (regOpd o.kb o.sb) | _ => 0
    match d with
    | none => .trap s (trapOf .reservedField)
    | some (r, n, tile) =>
      if !holdsTile c.team tile then .trap s (trapOf .permission)
      else if tileBusy s c.team tile then .hold s .tile
      else
        .done (modTeam s uid (fun t =>
          let rest := (getTile t tile).filter (fun p => decide (p.1 < r * 256 ∨ (r + n) * 256 ≤ p.1))
          let new := if fill == 0 then [] else (List.range (n * 256)).map (fun i => (r * 256 + i, fill))
          setTile t tile (new ++ rest)))) s

/-- Bytes of a stored element, and its bits (R186). `.sat` acts on the conversions; an F32 entry is stored as it is, an infinity included, since
the spec gives no conversion of F32 to F32 (R43, log 53). -/
def accSize (sub : BitVec 6) : Nat :=
  if sub == 0x12 || sub == 0x13 then 2 else if sub == 0x14 || sub == 0x15 then 1 else 4
def accBits (sub : BitVec 6) (mode r : Nat) (sat : Bool) (v : W32) : Nat :=
  let conv := fun d => convertFloat fmtF32 d mode r sat v.toNat
  if sub == 0x12 then conv fmtF16
  else if sub == 0x13 then conv fmtBF16
  else if sub == 0x14 then conv fmtE4M3
  else if sub == 0x15 then conv fmtE5M2
  else v.toNat

/-- The elements of the region stored one after another, each a `.rlx` store of its own. -/
def accStore (uid tid : Nat) (c : Cur) (o : Long) (tile : List (Nat × W32)) (row0 : Nat) : List Nat → State → Except Act State
  | [], s => .ok s
  | i :: rest, s =>
    if (replyOf s uid tid (byteDone i)).isSome then accStore uid tid c o tile row0 rest s
    else
      let n := accSize o.sub
      let rowBytes := match o.form with | .c => 128 * o.imm.toNat | _ => 256 * n
      let ea := opd64 c (srcA o) + BitVec.ofNat 64 (i / 256 * rowBytes + i % 256 * n)
      let rnd := if o.rnd == 4 then blockBits c.th.seed i else 0
      let v := accBits o.sub o.rnd rnd o.sat (tileGet tile (row0 * 256 + i))
      orStop (letPass s uid tid c { ea := ea, size := n, align := n, rd := false, wr := true }) (fun p =>
        orStop (storeSite p.2 uid tid c ea p.1 n 0 0 ((List.range n).zip (natBytes n v))) (fun s1 =>
          accStore uid tid c o tile row0 rest (markDone s1 uid tid i [])))

/-- `accst` (R186). -/
def execAccst (o : Long) (s : State) : Host.Outcome State Fault Refusal :=
  run (.accst o) (sigR (useRaw 2 (srcA o) ++ useTyped 0x01 (regOpd o.kb o.sb))) (fun s uid tid c =>
    match accRows (opd32 c (regOpd o.kb o.sb)) with
    | none => .trap s (trapOf .reservedField)
    | some (r, n, tile) =>
      if !holdsTile c.team tile then .trap s (trapOf .permission)
      else if tileBusy s c.team tile then .hold s .tile
      else
        andThen (accStore uid tid c o (getTile c.team tile) r (List.range (n * 256)) s) (fun s1 =>
          .done (if o.rnd == 4 then modThread s1 uid tid (fun th => { th with seed := c.th.seed + 1 }) else s1))) s

/-! ## The matrix unit (R293 to R295) -/

/-- Bits of an element of a format code (R180). -/
def mmaBits (f : Nat) : Nat :=
  match f with
  | 2 => 4
  | 4 => 4
  | 5 => 16
  | 6 => 16
  | 7 => 32
  | _ => 8

def mmaNum (f c : Nat) : Num :=
  match f with
  | 0 => decodeNum fmtE4M3 c
  | 1 => decodeNum fmtE5M2 c
  | 2 => decodeNum fmtE2M1 c
  | 5 => decodeNum fmtF16 c
  | 6 => decodeNum fmtBF16 c
  | _ => decodeNum fmtF32 c

def mmaInts (m : MmaOp) : Bool := m.afmt == 3 || m.afmt == 4

/-- Elements per scale block, and the value of a scale byte (R180). -/
def scaleBlock (m : MmaOp) : Nat := if m.sck == 2 || m.sck == 3 then 16 else 32
def scaleOf (m : MmaOp) (c : Nat) : Num := if m.sck == 1 || m.sck == 2 then scaleE8 c else scaleE4M3 c

/-- g(i) of R182. -/
def rowIndex (m : MmaOp) (i : Nat) : Nat := if m.idxb == 0 then i else m.idx.getD i 0

/-- Scale bytes consumed and laid out (R294); they differ exactly when a stride is shorter than a row's need. -/
def scaleCounts (m : MmaOp) : Nat × Nat :=
  let need := (m.k + scaleBlock m - 1) / scaleBlock m
  let lim := fun (st : Nat) => if st == 0 then need else min need st
  (need * (m.m + m.n), m.m * lim m.sastr + m.n * lim m.sbstr)

/-- Why an engine access stops, with the address it concerns: a fault that ends the token, a replayable miss, or a translation
asked of the host. -/
inductive EngStop where
  | fault (r : TokRec)
  | miss (a : W64) (stage : Nat) (wr : Bool)
  | ats (rq : AtsReq) (rd wr : Bool)
  | wait
  deriving DecidableEq, Repr

/-- The token record of a failing check of R144 (R292). -/
def engineRecord (s : State) (core : Nat) (tk : Token) (t : Trap) : TokRec :=
  { recordFor s core tk t.cause with addr := t.addr, wr := t.wr }

/-- Checks of an engine access to bytes of one line. -/
def engineSite (s : State) (core : Nat) (tk : Token) (shadow : Bool) (a : W64) (n : Nat) (wr : Bool) :
    Except EngStop Site × State :=
  match checkSite s tk.asid { ea := a, size := n, align := 1, rd := !wr, wr := wr, shadow := shadow } with
  | (.ok site, s1) => (.ok site, s1)
  | (.error (.ats rq), s1) => (.error (.ats rq (!wr) wr), s1)
  | (.error (.trap t), s1) =>
    if t.rpl then (.error (.miss a t.stage wr), s1) else (.error (.fault { engineRecord s1 core tk t with wr := wr }), s1)

/-- Bytes of the unit's own slice, at [a, a + n) line by line: an error is the record of the first fault. -/
def sliceBytes (core : Nat) (tk : Token) : Nat → State → W64 → Nat → List Byte → Except TokRec (List Byte)
  | 0, _, _, _, acc => .ok acc
  | f + 1, s, a, n, acc =>
    if n == 0 then .ok acc
    else
      let k := min n (128 - a.toNat % 128)
      match engineSite s core tk false a k false with
      | (.ok site, s1) =>
        if poisoned s1 site.key k then .error { recordFor s1 core tk .uncorrectable with addr := a }
        else sliceBytes core tk f s (a + BitVec.ofNat 64 k) (n - k) (acc ++ readKey s1 site.key k)
      | (.error (.fault r), _) => .error r
      | (.error _, _) => .error (recordFor s core tk .dataFault)

/-- The elements of one row or column for the k-block: from element e, count of them. -/
def operandElems (s : State) (core : Nat) (tk : Token) (fmt base e count : Nat) : Except TokRec (List Nat) :=
  let w := mmaBits fmt
  let lo := e * w / 8
  let bytes := (count * w + 7) / 8
  match sliceBytes core tk (bytes / 128 + 3) s (BitVec.ofNat 64 (base + lo)) bytes [] with
  | .ok bs => .ok (elements w count (bytesNat bs))
  | .error r => .error r

/-- The scale values of a row or column for elements [e, e + count). -/
def operandScales (s : State) (core : Nat) (tk : Token) (m : MmaOp) (base e count : Nat) : Except TokRec (List Num) :=
  if m.sck == 0 then .ok []
  else
    let b := scaleBlock m
    let first := e / b
    let blocks := (e + count + b - 1) / b - first
    match sliceBytes core tk 4 s (BitVec.ofNat 64 (base + first)) blocks [] with
    | .ok bs => .ok (bs.map (fun x => scaleOf m x.toNat))
    | .error r => .error r

/-- One line of operands: elements with their scales. -/
structure Strip where
  elems  : List Nat
  scales : List Num
  deriving DecidableEq, Repr

/-- Strips of all rows or columns; a fault carries the row as UNIT where it has one. -/
def gatherStrips (s : State) (core : Nat) (tk : Token) (m : MmaOp) (isRow : Bool) (e count : Nat) : List Nat →
    Except TokRec (List Strip)
  | [] => .ok []
  | i :: r =>
    let g := if isRow then rowIndex m i else i
    let fmt := if isRow then m.afmt else m.bfmt
    let base := if isRow then m.abase + g * m.astr else m.bbase + g * m.bstr
    let sbase := if isRow then m.sabase + g * m.sastr else m.sbbase + g * m.sbstr
    let unit := fun (x : TokRec) => if isRow then { x with unit := BitVec.ofNat 16 i } else x
    match operandElems s core tk fmt base e count with
    | .error x => .error (unit x)
    | .ok es =>
      match operandScales s core tk m sbase e count with
      | .error x => .error (unit x)
      | .ok ss =>
        match gatherStrips s core tk m isRow e count r with
        | .error x => .error x
        | .ok l => .ok ({ elems := es, scales := ss } :: l)

/-- The value of an element with its scale (R48). -/
def stripNum (m : MmaOp) (fmt : Nat) (st : Strip) (j : Nat) : Num :=
  let x := mmaNum fmt (st.elems.getD j 0)
  if m.sck == 0 then x else scaleNum (st.scales.getD (j / scaleBlock m) .nan) x

/-- One entry after a k-block (R50, R52). -/
def entryAfter (m : MmaOp) (count : Nat) (a b : Strip) (old : W32) : W32 :=
  if mmaInts m then
    let z := (List.range count).foldl (fun z j =>
      z + toSigned (mmaBits m.afmt) (a.elems.getD j 0) * toSigned (mmaBits m.bfmt) (b.elems.getD j 0)) (old.toInt)
    BitVec.ofInt 32 z
  else
    let terms := (List.range count).map (fun j => mulNum (stripNum m m.afmt a j) (stripNum m m.bfmt b j))
    BitVec.ofNat 32 (roundNum fmtF32 0 0 false (sumExact (decodeNum fmtF32 old.toNat :: terms)))

/-- All entries of the region after a k-block, together (R295). -/
def tileAfter (m : MmaOp) (count : Nat) (as bs : List Strip) (tile : List (Nat × W32)) : List (Nat × W32) :=
  let start := fun (v : W32) => if m.knext == 0 && !m.acc then 0 else v
  ((List.range as.length).zip as).foldl (fun t ra =>
    ((List.range bs.length).zip bs).foldl (fun t cb =>
      let i := (m.row0 + ra.1) * 256 + m.col0 + cb.1
      tilePut t i (entryAfter m count ra.2 cb.2 (start (tileGet tile i)))) t) tile

/-- The split of R296: the continuation block is written and the token is SPLIT. -/
def splitToken (s : State) (core : Nat) (tk : Token) (t : Team) (m : MmaOp) : State :=
  let n := contNat t m (tokenHandle s core tk)
  let full := n + contCheck s tk.asid n * 2 ^ 480
  let s1 := homeWrite s tk.asid (sliceKey (winCore (BitVec.ofNat 64 m.cbaddr)) (winOff (BitVec.ofNat 64 m.cbaddr))) (natBytes 64 full)
  setToken s1 core { tk with st := .split, splitting := false }

/-- The end of a cycle in which an operation reached its split point: a cancel of the same cycle comes first (R282). -/
def splitPoint (s : State) (core : Nat) (tk : Token) : State :=
  match tk.op, getTeam s tk.team with
  | .mma m _, some t =>
    if !tk.splitting || tk.st != .running then s
    else if tk.cxl then endToken s core tk.slot .cancelled none
    else splitToken s core tk t m
  | _, _ => s

/-- What a k-block charges (R413): class 2 in eighths of a unit by the wider operand, and the scratch lines of its operands. -/
def kBlockCharge (s : State) (tk : Token) (m : MmaOp) (e count : Nat) : State :=
  let factor := fun (fmt : Nat) => match mmaBits fmt with
    | 4 => 1
    | 8 => 2
    | 16 => 4
    | _ => 16
  let macs := m.m * m.n * count * max (factor m.afmt) (factor m.bfmt)
  let lines := fun (fmt base : Nat) =>
    let lo := base + e * mmaBits fmt / 8
    (lo + (count * mmaBits fmt + 7) / 8 - 1) / 128 + 1 - lo / 128
  let rows := ((List.range m.m).map (fun i => lines m.afmt (m.abase + rowIndex m i * m.astr))).sum
  let cols := ((List.range m.n).map (fun j => lines m.bfmt (m.bbase + j * m.bstr))).sum
  charge (addDue s tk.asid (energyWeight s 2 * macs / 2048)) tk.asid 3 (rows + cols)

/-- The end of a k-block (R289, R295, R301): the entries change together, and the token ends, splits or goes on. -/
def kBlock (s : State) (core : Nat) (tk : Token) (m : MmaOp) (cont : Bool) (t : Team) : State :=
  let cnt := scaleCounts m
  if m.sck != 0 && cnt.1 != cnt.2 then
    endToken s core tk.slot .faulted (some { recordFor s core tk .streamDesync with
      aux := BitVec.ofNat 256 (cnt.1 % 2 ^ 32 + cnt.2 % 2 ^ 32 * 2 ^ 32 + m.knext * 2 ^ 64) })
  else
    let e := 32 * m.knext
    let count := min 32 (m.k - e)
    let strips := match gatherStrips s core tk m true e count (List.range m.m) with
      | .error r => Except.error r
      | .ok as =>
        match gatherStrips s core tk m false e count (List.range m.n) with
        | .error r => .error r
        | .ok bs => .ok (as, bs)
    match strips with
    | .error r => endToken s core tk.slot .faulted (some r)
    | .ok (as, bs) =>
      let s1 := modTeam (kBlockCharge s tk m e count) t.uid (fun t => setTile t m.tile (tileAfter m count as bs (getTile t m.tile)))
      let m1 := { m with knext := m.knext + 1 }
      let tk1 := { tk with op := .mma m1 cont, age := 0 }
      let s2 := setToken s1 core tk1
      if e + count ≥ m.k then
        match getToken (countBytes s2 core tk1 m.arrive (4 * m.m * m.n)) core tk.slot with
        | some _ => endToken (countBytes s2 core tk1 m.arrive (4 * m.m * m.n)) core tk.slot .done none
        | none => s2
      else if revoking s2 tk.asid then revokeToken s2 core tk1
      else if tk.cxl then endToken s2 core tk.slot .cancelled none
      else if tokenHeld s2 core tk1 && m.cbaddr != 0 then setToken s2 core { tk1 with splitting := true }
      else s2

end Sys2Proof.Machine
end

