-- ==== Sys2Proof/Machine/Engine.lean ====
section
/-! DEFINITION. The tile-walk engine's accesses (R269, R271, R273, R298 to R300): reads and writes of an operation's bytes line by
line, on this chip or by fabric requests, and the faults that a token waits on or ends with (R292, R343, R345, R388). -/

namespace Sys2Proof.Machine

open Sys2Proof

/-! ## Reads and writes -/

/-- The model's name of a line of another chip. -/
def lineTag (chip : Nat) (win : Bool) (addr : Nat) : Nat := chip * 2 ^ 70 + win.toNat * 2 ^ 69 + addr / 128
def siteTag (site : Site) : Nat := lineTag site.chip site.win (siteAddr site)

/-- [a, a + n) cut at the boundaries of 128-byte lines. -/
def cutLines : Nat → W64 → Nat → List (W64 × Nat)
  | 0, _, _ => []
  | f + 1, a, n =>
    if n == 0 then []
    else
      let k := min n (128 - a.toNat % 128)
      (a, k) :: cutLines f (a + BitVec.ofNat 64 k) (n - k)

def linesOf (a : W64) (n : Nat) : List (W64 × Nat) := cutLines (n / 128 + 2) a n

/-- A line of another chip asked for an operation, once, behind what the core's threads have written to it (R174). -/
def askLine (s0 : State) (core : Nat) (tk : Token) (asker : Asker) (site : Site) : State :=
  let s := drainLine s0 core site
  let a := siteAddr site
  let p := requestPacket s tk.asid core site.chip site.core 1 (a - a % 128) site.win false []
  if (getCore s core).outst.any (fun o => o.asker == asker && o.pkt.addr == p.addr && o.pkt.win == p.win && o.peer == site.chip)
      || !(lineEntries s core site).isEmpty || !requestRoom s core site.chip 3 then s
  else sendRequest s core site.chip p asker [] 3

/-- A piece within one line made ready: its checks pass, and its bytes are at hand where it is read. Engine writes reach the
shadow frame, engine reads the visible one (R271). -/
def touchPiece (s : State) (core : Nat) (tk : Token) (lines : List (Nat × List Byte)) (asker : Asker) (wr : Bool) (a : W64) (n : Nat) :
    Except EngStop Unit × State :=
  match engineSite s core tk wr a n wr with
  | (.error e, s1) => (.error e, s1)
  | (.ok site, s1) =>
    let bad := EngStop.fault { recordFor s1 core tk .uncorrectable with addr := a }
    if site.chip == chipId s1 then
      if !wr && poisoned s1 site.key n then (.error bad, s1)
      else
        match tokenLoupe s1 tk site (List.range n) wr with
        | .error p =>
          (.error (.fault { recordFor s1 core tk .race with
            addr := a, wr := wr, aux := BitVec.ofNat 256 (entryBits p.1 * 2 ^ 128 + entryBits p.2) }), s1)
        | .ok s2 => (.ok (), s2)
    else if wr then
      let s2 := drainLine s1 core site
      (if (lineEntries s2 core site).isEmpty && requestRoom s2 core site.chip 0 then .ok () else .error .wait, s2)
    else
      match getKey lines (siteTag site) with
      | some bs => (if bs.length < 128 then .error bad else .ok (), s1)
      | none => (.error .wait, askLine s1 core tk asker site)

/-- Pieces in order; the first that is not ready stops. -/
def touchPieces (core : Nat) (tk : Token) (lines : List (Nat × List Byte)) (asker : Asker) (wr : Bool) :
    List (W64 × Nat) → State → Except EngStop Unit × State
  | [], s => (.ok (), s)
  | (a, n) :: r, s =>
    match touchPiece s core tk lines asker wr a n with
    | (.ok _, s1) => touchPieces core tk lines asker wr r s1
    | (.error .wait, s1) =>
      -- the other lines are asked for together with this one
      match touchPieces core tk lines asker wr r s1 with
      | (.error (.fault x), s2) => (.error (.fault x), s2)
      | (_, s2) => (.error .wait, s2)
    | (.error e, s1) => (.error e, s1)

/-- Bytes of pieces that are ready. -/
def fetchPieces (core : Nat) (tk : Token) (lines : List (Nat × List Byte)) : List (W64 × Nat) → State → List Byte × State
  | [], s => ([], s)
  | (a, n) :: r, s =>
    let one : List Byte × State :=
      match engineSite s core tk false a n false with
      | (.ok site, s1) =>
        if site.chip == chipId s1 then
          let s2 := performThrough s1 core site.key n
          (readKey s2 site.key n, chargeLines s2 tk.asid site.key n)
        else ((((getKey lines (siteTag site)).getD []).drop (siteAddr site % 128)).take n, s1)
      | (.error _, s1) => (List.replicate n 0, s1)
    let rest := fetchPieces core tk lines r one.2
    (one.1 ++ rest.1, rest.2)

/-- One piece written: at its home, or sent there. True where its write is performed. -/
def deliverPiece (s : State) (core : Nat) (tk : Token) (asker : Asker) (a : W64) (bs : List Byte) : Bool × State :=
  match engineSite s core tk true a bs.length true with
  | (.error _, s1) => (true, s1)
  | (.ok site, s1) =>
    if site.chip == chipId s1 then
      let line := site.key / 128
      let s2 := homeWrite (dropCarried (performThrough s1 core site.key bs.length) site.key bs.length) tk.asid site.key bs
      (true, modCore s2 core (fun c => { c with near := c.near.filter (fun l => !(l.asid == tk.asid && l.line == line)) }))
    else
      let s2 := dropLine (spoilFills s1 core tk.asid (some (siteLine site)) none) core tk.asid (siteAddr site / 128)
      (false, sendRequest s2 core site.chip
        (requestPacket s2 tk.asid core site.chip site.core 0 (siteAddr site) site.win false bs) asker [] 0)

/-- Pieces written; answers the bytes whose write is performed. -/
def deliverPieces (core : Nat) (tk : Token) (asker : Asker) : List (W64 × Nat) → List Byte → State → Nat × State
  | [], _, s => (0, s)
  | (a, n) :: r, bs, s =>
    let one := deliverPiece s core tk asker a (bs.take n)
    let rest := deliverPieces core tk asker r (bs.drop n) one.2
    ((if one.1 then n else 0) + rest.1, rest.2)

/-! ## Faults of an operation -/

/-- The entry or notice that a fault of the token at the same granule already waits for. -/
def pendingEntry (s : State) (core : Nat) (h : W32) (a : W64) (stage : Nat) : Option W32 :=
  let about := fun (c : Concern) => c == .token core h
  if stage == 0 then (s.host.asked.find? (fun q => about q.about && q.rpl && q.addr.toNat / 65536 == a.toNat / 65536)).map (·.id)
  else
    (s.ctxs.flatMap (fun c => c.hqes ++ c.popped)).find? (fun e => about e.about && e.addr.toNat / 65536 == a.toNat / 65536)
      |>.map (·.id)

/-- A replayable fault of a token goes to the owner of the stage that missed, or to the host (R343, R390): what the waiting part
waits for. -/
def postTokenFault (s : State) (core : Nat) (tk : Token) (a : W64) (stage : Nat) (wr : Bool) : W32 × State :=
  let h := tokenHandle s core tk
  match pendingEntry s core h a stage with
  | some id => (id, s)
  | none =>
    if stage == 0 then
      askNotice s { kind := 1, addr := rootAddr s tk.asid a, asid := tk.asid, chip := chipId s, core := core,
                    cause := BitVec.ofNat 8 (causeCode .dataFault) } (.token core h) true a wr
    else
      let src := ((getCtx s tk.asid).map ctxHandle).getD 0
      let r := postEntry s { addr := a, src := src, team := tk.serial, token := h, cause := BitVec.ofNat 8 (causeCode .dataFault),
                             stage := BitVec.ofNat 3 stage, rpl := true, tok := true, wr := wr, chip := BitVec.ofNat 4 (chipId s),
                             core := BitVec.ofNat 7 core, about := .token core h, ctx := tk.asid } (ownerChain s tk.asid stage)
      match r.1 with
      | .queued _ id => (id, r.2)
      | .notice id => (id, r.2)
      | .dropped => (0, r.2)

/-- What a part that waits for a Page Request Group carries as its entry. -/
def pageWait : W32 := 0xFFFFFFFF

/-- An address is of latency class 1: in a CXL pool or in host memory (R298). -/
def poolClass (s : State) (asid : Nat) (a : W64) : Bool :=
  !isWindow a && (match walk s false (chainOf s asid) (a.toNat % 2 ^ 57) with
    | .ok x => paHost x.pa || paPool x.pa
    | .error _ => false)

/-- A sector is of class 1 when one of its addresses is. -/
def piecesPool (s : State) (asid : Nat) (l : List (W64 × Nat)) : Bool := l.any (fun p => poolClass s asid p.1)

/-- A stop of an operation: the entry it waits for, the record that ends it, or nothing to note. -/
inductive PartStop where
  | waits (id : W32)
  | ends (r : TokRec)
  | later
  deriving DecidableEq, Repr

def partStop (s : State) (core : Nat) (tk : Token) (e : EngStop) (unit : Nat) (pool : Bool) : PartStop × State :=
  match e with
  | .fault r => (.ends { r with unit := BitVec.ofNat 16 unit, pool := pool }, s)
  | .miss a stage wr =>
    let p := postTokenFault s core tk a stage wr
    (.waits p.1, p.2)
  | .ats rq rd wr => if atsKnown s rq then (.waits pageWait, pageRequest s tk.asid rq rd wr) else (.later, askAts s rq wr)
  | .wait => (.later, s)

/-- The record of an operation whose replayable fault was not serviced (R292). -/
def unservedRecord (s : State) (core : Nat) (tk : Token) (unit : Nat) : TokRec :=
  { recordFor s core tk .dataFault with rpl := true, unit := BitVec.ofNat 16 unit }

end Sys2Proof.Machine
end

