-- ==== Sys2Proof/Machine/Integer.lean ====
section
/-! DEFINITION. Integer arithmetic and comparison: opcodes 0x01 to 0x0C (R85 to R89). -/

namespace Sys2Proof.Machine

open Sys2Proof

/-! ## Shared forms -/

/-- Width of a 32- or 64-bit type. -/
def tyWidth (t : BitVec 6) : Nat := if ty64 t then 64 else 32

/-- Registers of a 32- or 64-bit type. -/
def tyRegs (t : BitVec 6) : Nat := if ty64 t then 2 else 1

/-- The result of R87: wrapped, or clamped to the type's range under `.sat`. -/
def intResult (t : BitVec 6) (sat : Bool) (z : Int) : W64 :=
  BitVec.ofInt 64 (if sat then clampInt (intMin (tyWidth t) (tySigned t)) (intMax (tyWidth t) (tySigned t)) z else z)

/-- The A form of a two-operand instruction on .i32 or .b32: DST := DST op SRC (R59). -/
def sigA (o : Short) : Sig :=
  (sigR (useTyped 0x00 (.v o.d.toNat) ++ useTyped 0x00 (.v o.s.toNat) ++ useDst o.d.toNat 1))

/-- The A form of a one-operand instruction: DST := op SRC. -/
def sigA1 (o : Short) : Sig := (sigR (useTyped 0x00 (.v o.s.toNat) ++ useDst o.d.toNat 1))

/-- The AI form: DST := DST op IMM8. -/
def sigAi (o : Short) : Sig := (sigR (useTyped 0x00 (.v o.d.toNat) ++ useDst o.d.toNat 1))

def intA (i : Instr) (o : Short) (f : Int → Int → Int) (s : State) : Host.Outcome State Fault Refusal :=
  runAlu i (sigA o) (fun c =>
    (outR (resultAs 0x00 o.d.toNat
        (intResult 0x00 false (f (opdInt c 0x00 (.v o.d.toNat)) (opdInt c 0x00 (.v o.s.toNat))))))) s

def intA1 (i : Instr) (o : Short) (f : Int → Int) (s : State) : Host.Outcome State Fault Refusal :=
  runAlu i (sigA1 o) (fun c =>
    (outR (resultAs 0x00 o.d.toNat (intResult 0x00 false (f (opdInt c 0x00 (.v o.s.toNat))))))) s

/-- Typed sources a and b, c where TRI is 1, and a typed destination (R85). -/
def sigThree (o : Long) : Sig :=
  (sigR (useTyped o.sub (srcA o) ++ useTyped o.sub (srcB o o.sub)
      ++ (if o.tri then useTyped o.sub (srcC o) else []) ++ useDst o.dst.toNat (tyRegs o.sub)))

/-- The long forms of R86 with an optional third source; a clamp applies once, to the exact value. -/
def intLong (i : Instr) (o : Long) (f : Int → Int → Int) (s : State) : Host.Outcome State Fault Refusal :=
  runAlu i (sigThree o) (fun c =>
    let x := f (opdInt c o.sub (srcA o)) (opdInt c o.sub (srcB o o.sub))
    let z := if o.tri then f x (opdInt c o.sub (srcC o)) else x
    (outR (resultAs o.sub o.dst.toNat (intResult o.sub o.sat z)))) s

def intLong1 (i : Instr) (o : Long) (f : Int → Int) (s : State) : Host.Outcome State Fault Refusal :=
  runAlu i (sigR (useTyped o.sub (srcA o) ++ useDst o.dst.toNat (tyRegs o.sub))) (fun c =>
    (outR (resultAs o.sub o.dst.toNat (intResult o.sub o.sat (f (opdInt c o.sub (srcA o))))))) s

def intMul (a b : Int) : Int := a * b
def intNeg (a : Int) : Int := -a
def intAbs (a : Int) : Int := (a.natAbs : Int)

/-! ## Instructions -/

def execIaddA (o : Short) (s : State) : Host.Outcome State Fault Refusal := intA (.iaddA o) o (· + ·) s
def execIadd (o : Long) (s : State) : Host.Outcome State Fault Refusal := intLong (.iadd o) o (· + ·) s
def execIsubA (o : Short) (s : State) : Host.Outcome State Fault Refusal := intA (.isubA o) o (· - ·) s
def execIsub (o : Long) (s : State) : Host.Outcome State Fault Refusal := intLong (.isub o) o (· - ·) s
def execImulA (o : Short) (s : State) : Host.Outcome State Fault Refusal := intA (.imulA o) o intMul s
def execImul (o : Long) (s : State) : Host.Outcome State Fault Refusal := intLong (.imul o) o intMul s
def execIminA (o : Short) (s : State) : Host.Outcome State Fault Refusal := intA (.iminA o) o min s
def execImin (o : Long) (s : State) : Host.Outcome State Fault Refusal := intLong (.imin o) o min s
def execImaxA (o : Short) (s : State) : Host.Outcome State Fault Refusal := intA (.imaxA o) o max s
def execImax (o : Long) (s : State) : Host.Outcome State Fault Refusal := intLong (.imax o) o max s
def execIabsA (o : Short) (s : State) : Host.Outcome State Fault Refusal := intA1 (.iabsA o) o intAbs s
def execIabs (o : Long) (s : State) : Host.Outcome State Fault Refusal := intLong1 (.iabs o) o intAbs s
def execInegA (o : Short) (s : State) : Host.Outcome State Fault Refusal := intA1 (.inegA o) o intNeg s
def execIneg (o : Long) (s : State) : Host.Outcome State Fault Refusal := intLong1 (.ineg o) o intNeg s

/-- `imulh` (R86): bits [2w − 1:w] of the exact product. -/
def execImulh (o : Long) (s : State) : Host.Outcome State Fault Refusal :=
  runAlu (.imulh o) (sigR (useTyped o.sub (srcA o) ++ useTyped o.sub (srcB o o.sub)
      ++ useDst o.dst.toNat (tyRegs o.sub))) (fun c =>
    let z := opdInt c o.sub (srcA o) * opdInt c o.sub (srcB o o.sub)
    (outR (resultAs o.sub o.dst.toNat (BitVec.ofInt 64 (z / (2 : Int) ^ tyWidth o.sub))))) s

/-- The addend of `imad`: the old DST in the 64-bit forms, else SC (R86). -/
def imadAddend (o : Long) : Opd :=
  match o.form with
  | .b | .bi => .v o.dst.toNat
  | _ => srcC o

/-- `imad` (R86). -/
def execImad (o : Long) (s : State) : Host.Outcome State Fault Refusal :=
  runAlu (.imad o) (sigR (useTyped o.sub (srcA o) ++ useTyped o.sub (srcB o o.sub)
      ++ useTyped o.sub (imadAddend o) ++ useDst o.dst.toNat (tyRegs o.sub))) (fun c =>
    let z := opdInt c o.sub (srcA o) * opdInt c o.sub (srcB o o.sub) + opdInt c o.sub (imadAddend o)
    (outR (resultAs o.sub o.dst.toNat (intResult o.sub o.sat z)))) s

/-- Carry-in and carry-out predicates of R88. -/
def carryIn (o : Long) : Nat := o.mod.toNat % 8
def carryTo (o : Long) : Nat := o.mod.toNat / 8

def sigCarry (o : Long) : Sig :=
  (sigP (useTyped o.sub (srcA o) ++ useTyped o.sub (srcB o o.sub) ++ useDst o.dst.toNat (tyRegs o.sub)) [carryIn o] [carryTo o])

/-- `iaddc` (R88). -/
def execIaddc (o : Long) (s : State) : Host.Outcome State Fault Refusal :=
  runAlu (.iaddc o) (sigCarry o) (fun c =>
    let a := opdNat c (ty64 o.sub) (srcA o)
    let b := opdNat c (ty64 o.sub) (srcB o o.sub)
    let cin := readPred c.th.preds (carryIn o)
    { regs := resultAs o.sub o.dst.toNat (BitVec.ofNat 64 (a + b + cin.toNat))
      preds := [(carryTo o, carryOut (tyWidth o.sub) a b cin)] }) s

/-- `isubb` (R88). -/
def execIsubb (o : Long) (s : State) : Host.Outcome State Fault Refusal :=
  runAlu (.isubb o) (sigCarry o) (fun c =>
    let a := opdNat c (ty64 o.sub) (srcA o)
    let b := opdNat c (ty64 o.sub) (srcB o o.sub)
    let cin := readPred c.th.preds (carryIn o)
    { regs := resultAs o.sub o.dst.toNat (BitVec.ofInt 64 ((a : Int) - b - cin.toNat))
      preds := [(carryTo o, borrowOut a b cin)] }) s

/-- Destination predicate and code of a comparison's DST field (R89, R125). -/
def setPd (o : Long) : Nat := o.dst.toNat % 8
def setCode (o : Long) : Nat := o.dst.toNat / 8 % 8

/-- The predicate a comparison is combined with, if any (R89). -/
def combReads (o : Long) : List Nat := if o.modb.toNat % 4 == 0 then [] else [o.sc.toNat % 8]

/-- A comparison's result combined as MODB says (R89). -/
def combined (o : Long) (p : BitVec 7) (t : Bool) : Bool :=
  combinePred (o.modb.toNat % 4) t (xor (readPred p (o.sc.toNat % 8)) (o.modb.getLsbD 2))

/-- `iset` (R89). -/
def execIset (o : Long) (s : State) : Host.Outcome State Fault Refusal :=
  runAlu (.iset o) (sigP (useTyped o.sub (srcA o) ++ useTyped o.sub (srcB o o.sub)) (combReads o) [setPd o])
    (fun c =>
      let t := compareInt (setCode o) (opdInt c o.sub (srcA o)) (opdInt c o.sub (srcB o o.sub))
      { preds := [(setPd o, combined o c.th.preds t)] }) s

end Sys2Proof.Machine
end

