-- ==== Sys2Proof/Machine/Gang.lean ====
section
/-! DEFINITION. Gang instructions: opcodes 0x48 to 0x4D (R100 to R106), and the meeting of a cohort at one instruction. -/

namespace Sys2Proof.Machine

open Sys2Proof

/-! ## Meeting -/

/-- The members of the thread's cohort, when every one of them has reached its instruction (R100). -/
def rendezvous (t : Team) (tid : Nat) (th : Thread) : Option (List (Nat × Thread)) :=
  let mem := cohortOf t th
  if mem.all (fun p => p.1 == tid || (p.2.st == .waiting .gang && p.2.pc == th.pc && p.2.path == th.path)) then some mem
  else none

/-- What the checks of R76 say of each member. -/
def memberGates (s : State) (i : Instr) (sg : Sig) (t : Team) : List (Nat × Thread) → Nat → List (Nat × Thread × Gate) × Nat
  | [], ctr => ([], ctr)
  | (tid, th) :: r, ctr =>
    let g := gate { s with freeCtr := ctr } i t th sg
    let ctr' := match g with
      | .go _ n => n
      | _ => ctr
    let q := memberGates s i sg t r ctr'
    ((tid, th, g) :: q.1, q.2)

/-- A participant: its thread index, the thread before the instruction, and what it reads. -/
structure Part where
  tid : Nat
  old : Thread
  cur : Cur
  deriving DecidableEq, Repr

def partsOf (gs : List (Nat × Thread × Gate)) : List Part :=
  gs.filterMap (fun g => match g.2.2 with
    | .go c _ => some { tid := g.1, old := g.2.1, cur := c }
    | _ => none)

/-- Members whose guard is false pass the instruction without taking part. -/
def passOthers (s : State) (uid : Nat) (i : Instr) (sg : Sig) (gs : List (Nat × Thread × Gate)) : State :=
  gs.foldl (fun st g => match g.2.2 with
    | .skip => retireAt st uid g.1 i sg false g.2.1 (nextPc i g.2.1)
    | .trap tr => takeTrap st uid g.1 tr
    | _ => st) s

/-- A gang instruction by the thread in hand: it waits for its cohort, or executes once for all of it (R100). `f` gives each
participant's writes from what all of them read. -/
def runGang (i : Instr) (sg : Sig) (f : List Part → Part → Writes) (s : State) : Host.Outcome State Fault Refusal :=
  match s.issue with
  | [] => .fault .noThread
  | (uid, tid) :: _ =>
    match getTeam s uid with
    | none => .fault .noThread
    | some t =>
      match getThread t tid with
      | none => .fault .noThread
      | some th =>
        if !canRun th then .fault .noThread
        else
          .next (popIssue (
            match gate s i t th sg with
            | .trap tr => chargeIssue i t.asid th (takeTrap (nextFree s) uid tid tr)
            | .hold => stallThread s uid tid
            | _ =>
              chargeIssue i t.asid th (
                match rendezvous t tid th with
                | none => holdThread s uid tid .gang
                | some mem =>
                  let gs := memberGates s i sg t mem s.freeCtr
                  let ps := partsOf gs.1
                  let s1 := ps.foldl (fun st p => applyWrites st uid p.tid (f ps p)) { s with freeCtr := gs.2 }
                  let s2 := ps.foldl (fun st p => retireAt st uid p.tid i sg true p.old (nextPc i p.old)) s1
                  passOthers s2 uid i sg gs.1)))

/-! ## Segments (R101) -/

def gangWidth (p : Part) : Nat := (p.cur.team.gangs[p.cur.th.gang]?.map (·.width)).getD 8

/-- S: the 96-bit form's segment, no wider than the gang; else the gang. -/
def segWidth (o : Long) (p : Part) : Nat :=
  match o.form with
  | .c => min (2 ^ (o.imm.toNat % 8)) (gangWidth p)
  | _ => gangWidth p

/-- First position of the thread's segment. -/
def segBase (o : Long) (p : Part) : Nat := p.cur.th.gpos / segWidth o p * segWidth o p

/-- Participants of the thread's segment, in increasing gang position. -/
def segParts (o : Long) (ps : List Part) (p : Part) : List Part :=
  let lo := segBase o p
  (List.range (segWidth o p)).filterMap (fun j => ps.find? (fun q => q.cur.th.gpos == lo + j))

/-- A mask of gang positions. -/
def posMask (l : List Part) : W64 := BitVec.ofNat 64 (l.foldl (fun n q => n + 2 ^ q.cur.th.gpos) 0)

/-! ## Instructions -/

/-- The source predicate of `vote`. -/
def voteSrc (o : Long) (q : Part) : Bool := xor (readPred q.cur.th.preds (o.sa.toNat % 8)) (o.mod.getLsbD 0)

/-- `vote` (R102). -/
def execVote (o : Long) (s : State) : Host.Outcome State Fault Refusal :=
  let ballot := o.sub == 3
  let pd := o.dst.toNat % 8
  runGang (.vote o) (if ballot then sigP (useDst o.dst.toNat 2) [o.sa.toNat % 8] []
      else sigP [] [o.sa.toNat % 8] [pd]) (fun ps p =>
    let seg := segParts o ps p
    match o.sub.toNat with
    | 0 => outP pd (seg.all (voteSrc o))
    | 1 => outP pd (seg.any (voteSrc o))
    | 2 => outP pd (seg.all (voteSrc o) || seg.all (fun q => !voteSrc o q))
    | _ => outR (result64 o.dst.toNat (posMask (seg.filter (voteSrc o))) .b32)) s

/-- The lane operand of `shfl`: SB, or IMM16 zero-extended. -/
def shflLane (o : Long) : Opd := srcB o 0x01

/-- The position that `shfl` reads (R103). -/
def shflFrom (mode g sb w b : Nat) : Nat :=
  match mode with
  | 0 => sb + b % w
  | 1 => if g ≥ sb + b then g - b else g
  | 2 => if g + b < sb + w then g + b else g
  | _ => sb + ((g - sb) ^^^ (b % w))

/-- `shfl` (R103). -/
def execShfl (o : Long) (s : State) : Host.Outcome State Fault Refusal :=
  runGang (.shfl o) (sigR (useRaw 1 (srcA o) ++ useRaw 1 (shflLane o) ++ useDst o.dst.toNat 1)) (fun ps p =>
    let j := shflFrom o.sub.toNat p.cur.th.gpos (segBase o p) (segWidth o p) (opd32 p.cur (shflLane o)).toNat
    let src := ((segParts o ps p).find? (fun q => q.cur.th.gpos == j)).getD p
    outR [(o.dst.toNat, opdReg src.cur (srcA o) 0)]) s

/-- The operation of a reduction on integers, exact (R104). -/
def redInt (op : Nat) (a b : Int) : Int :=
  match op with
  | 0 => a + b
  | 1 => min a b
  | _ => max a b

def redBits (op : Nat) (a b : Nat) : Nat :=
  match op with
  | 3 => a &&& b
  | 4 => a ||| b
  | _ => a ^^^ b

def redF32 (op mode : Nat) (a b : Nat) : Nat :=
  match op with
  | 0 => addElem fmtF32 mode 0 false a b
  | 1 => minmaxElem fmtF32 false a b
  | _ => minmaxElem fmtF32 true a b

def redOp (o : Long) : Nat := o.mod.toNat / 8

/-- A NaN result is canonical, that of a lone participant too. -/
def canonResult (v : Nat) : Nat := if decodeNum fmtF32 v == .nan then fmtNan fmtF32 else v

/-- acc(k) over a non-empty list of participants, in the type's bits (R104). -/
def redValue (o : Long) (l : List Part) : Nat :=
  let op := redOp o
  match l with
  | [] => 0
  | q :: r =>
    if o.sub == 0x10 then
      canonResult (r.foldl (fun a x => redF32 op (o.mod.toNat % 8) a (opdNat x.cur false (srcA o))) (opdNat q.cur false (srcA o)))
    else if op < 3 then
      (intResult o.sub o.sat (r.foldl (fun a x => redInt op a (opdInt x.cur o.sub (srcA o))) (opdInt q.cur o.sub (srcA o)))).toNat
    else
      r.foldl (fun a x => redBits op a (opdNat x.cur (ty64 o.sub) (srcA o))) (opdNat q.cur (ty64 o.sub) (srcA o))

/-- The identities of R104. -/
def redIdentity (o : Long) : Nat :=
  let w := tyWidth o.sub
  if o.sub == 0x10 then
    match redOp o with
    | 0 => 0x80000000
    | 1 => 0x7F800000
    | _ => 0xFF800000
  else
    match redOp o with
    | 1 => wrapTo w (intMax w (tySigned o.sub))
    | 2 => wrapTo w (intMin w (tySigned o.sub))
    | 3 => 2 ^ w - 1
    | _ => 0

def sigReduce (o : Long) : Sig := sigR (useTyped o.sub (srcA o) ++ useDst o.dst.toNat (tyRegs o.sub))

/-- `gred` (R104). -/
def execGred (o : Long) (s : State) : Host.Outcome State Fault Refusal :=
  runGang (.gred o) (sigReduce o) (fun ps p =>
    outR (resultAs o.sub o.dst.toNat (BitVec.ofNat 64 (redValue o (segParts o ps p))))) s

/-- `gscan` (R104). -/
def execGscan (o : Long) (s : State) : Host.Outcome State Fault Refusal :=
  let exc := o.modb.getLsbD 0
  runGang (.gscan o) (sigReduce o) (fun ps p =>
    let g := p.cur.th.gpos
    let before := (segParts o ps p).filter (fun q => if exc then q.cur.th.gpos < g else q.cur.th.gpos ≤ g)
    let v := if before.isEmpty then redIdentity o else redValue o before
    outR (resultAs o.sub o.dst.toNat (BitVec.ofNat 64 v))) s

/-- `match` (R105). -/
def execMatchG (o : Long) (s : State) : Host.Outcome State Fault Refusal :=
  let v := fun (q : Part) => opdNat q.cur (ty64 o.sub) (srcA o)
  runGang (.matchG o) (sigR (useRaw (tyRegs o.sub) (srcA o) ++ useDst o.dst.toNat 2)) (fun ps p =>
    outR (result64 o.dst.toNat (posMask ((segParts o ps p).filter (fun q => v q == v p))) .b32)) s

/-- `elect` (R106). -/
def execElect (o : Long) (s : State) : Host.Outcome State Fault Refusal :=
  let pd := o.dst.toNat % 8
  runGang (.elect o) (sigP [] [] [pd]) (fun ps p =>
    outP pd (ps.all (fun q => decide (p.cur.th.gpos ≤ q.cur.th.gpos)))) s

end Sys2Proof.Machine
end

