-- ==== Sys2Proof/Machine/Copy.lean ====
section
/-! DEFINITION. `copy` and `copyt`: opcodes 0xDA and 0xDB (R188 to R192), and the sectors of their slices (R289, R298, R299). -/

namespace Sys2Proof.Machine

open Sys2Proof

/-! ## A team-collective instruction -/

/-- The participant with the lowest gang position. -/
def leadOf (ps : List Part) : Option Part :=
  ps.foldl (fun b p => match b with
    | none => some p
    | some q => if p.cur.th.gpos < q.cur.th.gpos then some p else some q) none

/-- Which execution of the instruction by its gang this is. -/
def execCount (t : Team) (pc : W64) (gang : Nat) : Nat :=
  ((t.execs.find? (fun e => e.1 == pc && e.2.1 == gang)).map (fun e => e.2.2)).getD 0

def bumpExec (t : Team) (pc : W64) (gang : Nat) : Team :=
  { t with execs := (pc, gang, execCount t pc gang + 1) :: t.execs.filter (fun e => !(e.1 == pc && e.2.1 == gang)) }

/-- A team-collective instruction by the thread in hand: its cohort meets, and the participant with the lowest gang position
acts for all of them. An execution in which nobody takes part counts among the gang's executions too (R188). -/
def runTeam (i : Instr) (sg : Sig) (eff : State → Nat → List Part → Part → Act) (s : State) : Host.Outcome State Fault Refusal :=
  match s.issue with
  | [] => .fault .noThread
  | (uid, tid) :: _ =>
    match getTeam s uid with
    | none => .fault .noThread
    | some t =>
      match getThread t tid with
      | none => .fault .noThread
      | some th =>
        if !canRun th then .fault .noThread
        else
          .next (popIssue (
            match gate s i t th sg with
            | .trap tr => chargeIssue i t.asid th (takeTrap (nextFree s) uid tid tr)
            | .hold => stallThread s uid tid
            | _ =>
              chargeIssue i t.asid th (
                match rendezvous t tid th with
                | none => holdThread s uid tid .gang
                | some mem =>
                  let gs := memberGates s i sg t mem s.freeCtr
                  let ps := partsOf gs.1
                  let pass := fun (st : State) =>
                    passOthers (ps.foldl (fun st p => retireAt st uid p.tid i sg true p.old (nextPc i p.old)) st) uid i sg gs.1
                  match leadOf ps with
                  | none => pass (modTeam { s with freeCtr := gs.2 } uid (fun t => bumpExec t th.pc th.gang))
                  | some p =>
                    if p.tid != tid then holdThread s uid tid .gang
                    else
                      match eff { s with freeCtr := gs.2 } uid ps p with
                      | .done s1 => pass s1
                      | .jump s1 _ => pass s1
                      | .trap s1 tr => takeTrap s1 uid tid tr
                      | .hold s1 w => holdThread s1 uid tid w
                      | .left s1 => s1)))

/-! ## Collections (R188, R189) -/

/-- G of a `copy` or `copyt`. -/
def copyG (o : Long) : Nat := o.imm.toNat % 64 + 1

/-- The collection that the gang's execution joins, where a slice has arrived before. -/
def findColl (t : Team) (pc : W64) (nth : Nat) : Option Collection := t.colls.find? (fun c => c.pc == pc && c.nth == nth)

def copyOf (tk : Token) : Option CopyOp :=
  match tk.op with
  | .copy c => some c
  | _ => none

/-- Subcode 1 at once for a PENDING token, at the next boundary for a RUNNING one (R188, R189). -/
def spoilCopy (s : State) (core slot : Nat) : State :=
  match getToken s core slot with
  | none => s
  | some tk =>
    match copyOf tk with
    | none => s
    | some c =>
      if tk.st == .pending then endToken s core slot .faulted (some (subcodeRecord s core tk 1))
      else if tk.st == .running then setToken s core { tk with op := .copy { c with excess := true } }
      else s

/-- What is ordered before the operation, by all participants (R174). -/
def partsSet (s : State) (uid : Nat) (ps : List Part) : List LEntry :=
  ps.foldl (fun l p => addEntries l (creationSet s uid p.tid)) []

/-- A slice joins its collection, which the first slice opens. Every participant receives the handle. -/
def joinSlice (s : State) (uid : Nat) (ps : List Part) (p : Part) (o : Long) (tiled : Bool) (what : SliceKind) (arrive : W32) : Act :=
  andThen (releasePart s uid p.tid (teamCore p.cur.team) p.cur.team.asid (tokenScope o)) (fun s0 =>
    match getTeam s0 uid with
    | none => .left s0
    | some t =>
      let gang := p.cur.th.gang
      let nth := execCount t p.old.pc gang
      let hb := partsSet s0 uid ps
      let sl : Slice := { gang := gang, what := what, arrive := arrive }
      let r : W32 × State := match findColl t p.old.pc nth with
        | none =>
          let op : CopyOp := { tiled := tiled, g := copyG o, slices := [sl], flip := o.modb.getLsbD 0 }
          let c := createToken s0 t p.tid o.mod hb (.copy op)
          let col : Collection := { pc := p.old.pc, nth := nth, handle := c.1, g := copyG o, joined := 1 }
          (c.1, modTeam c.2 uid (fun t => { t with colls := col :: t.colls }))
        | some col =>
          let s1 := modTeam s0 uid (fun t => { t with colls := t.colls.map (fun x =>
            if x.pc == col.pc && x.nth == col.nth then { x with joined := x.joined + 1 } else x) })
          match findToken s1 t.asid col.handle with
          | none => (col.handle, s1)
          | some tk =>
            let s2 := if col.joined < col.g then modToken s1 tk.1 tk.2.slot (fun x => { x with
                hb := addEntries x.hb hb
                op := match x.op with
                  | .copy c => .copy { c with slices := c.slices ++ [sl] }
                  | y => y }) else s1
            (tokenHandle s1 tk.1 tk.2,
             if col.joined ≥ col.g || copyG o != col.g then spoilCopy s2 tk.1 tk.2.slot else s2)
      let s3 := modTeam r.2 uid (fun t => bumpExec t p.old.pc gang)
      let s4 := ps.foldl (fun st q => applyWrites st uid q.tid (outR (result32 o.dst.toNat r.1 .b32))) s3
      .done (if loupeOn s4 t.asid then advanceEpoch s4 uid else s4))

/-- Room for the token that the slice would create (R173). -/
def sliceRoom (s : State) (p : Part) : Bool :=
  (findColl p.cur.team p.old.pc (execCount p.cur.team p.old.pc p.cur.th.gang)).isSome || tokenRoom s p.cur.team

/-- `copy` (R188 to R190). -/
def execCopy (o : Long) (s : State) : Host.Outcome State Fault Refusal :=
  let sc : Opd := .v o.sc.toNat
  runTeam (.copy o) (sigR (useRaw 2 (srcA o) ++ useRaw 2 (regOpd o.kb o.sb) ++ useOpd sc 2 [.b32, .b32] ++ useDst o.dst.toNat 1))
    (fun s uid ps p =>
      let c := p.cur
      let arrive := (opdReg c sc 1).val
      if !sliceRoom s p then .hold s .room
      else if !arriveOk arrive then .trap s (trapOf .reservedField)
      else
        joinSlice s uid ps p o false
          (.bytes (opd64 c (srcA o)) (opd64 c (regOpd o.kb o.sb)) (opdReg c sc 0).val.toNat) arrive) s

/-! ## Tiles (R191, R192) -/

def toInt20 (n : Nat) : Int := toSigned 20 n

/-- The TLR. -/
def tlrOf (n : Nat) : Tlr :=
  let f := bitsAt n
  { src := BitVec.ofNat 64 (f 63 0), dst := BitVec.ofNat 64 (f 127 64), ext := (f 143 128, f 159 144, f 175 160),
    sstr := (f 199 176, f 223 200), dstr := (f 247 224, f 271 248), esz := f 273 272, edge := BitVec.ofNat 3 (f 276 274),
    org := (toInt20 (f 299 280), toInt20 (f 319 300), toInt20 (f 339 320)), lim := (f 359 340, f 379 360, f 399 380),
    fill := BitVec.ofNat 32 (f 431 400) }

/-- The rules of R172, R175 and R191, each with its offset. -/
def tlrRules (n : Nat) (t : Tlr) : List (Bool × Nat) :=
  let clamps := fun (d lim : Nat) => t.edge.getLsbD d || lim != 0
  [ (clamps 0 t.lim.1 && clamps 1 t.lim.2.1 && clamps 2 t.lim.2.2, 34),
    (bitsAt n 279 277 == 0, 34),
    (arriveOk (BitVec.ofNat 32 (bitsAt n 463 432)), 54),
    (bitsAt n 511 464 == 0, 58) ]

/-- `copyt` (R188, R191, R192). -/
def execCopyt (o : Long) (s : State) : Host.Outcome State Fault Refusal :=
  runTeam (.copyt o) (sigR (useRaw 2 (srcA o) ++ useDst o.dst.toNat 1)) (fun s uid ps p =>
    let ea := opd64 p.cur (srcA o)
    if !sliceRoom s p then .hold s .room
    else
      andThen (readBlock s uid p.tid p.cur ea 64) (fun q =>
        let t := tlrOf q.1
        match firstOffset (tlrRules q.1 t) with
        | some off => .trap q.2 (blockTrap ea off)
        | none => joinSlice q.2 uid ps p o true (.tile t) (BitVec.ofNat 32 (bitsAt q.1 463 432)))) s

/-! ## Sectors (R298) -/

/-- A source byte of a sector: in memory, or of the fill constant. -/
inductive SrcByte where
  | at_ (a : W64)
  | fill (b : Byte)
  deriving DecidableEq, Repr

/-- Sectors that a run of c bytes from d touches, and the offset and length of its j-th one. -/
def runSectors (d : W64) (c : Nat) : Nat := if c == 0 then 0 else (d.toNat % 32 + c + 31) / 32
def runSector (d : W64) (c j : Nat) : Option (Nat × Nat) :=
  let r := d.toNat % 32
  let lo := 32 * j - r
  let hi := min (32 * (j + 1) - r) c
  if lo < hi then some (lo, hi - lo) else none

/-- Rows of a tile: bytes, count, the row's destination, and sector numbers reserved for each. -/
def tileRowBytes (t : Tlr) : Nat := (t.ext.1 + 1) * eszBytes t.esz
def tileRows (t : Tlr) : Nat := (t.ext.2.1 + 1) * (t.ext.2.2 + 1)
def tileRowDst (t : Tlr) (r : Nat) : W64 :=
  t.dst + BitVec.ofNat 64 (r % (t.ext.2.1 + 1) * t.dstr.1 + r / (t.ext.2.1 + 1) * t.dstr.2)
def tileRowIds (t : Tlr) : Nat := (tileRowBytes t + 62) / 32

/-- Fill bytes of an element (R192). -/
def fillBytes (t : Tlr) : List Byte :=
  if t.esz == 3 then natBytes 8 (convertFloat fmtF32 fmtF64 0 0 false t.fill.toNat) else natBytes (eszBytes t.esz) t.fill.toNat

/-- One coordinate against its extent: none where the element is filled. -/
def tileCoord (fills : Bool) (x : Int) (lim : Nat) : Option Int :=
  if x < 0 || x ≥ (lim : Int) then (if fills then none else some (clampInt 0 ((lim : Int) - 1) x)) else some x

/-- The source of byte b of tile row r. -/
def tileByte (t : Tlr) (r b : Nat) : SrcByte :=
  let n := eszBytes t.esz
  let x0 := tileCoord (t.edge.getLsbD 0) (t.org.1 + ((b / n : Nat) : Int)) t.lim.1
  let x1 := tileCoord (t.edge.getLsbD 1) (t.org.2.1 + ((r % (t.ext.2.1 + 1) : Nat) : Int)) t.lim.2.1
  let x2 := tileCoord (t.edge.getLsbD 2) (t.org.2.2 + ((r / (t.ext.2.1 + 1) : Nat) : Int)) t.lim.2.2
  match x0, x1, x2 with
  | some a, some b1, some c =>
    .at_ (t.src + BitVec.ofNat 64 (a.toNat * n + b1.toNat * t.sstr.1 + c.toNat * t.sstr.2 + b % n))
  | _, _, _ => .fill ((fillBytes t).getD (b % n) 0)

/-- Sector numbers of a slice lie below this, and how many of them there are. -/
def sliceIds (w : SliceKind) : Nat :=
  match w with
  | .bytes _ d n => runSectors d n
  | .tile t => tileRows t * tileRowIds t
def sliceCount (w : SliceKind) : Nat :=
  match w with
  | .bytes _ d n => runSectors d n
  | .tile t => ((List.range (tileRows t)).map (fun r => runSectors (tileRowDst t r) (tileRowBytes t))).sum

/-- Destination and source bytes of a sector. -/
def sliceSector (w : SliceKind) (j : Nat) : Option (W64 × List SrcByte) :=
  match w with
  | .bytes src d n =>
    (runSector d n j).map (fun x =>
      (d + BitVec.ofNat 64 x.1, (List.range x.2).map (fun i => SrcByte.at_ (src + BitVec.ofNat 64 (x.1 + i)))))
  | .tile t =>
    let r := j / tileRowIds t
    if r ≥ tileRows t then none
    else
      (runSector (tileRowDst t r) (tileRowBytes t) (j % tileRowIds t)).map (fun x =>
        (tileRowDst t r + BitVec.ofNat 64 x.1, (List.range x.2).map (fun i => tileByte t r (x.1 + i))))

/-- Source bytes gathered into runs within one line. -/
inductive SrcRun where
  | mem (a : W64) (n : Nat)
  | fill (bs : List Byte)
  deriving DecidableEq, Repr

def srcRuns : List SrcByte → List SrcRun
  | [] => []
  | .at_ a :: r =>
    match srcRuns r with
    | .mem b n :: q => if a + 1 == b && a.toNat / 128 == b.toNat / 128 then .mem a (n + 1) :: q else .mem a 1 :: .mem b n :: q
    | q => .mem a 1 :: q
  | .fill b :: r =>
    match srcRuns r with
    | .fill bs :: q => .fill (b :: bs) :: q
    | q => .fill [b] :: q

def runPieces (rs : List SrcRun) : List (W64 × Nat) :=
  rs.filterMap (fun r => match r with
    | .mem a n => some (a, n)
    | .fill _ => none)

/-- The bytes of runs, those of memory taken from the front of `bs`. -/
def runBytes : List SrcRun → List Byte → List Byte
  | [], _ => []
  | .mem _ n :: r, bs => bs.take n ++ runBytes r (bs.drop n)
  | .fill f :: r, bs => f ++ runBytes r bs

/-! ## The engine's steps -/

def setSlice (s : State) (core slot i : Nat) (f : Slice → Slice) : State :=
  modToken s core slot (fun tk => match tk.op with
    | .copy c =>
      let sls := ((List.range c.slices.length).zip c.slices).map (fun p => if p.1 == i then f p.2 else p.2)
      { tk with op := .copy { c with slices := sls } }
    | _ => tk)

/-- Every sector of every slice is done. -/
def copyDone (c : CopyOp) : Bool := c.slices.all (fun (sl : Slice) => sl.done.length == sliceCount sl.what)

/-- A RUNNING copy at its boundary (R281, R282, R289, R301): DONE with its last write, else stopped by a revoke, a cancel or a
slice too many once nothing is in flight. -/
def copyBoundary (s : State) (core slot : Nat) : State :=
  match getToken s core slot with
  | none => s
  | some tk =>
    match copyOf tk with
    | none => s
    | some c =>
      if tk.st != .running || tk.flipping then s
      else if copyDone c then endToken s core slot .done none
      else if inFlight s core slot then s
      else if revoking s tk.asid then revokeToken s core tk
      else if tk.cxl then endToken s core slot .cancelled none
      else if c.excess then endToken s core slot .faulted (some (subcodeRecord s core tk 1))
      else s

/-- A sector's write is performed: it is done and its bytes are counted (R299). -/
def sectorDone (s : State) (core slot i j : Nat) (sl : Slice) (n : Nat) : State :=
  let s1 := setSlice s core slot i (fun x => { x with
    done := j :: x.done
    acked := x.acked.filter (· != j)
    lines := x.lines.filter (fun l => l.1 != j) })
  match getToken s1 core slot with
  | none => s1
  | some tk => copyBoundary (countBytes (charge (setToken s1 core { tk with age := 0 }) tk.asid 7 1) core tk sl.arrive n) core slot

/-- A sector that stops: it waits for a service, or the token ends. -/
def sectorStop (s : State) (core : Nat) (tk : Token) (i j : Nat) (sl : Slice) (e : EngStop) (pool : Bool) : State :=
  match partStop s core tk e sl.gang pool with
  | (.waits id, s1) =>
    copyBoundary (setSlice s1 core tk.slot i (fun x => { x with
      blocked := (j, id) :: x.blocked
      lines := x.lines.filter (fun l => l.1 != j) })) core tk.slot
  | (.ends r, s1) => endToken s1 core tk.slot .faulted (some r)
  | (.later, s1) => s1

/-- A sector goes as far as it can: read, written here or sent, done (R190, R192, R299). -/
def sectorStep (s : State) (core : Nat) (tk : Token) (i j : Nat) (sl : Slice) (d : W64) (src : List SrcByte) : State :=
  let asker := Asker.sector tk.slot i j
  let lines := (sl.lines.filter (fun l => l.1 == j)).map (fun l => l.2)
  if sl.acked.contains j then sectorDone s core tk.slot i j sl src.length
  else
    let runs := srcRuns src
    let pool := piecesPool s tk.asid ((d, src.length) :: runPieces runs)
    match touchPieces core tk lines asker false (runPieces runs) s with
    | (.error e, s1) => sectorStop s1 core tk i j sl e pool
    | (.ok _, s1) =>
      match touchPieces core tk lines asker true [(d, src.length)] s1 with
      | (.error e, s2) => sectorStop s2 core tk i j sl e pool
      | (.ok _, s2) =>
        let got := fetchPieces core tk lines (runPieces runs) s2
        let out := deliverPiece got.2 core tk asker d (runBytes runs got.1)
        if out.1 then sectorDone out.2 core tk.slot i j sl src.length else out.2

/-- A sector has been read, sent or acknowledged. -/
def sectorBegun (sl : Slice) (j : Nat) : Bool := sl.acked.contains j || sl.lines.any (fun l => l.1 == j)

/-- A request of a sector is out. -/
def sectorOut (s : State) (core slot i j : Nat) : Bool := (getCore s core).outst.any (fun o => o.asker == .sector slot i j)

/-- The operation has started in an earlier cycle (R282). -/
def mayAccess (s : State) (tk : Token) : Bool := tk.st == .running && !tk.flipping && decide (tk.firstAt ≤ s.cycle)

/-- A sector of a copy that may take its next step: not done, not waiting for a service or an answer, and begun where the operation is
held or stopping. -/
def sectorReady (s : State) (core : Nat) (tk : Token) (c : CopyOp) (i j : Nat) (sl : Slice) : Bool :=
  mayAccess s tk && !sl.done.contains j && !sl.blocked.any (fun b => b.1 == j) && !sectorOut s core tk.slot i j
    && (sectorBegun sl j || !(tk.cxl || c.excess || revoking s tk.asid || tokenHeld s core tk))

/-- An answer of another chip to a sector: a line read, or the write performed there (R357). -/
def sectorAnswer (s : State) (core slot i j : Nat) (o : Outst) (data : Option (List Byte)) : State :=
  match data with
  | some bs =>
    setSlice s core slot i (fun x => { x with
      lines := (j, lineTag o.peer o.pkt.win o.pkt.addr.toNat, bs) :: x.lines })
  | none => setSlice s core slot i (fun x => { x with acked := j :: x.acked })

end Sys2Proof.Machine
end

