-- ==== Sys2Proof/Machine/Coll.lean ====
section
/-! DEFINITION. Collectives other than shuffles: opcode 0xDC (R193 to R197), their chunks (R289, R290) and the side-information
tables that `coll.shuf` and `sireg` fill (R371, R372). -/

namespace Sys2Proof.Machine

open Sys2Proof

/-! ## Side-information tables (R371, R372) -/

/-- SIT entries of a context on a core: the root holds 1,024, a child its grant's SITQ, less what its children hold. -/
def sitQuota (s : State) (asid : Nat) : Nat :=
  match getCtx s asid with
  | none => 0
  | some c => (if c.level == 0 then Config.sitEntries else c.grant.sitq)
      - ((s.ctxs.filter (fun x => x.parent == some asid)).map (fun x => x.grant.sitq)).sum

def sitMine (s : State) (core asid : Nat) : List SitEntry := (getCore s core).sit.filter (fun e => e.asid == asid)

/-- The entry that eviction takes: a STALE one first, then the least recently used. -/
def sitVictim (l : List SitEntry) : Option SitEntry :=
  let oldest := fun (m : List SitEntry) => m.foldl (fun (b : Option SitEntry) e => match b with
    | none => some e
    | some x => if e.used < x.used then some e else some x) none
  match oldest (l.filter (fun e => e.st == .stale)) with
  | some e => some e
  | none => oldest l

def sitRemove (s : State) (core : Nat) (p : SitEntry → Bool) : State :=
  modCore s core (fun c => { c with sit := c.sit.filter (fun e => !p e) })

/-- A block registered (R200): the entry's index, or none with a quota of 0. -/
def sitRegister (s : State) (core asid off bid blog : Nat) : Option Nat × State :=
  if sitQuota s asid == 0 then (none, s)
  else
    let s1 := sitRemove s core (fun e => e.asid == asid && e.bid == bid)
    let s2 := if (sitMine s1 core asid).length ≥ sitQuota s asid then
        match sitVictim (sitMine s1 core asid) with
        | some v => sitRemove s1 core (fun e => e.index == v.index)
        | none => s1
      else s1
    let choice := pickFrom s2 ((List.range Config.sitEntries).filter (fun i => !(getCore s2 core).sit.any (fun e => e.index == i)))
    match choice.1 with
    | none => (none, s2)
    | some i =>
      let e : SitEntry := { index := i, asid := asid, st := .valid, blog := blog, off := off / 64, bid := bid, used := s2.stamp }
      (some i, modCore { choice.2 with stamp := s2.stamp + 1 } core (fun c => { c with sit := e :: c.sit }))

/-! ## Descriptors (R194, R198) -/

/-- The CDB; the rank table is read after it. -/
def cdbOf (n kind : Nat) (xsum flip : Bool) : CollOp :=
  let f := bitsAt n
  { kind := kind, xsum := xsum, flip := flip, grp := BitVec.ofNat 32 (f 319 288), nrank := f 335 320, rank := f 351 336,
    root := f 367 352, cnt := f 287 256, etype := f 371 368, rop := f 374 372, xblk := f 378 375, rtab := [],
    srcb := BitVec.ofNat 64 (f 63 0), dstb := BitVec.ofNat 64 (f 127 64), arrive := BitVec.ofNat 32 (f 415 384) }

def reduces (kind : Nat) : Bool := kind == 1 || kind == 2

/-- The rules of R172, R175 and R194 on the block's own fields, each with its offset. -/
def cdbRules (n : Nat) (c : CollOp) : List (Bool × Nat) :=
  let sdba := bitsAt n 255 192
  [ (if c.kind == 6 then sdba % 64 == 0 else sdba == 0, 24),
    (c.kind != 6 || c.cnt == 0, 32),
    (c.nrank != 0, 40),
    (decide (c.rank < c.nrank) && decide (c.root < c.nrank), 40),
    (decide (c.etype ≤ 11) && decide (c.rop ≤ 5), 46),
    (!reduces c.kind || decide (4 ≤ c.etype), 46),
    (!reduces c.kind || decide (c.rop ≤ 2) || decide (c.etype ≤ 7), 46),
    (!c.xsum || (reduces c.kind && c.etype == 8 && c.rop == 0), 46),
    (c.kind != 6 || (c.etype == 0 && c.rop == 0), 46),
    (bitsAt n 383 379 == 0, 47),
    (arriveOk c.arrive, 48),
    (bitsAt n 511 416 == 0, 52) ]

def rankChip (e : W32) : Nat := bitsAt e.toNat 31 28
def rankCore (e : W32) : Nat := bitsAt e.toNat 27 21

/-- The rules on the rank table: spare bits, the issuing core at RANK, no core twice. -/
def rankTableOk (s : State) (t : Team) (rank : Nat) (tab : List W32) : Bool :=
  tab.all (fun e => bitsAt e.toNat 20 0 == 0)
    && (tab[rank]?.map (fun e => rankChip e == chipId s && rankCore e == teamCore t)).getD false
    && decide (tab.eraseDups.length = tab.length)

/-- The block's rules and the table's, and the operation with its table (R172). -/
def readCdb (s : State) (uid tid : Nat) (c : Cur) (ea : W64) (o : Long) : Except Act (CollOp × Nat × State) :=
  orStop (readBlock s uid tid c ea 64) (fun p =>
    let op := cdbOf p.1 o.sub.toNat (o.modb.getLsbD 1) (o.modb.getLsbD 0)
    let bad := firstOffset (cdbRules p.1 op)
    match readRange p.2 uid tid c (BitVec.ofNat 64 (bitsAt p.1 191 128)) (4 * op.nrank), bad with
    | .error _, some off => .error (.trap p.2 (blockTrap ea off))
    | .error e, none => .error e
    | .ok q, _ =>
      let tab := bytesWords q.1
      if !rankTableOk q.2 c.team op.rank tab && op.nrank != 0 then .error (.trap q.2 (blockTrap ea (min 16 (bad.getD 16))))
      else
        match bad with
        | some off => .error (.trap q.2 (blockTrap ea off))
        | none => .ok ({ op with rtab := tab }, p.1, q.2))

/-! ## Groups (R197) -/

/-- Parameters that every rank of a collective must issue alike. -/
def sameParams (a b : CollOp) : Bool :=
  a.kind == b.kind && a.nrank == b.nrank && a.rtab == b.rtab && a.cnt == b.cnt && a.etype == b.etype && a.rop == b.rop
    && a.root == b.root && a.xblk == b.xblk && a.xsum == b.xsum

/-- A difference in the group ends every rank: PENDING ones at once, RUNNING ones at their boundary. -/
def spoilGroup (s : State) (tk : Token) : State :=
  (groupTokens s tk).foldl (fun st p =>
    match collOf p.2 with
    | none => st
    | some c =>
      if p.2.st == .pending then endToken st p.1 p.2.slot .faulted (some (subcodeRecord st p.1 p.2 2))
      else if p.2.st == .running then setToken st p.1 { p.2 with op := .coll { c with bad := true } }
      else st) s

/-- The rank's place in the group's order on its core. -/
def nextNth (s : State) (core asid : Nat) (grp : W32) : Nat :=
  (((getCore s core).collSeq.find? (fun x => x.1 == asid && x.2.1 == grp)).map (fun x => x.2.2)).getD 0

def bumpNth (s : State) (core asid : Nat) (grp : W32) : State :=
  let n := nextNth s core asid grp + 1
  modCore s core (fun c => { c with collSeq := (asid, grp, n) :: c.collSeq.filter (fun x => !(x.1 == asid && x.2.1 == grp)) })

/-- Entries of the rank table on this chip, as rank numbers. -/
def localRanks (s : State) (c : CollOp) : List Nat :=
  (List.range c.rtab.length).filter (fun r => (c.rtab[r]?.map (fun e => rankChip e == chipId s)).getD false)
def remoteRanks (s : State) (c : CollOp) : List Nat :=
  (List.range c.rtab.length).filter (fun r => (c.rtab[r]?.map (fun e => rankChip e != chipId s)).getD false)

/-- The tokens of this chip's ranks in increasing rank, when every one of them is RUNNING. -/
def runningRanks (s : State) (tk : Token) (c : CollOp) : Option (List (Nat × Token × CollOp)) :=
  let g := (groupTokens s tk).filterMap (fun p => (collOf p.2).map (fun d => (p.1, p.2, d)))
  let found := (localRanks s c).map (fun r => g.find? (fun p => p.2.2.rank == r && p.2.1.st == .running))
  if found.all (·.isSome) then some (found.filterMap id) else none

/-! ## Chunks (R290) -/

def chunkBytes : Nat := 16384

/-- Bytes of each rank's source, and how many chunks move. -/
def sourceBytes (c : CollOp) : Nat :=
  let x := c.cnt * etypeSize c.etype
  match c.kind with
  | 5 => c.nrank * x
  | 6 => c.sends.length * 2 ^ c.blog
  | _ => x
def chunkTotal (c : CollOp) : Nat := (sourceBytes c + chunkBytes - 1) / chunkBytes

/-- The next chunk's range of the source. -/
def chunkLo (c : CollOp) : Nat := c.chunk * chunkBytes
def chunkLen (c : CollOp) : Nat := min chunkBytes (sourceBytes c - chunkLo c)

/-- Ranks whose sources a kind reads. -/
def readsRank (c : CollOp) (r : Nat) : Bool := c.kind != 0 || r == c.root

/-! ## Reductions (R54, R196) -/

def reduceInt (w : Nat) (signed : Bool) (rop a b : Nat) : Nat :=
  let le := if signed then decide (toSigned w a ≤ toSigned w b) else decide (a ≤ b)
  match rop with
  | 0 => (a + b) % 2 ^ w
  | 1 => if le then a else b
  | 2 => if le then b else a
  | 3 => a &&& b
  | 4 => a ||| b
  | _ => a ^^^ b

def reduceFloat (f : Fmt) (rop a b : Nat) : Nat :=
  match rop with
  | 0 => addElem f 0 0 false a b
  | 1 => minmaxElem f false a b
  | _ => minmaxElem f true a b

def reducePacked (f : Fmt) (rop a b : Nat) : Nat :=
  packElements 16 (((elements 16 2 a).zip (elements 16 2 b)).map (fun p => reduceFloat f rop p.1 p.2))

/-- Two elements combined. -/
def reduceElem (etype rop a b : Nat) : Nat :=
  match etype with
  | 4 => reduceInt 32 true rop a b
  | 5 => reduceInt 32 false rop a b
  | 6 => reduceInt 64 true rop a b
  | 7 => reduceInt 64 false rop a b
  | 8 => reduceFloat fmtF32 rop a b
  | 9 => reduceFloat fmtF64 rop a b
  | 10 => reducePacked fmtF16 rop a b
  | _ => reducePacked fmtBF16 rop a b

/-- A NaN of a format becomes its canonical NaN. -/
def canonNan (f : Fmt) (a : Nat) : Nat := if decodeNum f a == .nan then fmtNan f else a

/-- A value with its NaNs canonical, which a lone rank's result is too (R35, R196). -/
def canonElem (etype a : Nat) : Nat :=
  match etype with
  | 8 => canonNan fmtF32 a
  | 9 => canonNan fmtF64 a
  | 10 => packElements 16 ((elements 16 2 a).map (canonNan fmtF16))
  | 11 => packElements 16 ((elements 16 2 a).map (canonNan fmtBF16))
  | _ => a

/-- The values of one position, one for each rank in increasing rank, combined from the left. -/
def reduceAll (etype rop : Nat) (vs : List Nat) : Nat :=
  match vs with
  | [] => 0
  | v :: r => canonElem etype (r.foldl (reduceElem etype rop) v)

/-- The agreed exponent of a block (R54). -/
def agreedExp (vs : List Nat) : Int := (vs.filterMap blockExp).foldl max (-126)

/-- One position of an `.xsum` block (R54). -/
def xsumElem (e : Int) (vs : List Nat) : Nat :=
  let ns := vs.map (decodeNum fmtF32)
  let pos := ns.any (fun x => x == .inf false)
  let neg := ns.any (fun x => x == .inf true)
  if ns.any (fun x => x == .nan) || (pos && neg) then fmtNan fmtF32
  else if pos then fmtInf fmtF32 false
  else if neg then fmtInf fmtF32 true
  else dequantise 0 0 false ((vs.map (fun v => quantise 0 0 v e)).foldl (· + ·) 0) e

/-- The values of an `.xsum` collective: the elements now complete with their results, and those whose block goes on. -/
def xsumBlocks (c : CollOp) (avail : List (Nat × List Nat)) (upto : Nat) : List (Nat × Nat) × List (Nat × List Nat) :=
  let b := 2 ^ (c.xblk + 4)
  let whole := fun (e : Nat) => decide (min ((e / b + 1) * b) c.cnt ≤ upto)
  let ready := avail.filter (fun p => whole p.1)
  let exps := (ready.map (fun p => p.1 / b)).eraseDups.map (fun k =>
    (k, agreedExp ((ready.filter (fun p => p.1 / b == k)).flatMap (fun p => p.2))))
  (ready.map (fun p => (p.1, xsumElem ((getKey exps (p.1 / b)).getD (-126)) p.2)), avail.filter (fun p => !whole p.1))

/-! ## The sectors of a chunk (R195, R298, R299) -/

/-- Elements of source bytes. -/
def chunkElems (c : CollOp) (bs : List Byte) : List Nat :=
  elements (8 * etypeSize c.etype) (bs.length / etypeSize c.etype) (bytesNat bs)

/-- The rank writes what a chunk delivers. -/
def receives (c : CollOp) : Bool :=
  match c.kind with
  | 1 => c.rank == c.root
  | 3 => c.rank == c.root
  | _ => true

/-- Elements of the `.xsum` blocks that the chunk completes: the first, and the one after the last (R196). -/
def xsumRange (c : CollOp) : Nat × Nat :=
  let b := 2 ^ (c.xblk + 4)
  let upto := (chunkLo c + chunkLen c) / etypeSize c.etype
  (chunkLo c / etypeSize c.etype / b * b, if upto ≥ c.cnt then c.cnt else upto / b * b)

/-- Runs of bytes that the rank writes in the chunk, by offset from DSTB. -/
def chunkRuns (c : CollOp) : List (Nat × Nat) :=
  let x := c.cnt * etypeSize c.etype
  let lo := chunkLo c
  let n := chunkLen c
  let reduced := if c.xsum then
      let r := xsumRange c
      if r.1 < r.2 then [(r.1 * etypeSize c.etype, (r.2 - r.1) * etypeSize c.etype)] else []
    else [(lo, n)]
  if !receives c then []
  else
    match c.kind with
    | 0 => [(lo, n)]
    | 1 => reduced
    | 2 => reduced
    | 3 => (List.range c.nrank).map (fun r => (r * x + lo, n))
    | 4 => (List.range c.nrank).map (fun r => (r * x + lo, n))
    | _ =>
      let b := c.rank * x
      let from_ := max lo b
      let upto := min (lo + n) (b + x)
      if from_ < upto then (List.range c.nrank).map (fun r => (r * x + (from_ - b), upto - from_)) else []

/-- The sectors of a run: naturally aligned in the destination. -/
def runCuts (d : W64) (r : Nat × Nat) : List (Nat × Nat) :=
  let a := d + BitVec.ofNat 64 r.1
  (List.range (runSectors a r.2)).filterMap (fun j => (runSector a r.2 j).map (fun x => (r.1 + x.1, x.2)))

def writeSectors (c : CollOp) : List (Nat × Nat) := (chunkRuns c).flatMap (runCuts c.dstb)

/-- Parts of the chunk whose terms an `.xsum` rank reads before the block they belong to is written. -/
def termSectors (c : CollOp) : List (Nat × Nat) :=
  if c.xsum && receives c then
    (List.range ((chunkLen c + 31) / 32)).map (fun i => (chunkLo c + 32 * i, min 32 (chunkLen c - 32 * i)))
  else []

/-- The sectors of the chunk in progress, with what they cover: of every source, or of the destination. -/
def rankSectors (c : CollOp) : List (Bool × Nat × Nat) :=
  (termSectors c).map (fun p => (false, p)) ++ (writeSectors c).map (fun p => (true, p))

/-- What n bytes of the destination are made of: rank, offset in its source, bytes. -/
def sectorNeeds (c : CollOp) (off n : Nat) : List (Nat × Nat × Nat) :=
  let es := etypeSize c.etype
  let x := c.cnt * es
  let whole := (List.range c.nrank).map (fun r => (r, off / es * es, ((off + n - 1) / es + 1 - off / es) * es))
  match c.kind with
  | 0 => [(c.root, off, n)]
  | 1 => if c.xsum then [] else whole
  | 2 => if c.xsum then [] else whole
  | 5 => [(off / x, c.rank * x + off % x, n)]
  | _ => [(off / x, off % x, n)]

/-- For each element number from e0, the values of all ranks. -/
def termsAt (c : CollOp) (e0 : Nat) (got : List (List Byte)) : List (Nat × List Nat) :=
  let cols := got.map (chunkElems c)
  (List.range ((cols.headD []).length)).map (fun i => (e0 + i, cols.map (fun col => col.getD i 0)))

/-- The bytes of a sector of the destination. -/
def sectorValue (c : CollOp) (off n : Nat) (got : List (List Byte)) : List Byte :=
  let es := etypeSize c.etype
  let e0 := off / es
  let cut := fun (bs : List Byte) => (bs.drop (off - e0 * es)).take n
  if !reduces c.kind then got.flatten
  else if c.xsum then
    let b := 2 ^ (c.xblk + 4)
    let mine := c.terms.filter (fun p => decide (e0 / b ≤ p.1 / b ∧ p.1 / b ≤ (off + n - 1) / es / b))
    let vals := (xsumBlocks c mine (xsumRange c).2).1
    cut ((List.range ((off + n - 1) / es + 1 - e0)).flatMap (fun i => natBytes es ((getKey vals (e0 + i)).getD 0)))
  else cut ((termsAt c e0 got).flatMap (fun p => natBytes es (reduceAll c.etype c.rop p.2)))

/-! ## Sources (R194, R357) -/

/-- Where a rank's source begins, where the rank is on this chip. -/
def peerSrc (s : State) (tk : Token) (r : Nat) : Option W64 :=
  (groupTokens s tk).findSome? (fun p => match collOf p.2 with
    | some d => if d.rank == r then some d.srcb else none
    | none => none)

/-- A place on another chip as the site of a request. -/
def farSite (chip : Nat) (p : Bool × Nat × Nat) : Site :=
  { win := p.1, chip := chip, core := if p.1 then p.2.1 / 2 ^ 28 % 128 else paCore p.2.1, off := p.2.1 % 2 ^ 28, key := p.2.1, attr := 1,
    size := 0 }

/-- n bytes from an offset of pieces, cut at lines. -/
def farCut : List (Bool × Nat × Nat) → Nat → Nat → List (Bool × Nat × Nat)
  | [], _, _ => []
  | p :: r, from_, n =>
    if p.2.2 ≤ from_ then farCut r (from_ - p.2.2) n
    else
      let k := min n (p.2.2 - from_)
      (linesOf (BitVec.ofNat 64 (p.2.1 + from_)) k).map (fun l => (p.1, l.1.toNat, l.2)) ++ farCut r 0 (n - k)

/-- The pieces of a rank's source on another chip, with its chip. -/
def farPieces (c : CollOp) (r from_ n : Nat) : Nat × List (Bool × Nat × Nat) :=
  (((c.rtab[r]?).map rankChip).getD 0,
   farCut (((c.far.find? (fun x => x.rank == r)).map (·.src)).getD []) (from_ - chunkLo c) n)

/-- The lines of another chip are at hand, or are asked for. -/
def touchFar (core : Nat) (tk : Token) (c : CollOp) (asker : Asker) (chip : Nat) : List (Bool × Nat × Nat) → State →
    Except EngStop Unit × State
  | [], s => (.ok (), s)
  | p :: r, s =>
    let site := farSite chip p
    match getKey c.lines (siteTag site) with
    | some bs =>
      if bs.length < 128 then (.error (.fault (recordFor s core tk .uncorrectable)), s) else touchFar core tk c asker chip r s
    | none => (.error .wait, (touchFar core tk c asker chip r (askLine s core tk asker site)).2)

/-- What a sector reads made ready, rank by rank; a stop names the rank whose source it concerns. -/
def touchNeeds (core : Nat) (tk : Token) (c : CollOp) (asker : Asker) : List (Nat × Nat × Nat) → State →
    Except (EngStop × Nat) Unit × State
  | [], s => (.ok (), s)
  | (r, from_, n) :: rest, s =>
    let one : Except EngStop Unit × State := match peerSrc s tk r with
      | some a => touchPieces core tk c.lines asker false (linesOf (a + BitVec.ofNat 64 from_) n) s
      | none => touchFar core tk c asker (farPieces c r from_ n).1 (farPieces c r from_ n).2 s
    match one with
    | (.ok _, s1) => touchNeeds core tk c asker rest s1
    | (.error .wait, s1) => (.error (.wait, r), (touchNeeds core tk c asker rest s1).2)
    | (.error e, s1) => (.error (e, r), s1)

/-- The bytes of what a sector reads. -/
def fetchNeeds (core : Nat) (tk : Token) (c : CollOp) : List (Nat × Nat × Nat) → State → List (List Byte) × State
  | [], s => ([], s)
  | (r, from_, n) :: rest, s =>
    let one : List Byte × State := match peerSrc s tk r with
      | some a => fetchPieces core tk c.lines (linesOf (a + BitVec.ofNat 64 from_) n) s
      | none =>
        let q := farPieces c r from_ n
        (q.2.flatMap (fun p =>
          (((getKey c.lines (siteTag (farSite q.1 p))).getD []).drop (p.2.1 % 128)).take p.2.2), s)
    let more := fetchNeeds core tk c rest one.2
    (one.1 :: more.1, more.2)

/-! ## Boundaries (R206, R289, R290, R301) -/

def setColl (s : State) (core slot : Nat) (f : CollOp → CollOp) : State :=
  modToken s core slot (fun tk => match tk.op with
    | .coll c => { tk with op := .coll (f c) }
    | _ => tk)

/-- The rank's part is complete: every chunk has moved. -/
def collFinished (c : CollOp) : Bool := !c.open_ && decide (c.chunk ≥ chunkTotal c) && c.fault.isNone

/-- A rank at a chunk boundary. A collective with nothing to move is complete at its first one (R283). -/
def collStop (s : State) (core slot : Nat) : State :=
  match getToken s core slot with
  | none => s
  | some tk =>
    match collOf tk with
    | none => s
    | some c =>
      if tk.st != .running || tk.flipping then s
      else if c.kind != 6 && collFinished c && decide (0 < chunkTotal c) && !inFlight s core slot then endToken s core slot .done none
      else match c.fault with
        | some r => endPeers (endToken s core slot .faulted (some r)) core tk 5
        | none =>
          if revoking s tk.asid then revokeToken s core tk
          else if tk.cxl then endPeers (endToken s core slot .cancelled none) core tk 5
          else if c.bad then endToken s core slot .faulted (some (subcodeRecord s core tk 2))
          else if !c.stopped.isEmpty then endToken s core slot .faulted (some (subcodeRecord s core tk 5))
          else s

/-- A rank with no chunk in progress stands at a boundary. -/
def collBoundary (s : State) (core slot : Nat) : State :=
  match (getToken s core slot).bind collOf with
  | none => s
  | some c => if c.open_ then s else collStop s core slot

/-- A fault of a part of a rank: the first is the one that ends it, at the boundary; later ones set MORE (R290, R291). -/
def collFail (s : State) (core slot part : Nat) (r : TokRec) : State :=
  collBoundary (setColl s core slot (fun c => { c with
    failed := part :: c.failed
    blocked := c.blocked.filter (fun b => b.1 != part)
    todo := c.todo.filter (· != part)
    fault := some (match c.fault with
      | some x => { x with more := true }
      | none => r) })) core slot

/-- Parts of a rank that waited for a service which will not come: they fail, with the record, or with none where the answer cancels
the token (R292, R346). -/
def collGiveUp (s : State) (core slot : Nat) (parts : List Nat) (r : Option TokRec) : State :=
  match r with
  | some x => parts.foldl (fun st j => collFail st core slot j x) s
  | none =>
    let s1 := setColl s core slot (fun c => { c with
      failed := parts ++ c.failed, blocked := c.blocked.filter (fun b => !parts.contains b.1), todo := c.todo.filter (fun j => !parts.contains j) })
    collBoundary (modToken s1 core slot (fun tk => { tk with cxl := true })) core slot

/-- A part of a rank that stops: it waits for a service, or fails. -/
def rankStop (s : State) (core : Nat) (tk : Token) (part unit : Nat) (e : EngStop) (pool : Bool) : State :=
  match partStop s core tk e unit pool with
  | (.waits id, s1) => setColl s1 core tk.slot (fun c => { c with blocked := (part, id) :: c.blocked })
  | (.ends r, s1) => collFail s1 core tk.slot part r
  | (.later, s1) => s1

/-! ## A sector -/

/-- The addresses that a sector reads and writes on the issuing chip's side. -/
def rankPieces (s : State) (tk : Token) (c : CollOp) (j : Nat) : List (W64 × Nat) × List (W64 × Nat) :=
  match (rankSectors c)[j]? with
  | none => ([], [])
  | some (wr, off, n) =>
    let needs := if wr then sectorNeeds c off n else (List.range c.nrank).map (fun r => (r, off, n))
    (needs.filterMap (fun q => (peerSrc s tk q.1).map (fun a => (a + BitVec.ofNat 64 q.2.1, q.2.2))),
     if wr then [(c.dstb + BitVec.ofNat 64 off, n)] else [])

/-- A sector of a rank may take its next step. An `.xsum` block is written once all its terms have been read. -/
def rankReady (s : State) (core : Nat) (tk : Token) (c : CollOp) (j : Nat) : Bool :=
  mayAccess s tk && c.open_ && decide (j < c.total) && !c.done.contains j && !c.failed.contains j && !c.blocked.any (fun b => b.1 == j)
    && !sectorOut s core tk.slot 0 j
    && (decide (j < (termSectors c).length) || (List.range (termSectors c).length).all c.done.contains)

/-- A sector is done, and the bytes it has written are counted (R175, R299). -/
def rankDone (s : State) (core : Nat) (tk : Token) (c : CollOp) (j n : Nat) : State :=
  let s1 := setColl (setToken s core { tk with age := 0 }) core tk.slot (fun d => { d with
    done := j :: d.done, acked := d.acked.filter (· != j) })
  match getToken s1 core tk.slot with
  | none => s1
  | some x => countBytes (charge s1 tk.asid 7 1) core x c.arrive n

/-- A sector goes as far as it can: read, combined, written here or sent, done. -/
def rankSector (s : State) (core : Nat) (tk : Token) (c : CollOp) (j : Nat) : State :=
  let asker := Asker.sector tk.slot 0 j
  match (rankSectors c)[j]? with
  | none => s
  | some (wr, off, n) =>
    if c.acked.contains j then rankDone s core tk c j n
    else
      let pc := rankPieces s tk c j
      let pool := piecesPool s tk.asid (pc.1 ++ pc.2)
      let needs := if wr then sectorNeeds c off n else (List.range c.nrank).map (fun r => (r, off, n))
      match touchNeeds core tk c asker needs s with
      | (.error e, s1) => rankStop s1 core tk j e.2 e.1 pool
      | (.ok _, s1) =>
        if !wr then
          let got := fetchNeeds core tk c needs s1
          setColl (setToken got.2 core { tk with age := 0 }) core tk.slot (fun d => { d with
            done := j :: d.done, terms := d.terms ++ termsAt c (off / etypeSize c.etype) got.1 })
        else
          match touchPieces core tk c.lines asker true pc.2 s1 with
          | (.error e, s2) => rankStop s2 core tk j c.rank e pool
          | (.ok _, s2) =>
            let got := fetchNeeds core tk c needs s2
            let out := deliverPiece got.2 core tk asker (c.dstb + BitVec.ofNat 64 off) (sectorValue c off n got.1)
            if out.1 then
              match getToken out.2 core tk.slot with
              | some x => rankDone out.2 core x c j n
              | none => out.2
            else out.2

/-! ## The chunk event -/

/-- Nothing of the rank's chunk is left to do: every sector is done, or a fault has ended it or a term that it needs. -/
def chunkOver (c : CollOp) : Bool :=
  !c.open_ || (List.range c.total).all (fun j => c.done.contains j || c.failed.contains j
    || (!c.failed.isEmpty && decide ((termSectors c).length ≤ j) && !(termSectors c).isEmpty))

/-- The rank's chunk ends: it counts as completed unless a part of it failed, and terms of blocks that go on are kept (R196). -/
def closeChunk (s : State) (p : Nat × Token × CollOp) : State :=
  setColl s p.1 p.2.1.slot (fun d =>
    if !d.open_ then d
    else
      { d with
        chunk := if d.failed.isEmpty then d.chunk + 1 else d.chunk
        terms := if d.xsum && d.failed.isEmpty then d.terms.filter (fun x => decide ((xsumRange d).2 ≤ x.1)) else d.terms
        open_ := false, total := 0, done := [], acked := [], failed := [], blocked := [], lines := [], far := [] })

/-- The rank's next chunk begins. -/
def openChunk (remote : List RemoteRank) (s : State) (p : Nat × Token × CollOp) : State :=
  setColl s p.1 p.2.1.slot (fun d => { d with open_ := true, total := (rankSectors d).length, far := remote })

/-- The event brings word of every rank on another chip, in the order of the ranks. -/
def remoteFits (s : State) (c : CollOp) (remote : List RemoteRank) : Bool := remote.map (·.rank) == remoteRanks s c

/-- The sources that the next chunk reads on other chips are all given. -/
def remoteSources (c : CollOp) (remote : List RemoteRank) : Bool :=
  remote.all (fun r => r.word == .goes && (!readsRank c r.rank || decide ((r.src.map (fun p => p.2.2)).sum = chunkLen c)))

/-- The ranks of a list that still run. -/
def stillRun (s : State) (ranks : List (Nat × Token × CollOp)) : List (Nat × Token × CollOp) :=
  ranks.filterMap (fun p => match getToken s p.1 p.2.1.slot with
    | some tk => if tk.st == .running && !tk.flipping then (collOf tk).map (fun d => (p.1, tk, d)) else none
    | none => none)

/-- What ranks on other chips have met stands with every rank here. -/
def noteRemote (remote : List RemoteRank) (s : State) (p : Nat × Token × CollOp) : State :=
  setColl s p.1 p.2.1.slot (fun d => { d with
    bad := d.bad || remote.any (fun r => r.word == .differs)
    stopped := (remote.filter (fun r => r.word == .stopped)).map (·.rank) ++ d.stopped })

/-- A chunk of a collective other than a shuffle may end on this chip's ranks. -/
def chunkReady (s : State) (ranks : List (Nat × Token × CollOp)) : Bool :=
  ranks.all (fun p => mayAccess s p.2.1 && chunkOver p.2.2 && !inFlight s p.1 p.2.1.slot)

/-- The boundary on every rank of this chip: the chunk that was in progress has ended, and ranks stop that have a reason to. -/
def chunkEnd (s : State) (ranks : List (Nat × Token × CollOp)) (remote : List RemoteRank) : State :=
  let s1 := ranks.foldl (noteRemote remote) (ranks.foldl closeChunk s)
  let now := stillRun s1 ranks
  let s2 := (now.filter (fun p => collFinished p.2.2) ++ now.filter (fun p => !collFinished p.2.2)).foldl
    (fun st p => collStop st p.1 p.2.1.slot) s1
  (stillRun s2 ranks).foldl (fun st p => if chunkTotal p.2.2 == 0 then endToken st p.1 p.2.1.slot .done none else st) s2

/-- The next chunk may begin: no rank has ended or is held, chunks are left, and the sources elsewhere are known. -/
def mayOpen (s : State) (ranks : List (Nat × Token × CollOp)) (remote : List RemoteRank) : Bool :=
  (stillRun s ranks).length == ranks.length && (stillRun s ranks).all (fun p =>
    decide (p.2.2.chunk < chunkTotal p.2.2) && !tokenHeld s p.1 p.2.1 && remoteSources p.2.2 remote)

/-- The chunk event: the boundary, and the next chunk. None where it would change nothing. -/
def chunkStep (s : State) (ranks : List (Nat × Token × CollOp)) (remote : List RemoteRank) : Option State :=
  let s1 := chunkEnd s ranks remote
  if mayOpen s1 ranks remote then some ((stillRun s1 ranks).foldl (openChunk remote) s1)
  else if ranks.any (fun p => p.2.2.open_) || (stillRun s1 ranks).length != ranks.length then some s1
  else none

/-- `coll` (R193 to R197), its creation and the comparison with its group. -/
def createColl (s : State) (uid tid : Nat) (c : Cur) (o : Long) (op : CollOp) : Except Act (W32 × State) :=
  let core := teamCore c.team
  let op1 := { op with nth := nextNth s core c.team.asid op.grp }
  orStop (createOne s uid tid c o (.coll op1)) (fun r =>
    let s1 := bumpNth r.2 core c.team.asid op.grp
    match findToken s1 c.team.asid r.1 with
    | none => .ok (r.1, s1)
    | some p =>
      let differs := (groupTokens s1 p.2).any (fun q => match collOf q.2 with
        | some d => !sameParams d op1
        | none => false)
      .ok (r.1, if differs then spoilGroup s1 p.2 else s1))

end Sys2Proof.Machine
end

