-- ==== Sys2Proof/Machine/Shuffle.lean ====
section
/-! DEFINITION. `coll` whole, `sireg` and `sidrop`: opcodes 0xDC to 0xDE (R193, R198 to R201), and coded shuffles: announcements,
the Prism, decoding, delivery and resends (R368 to R376). -/

namespace Sys2Proof.Machine

open Sys2Proof

/-! ## Segments and packets (R357, R369, R370) -/

/-- CRC-32C. -/
def crcBits : Nat → Nat → Nat
  | 0, c => c
  | n + 1, c => crcBits n (if c % 2 == 1 then (c / 2) ^^^ 0x82F63B78 else c / 2)
def crc32c (bs : List Byte) : Nat := (bs.foldl (fun c b => crcBits 8 (c ^^^ b.toNat)) 0xFFFFFFFF) ^^^ 0xFFFFFFFF

/-- A code-list entry (R370). -/
structure Comp where
  sum   : Nat
  schip : Nat
  score : Nat
  dcore : Nat
  bid   : Nat
  deriving DecidableEq, Repr

def compNat (c : Comp) : Nat :=
  c.bid + c.dcore % 128 * 2 ^ 78 + c.score % 128 * 2 ^ 85 + c.schip % 16 * 2 ^ 92 + c.sum * 2 ^ 96
def compOf (n : Nat) : Comp :=
  { sum := bitsAt n 127 96, schip := bitsAt n 95 92, score := bitsAt n 91 85, dcore := bitsAt n 84 78, bid := bitsAt n 47 0 }

def segBytes (blog : Nat) : Nat := min (2 ^ blog) 128
def segCount (blog : Nat) : Nat := 2 ^ blog / segBytes blog

def pktGrp (p : Packet) : W32 := BitVec.ofNat 32 (bitsAt p.addr.toNat 51 20)
def pktSeg (p : Packet) : Nat := bitsAt p.addr.toNat 19 11
def pktBlog (p : Packet) : Nat := bitsAt p.addr.toNat 10 7 + 6
def pktCount (p : Packet) : Nat := bitsAt p.addr.toNat 6 5 + 1
def shufAddr (grp : W32) (seg blog n : Nat) : BitVec 52 :=
  BitVec.ofNat 52 (grp.toNat * 2 ^ 20 + seg * 2 ^ 11 + (blog - 6) * 2 ^ 7 + (n - 1) * 2 ^ 5)

/-- The code list of a packet and its data. -/
def pktComps (p : Packet) : List Comp :=
  (List.range (pktCount p)).map (fun j => compOf (bytesNat ((p.data.drop (16 * j)).take 16)))
def pktData (p : Packet) : List Byte := p.data.drop (16 * pktCount p)

/-- A packet of kinds 6 to 10. -/
def shufPacket (ftag : BitVec 16) (schip dchip score dcore kind : Nat) (addr : BitVec 52) (data : List Byte) : Packet :=
  { ftag := ftag, schip := BitVec.ofNat 4 schip, dchip := BitVec.ofNat 4 dchip, score := BitVec.ofNat 7 score,
    dcore := BitVec.ofNat 7 dcore, chan := 5, kind := BitVec.ofNat 4 kind, len := BitVec.ofNat 9 data.length, rly := false,
    be := false, seq := 0, win := false, rsv := 0, addr := addr, data := data }

/-- A CSB or USB of components with equal tag, group, block size and segment. -/
def segPacket (ftag : BitVec 16) (dchip : Nat) (grp : W32) (seg blog : Nat) (cs : List Comp) (data : List Byte) : Packet :=
  let h := cs.headD { sum := 0, schip := 0, score := 0, dcore := 0, bid := 0 }
  shufPacket ftag h.schip dchip h.score h.dcore (if cs.length == 1 then 7 else 6) (shufAddr grp seg blog cs.length)
    (cs.flatMap (fun c => natBytes 16 (compNat c)) ++ data)

/-! ## The Prism (R368, R369) -/

def getPrism (s : State) (port : Nat) : Prism := (s.fab.prisms.find? (fun q => q.port == port)).getD { port := port, segs := [] }
def setPrism (s : State) (q : Prism) : State :=
  let all := if q.segs.isEmpty then s.fab.prisms.filter (fun x => x.port != q.port)
    else upsert (fun x => x.port == q.port) q s.fab.prisms
  { s with fab := { s.fab with prisms := all } }

/-- The have-table shows that the core behind the port holds the block. -/
def haveBlock (s : State) (p : Packet) (chip core bid : Nat) : Bool :=
  s.fab.have_.any (fun h => h.ftag == p.ftag && h.grp == pktGrp p && h.blog == pktBlog p && h.bid == bid && h.chip == chip
    && h.core == core)

def headComp (p : Packet) : Comp := (pktComps p).headD { sum := 0, schip := 0, score := 0, dcore := 0, bid := 0 }

/-- Two segments that may stand in one group (R369). -/
def codesWith (s : State) (a b : PrismSeg) : Bool :=
  let x := headComp a.pkt
  let y := headComp b.pkt
  !a.coded && !b.coded && !a.resend && !b.resend && a.pkt.ftag == b.pkt.ftag && pktGrp a.pkt == pktGrp b.pkt
    && pktBlog a.pkt == pktBlog b.pkt && pktSeg a.pkt == pktSeg b.pkt && a.pkt.dchip == b.pkt.dchip && x.dcore != y.dcore
    && haveBlock s a.pkt a.pkt.dchip.toNat x.dcore y.bid && haveBlock s b.pkt b.pkt.dchip.toNat y.dcore x.bid

/-- The smallest DEG + 2 of a group. -/
def groupLimit (g : List PrismSeg) : Nat := g.foldl (fun m x => min m (x.deg + 2)) 4

/-- The group of the head segment, built greedily in queue order, and the segments that stay. -/
def prismGroup (s : State) (head : PrismSeg) (rest : List PrismSeg) : List PrismSeg × List PrismSeg :=
  rest.foldl (fun (g : List PrismSeg × List PrismSeg) x =>
    if g.1.length < groupLimit (g.1 ++ [x]) && g.1.all (codesWith s x) then (g.1 ++ [x], g.2) else (g.1, g.2 ++ [x])) ([head], [])

def xorBytes (a b : List Byte) : List Byte := (a.zip b).map (fun p => p.1 ^^^ p.2)

/-- The packet of a group: the USB itself, or a CSB with the XOR of the segments. -/
def groupPacket (g : List PrismSeg) : Packet :=
  match g with
  | [] => shufPacket 0 0 0 0 0 7 0 []
  | [x] => x.pkt
  | x :: r =>
    segPacket x.pkt.ftag x.pkt.dchip.toNat (pktGrp x.pkt) (pktSeg x.pkt) (pktBlog x.pkt) (g.map (fun y => headComp y.pkt))
      (r.foldl (fun d y => xorBytes d (pktData y.pkt)) (pktData x.pkt))

/-- The oldest RUNNING shuffle of the context on a core that carries the group. -/
def shuffleAt (s : State) (core asid : Nat) (grp : W32) : Option (Token × CollOp) :=
  ((getCore s core).tokens.filterMap (fun t => match t.op with
    | .coll c => if c.kind == 6 && c.grp == grp && t.asid == asid && t.st == .running then some (t, c) else none
    | _ => none)).foldl (fun b x => match b with
      | none => some x
      | some y => if x.1.born < y.1.born then some x else b) none

/-- Packets for a paused rank are discarded on arrival (R301). -/
def rankPaused (s : State) (core : Nat) (p : Packet) : Bool :=
  match shuffleAt s core (tagAsid p.ftag) (pktGrp p) with
  | some x => tokenHeld s core x.1
  | none => false

/-- A packet reaches its cores: a CSB takes a decode slot at each destination, a USB none (R374). One of a revoked tag is discarded
(R367). -/
def intoCores (s : State) (cores : List Nat) (p : Packet) : State :=
  if !tagLive s p.ftag then s
  else if p.kind == 6 then
    cores.foldl (fun st c => if rankPaused st c p then st else modCore st c (fun k => { k with decode := k.decode ++ [p] })) s
  else if cores.any (fun c => rankPaused s c p) then s
  else { s with fab := { s.fab with local_ := s.fab.local_ ++ [p] } }

/-- A group leaves a Prism: on its link, or into the die's mesh. -/
def prismOut (s : State) (port : Nat) (g : List PrismSeg) : State :=
  let p := groupPacket g
  if port < 15 then enqueue s port p else intoCores s ((pktComps p).map (·.dcore)) p

/-! ### Decode permits (R374) -/

/-- Permits that a Prism holds for a core. -/
def permitsFor (s : State) (port chip core : Nat) : Nat :=
  ((s.fab.permits.find? (fun x => x.1 == port && x.2.1 == chip && x.2.2.1 == core)).map (fun x => x.2.2.2)).getD 0

def setPermits (s : State) (port chip core n : Nat) : State :=
  { s with fab := { s.fab with permits :=
      (port, chip, core, n) :: s.fab.permits.filter (fun x => !(x.1 == port && x.2.1 == chip && x.2.2.1 == core)) } }

/-- Decode slots of a core of this chip that are taken or promised. -/
def slotsBound (s : State) (core : Nat) : Nat :=
  (getCore s core).decode.length + ((s.fab.permits.filter (fun x => x.2.1 == chipId s && x.2.2.1 == core)).map (fun x => x.2.2.2)).sum

/-- A core grants a Prism 16 more permits, up to 64, where it has as many slots; what a core of another chip has is for it to say. -/
def grantPermits (s : State) (port chip core : Nat) : State :=
  let n := permitsFor s port chip core
  let may := if chip == chipId s then decide (slotsBound s core + 16 ≤ Config.decodeSlots) else Config.farPermit s.cycle port chip core
  if n == 0 && may then setPermits s port chip core 16 else s

/-- The destination cores of a coded group. -/
def groupCores (g : List PrismSeg) : List (Nat × Nat) := if g.length ≤ 1 then [] else g.map (fun x => (x.pkt.dchip.toNat, (headComp x.pkt).dcore))

/-- Permits asked for the cores of a group. -/
def askPermits (s : State) (port : Nat) (g : List PrismSeg) : State := (groupCores g).foldl (fun st k => grantPermits st port k.1 k.2) s

/-- The Prism holds a permit for each core of a coded group. -/
def slotsFree (s : State) (port : Nat) (g : List PrismSeg) : Bool :=
  let s1 := askPermits s port g
  (groupCores g).all (fun k => decide (0 < permitsFor s1 port k.1 k.2))

/-- A group leaves with the permits that it takes. -/
def takePermits (s : State) (port : Nat) (g : List PrismSeg) : State :=
  (groupCores g).foldl (fun st k => setPermits st port k.1 k.2 (permitsFor st port k.1 k.2 - 1)) (askPermits s port g)

/-- The head's group as it stands leaves. -/
def prismFlush (s : State) (port : Nat) : State :=
  let q := getPrism s port
  match q.segs with
  | [] => s
  | h :: r =>
    let g := prismGroup s h r
    if slotsFree s port g.1 then prismOut (setPrism (takePermits s port g.1) { q with segs := g.2 }) port g.1 else s

/-- Groups that are complete leave at once; a segment that may not be coded does not wait. -/
def prismSettle (port : Nat) : Nat → State → State
  | 0, s => s
  | n + 1, s =>
    match (getPrism s port).segs with
    | [] => s
    | h :: r =>
      let g := prismGroup s h r
      if (h.coded || h.resend || decide (g.1.length ≥ groupLimit g.1)) && slotsFree s port g.1 then prismSettle port n (prismFlush s port)
      else s

/-- A segment enters a Prism's queue; one of a revoked tag is discarded (R367). -/
def prismPush (s : State) (port : Nat) (x : PrismSeg) : State :=
  let q := getPrism s port
  if tagLive s x.pkt.ftag then prismSettle port (q.segs.length + 1) (setPrism s { q with segs := q.segs ++ [x] }) else s

/-- The die of a module core (R2). -/
def dieOf (core : Nat) : Nat := core / 16

/-- A segment goes to the hub: to the Prism of its link, or of the die that holds its core. -/
def hubSegment (s : State) (x : PrismSeg) : State :=
  let d := x.pkt.dchip.toNat
  if d == chipId s then prismPush s (15 + dieOf x.pkt.dcore.toNat) x
  else
    match routePort s x.pkt.score.toNat d, (portsTo s d).head? with
    | some n, _ => prismPush s n x
    | none, some n => prismPush s n x
    | none, none => s

/-- Segments that wait in the Prism of a port that is down go to the hub again, where there is another way (R364). -/
def movePrism (s : State) (port : Nat) : State :=
  let q := getPrism s port
  if port ≥ 15 || q.segs.isEmpty || portUp s port then s
  else
    let way := fun (x : PrismSeg) => (routePort s x.pkt.score.toNat x.pkt.dchip.toNat).isSome
    (q.segs.filter way).foldl hubSegment (setPrism s { q with segs := q.segs.filter (fun x => !way x) })

/-- What stands at ports that are down leaves on another way, and the framing of the cycle is sent (R355, R360, R364). -/
def linkSweep (s : State) : State :=
  let s1 := s.fab.ports.foldl moveQueue (sendWaiting s)
  let s2 := (s1.fab.prisms.map (·.port)).foldl movePrism s1
  s2.fab.ports.foldl (fun st lp => match getPort st lp.num with
    | some x => frameStep st x
    | none => st) s2

/-- A packet of kinds 8 to 10 goes to the hub. -/
def hubSend (s : State) (p : Packet) : State :=
  if p.dchip.toNat == chipId s then { s with fab := { s.fab with local_ := s.fab.local_ ++ [p] } }
  else sendToward s p.score.toNat p.dchip.toNat p

/-! ## Announcements (R368) -/

/-- Entries a hub records; beyond 65,536 they are not stored. -/
def haveStore (s : State) (es : List HaveEntry) : State :=
  let all := es.foldl (fun l e => if l.length ≥ 65536 || l.contains e then l else e :: l) s.fab.have_
  { s with fab := { s.fab with have_ := all } }

def haveDrop (s : State) (ftag : BitVec 16) (grp : W32) (chip core : Nat) : State :=
  let rest := s.fab.have_.filter (fun h => !(h.ftag == ftag && h.grp == grp && h.chip == chip && h.core == core))
  { s with fab := { s.fab with have_ := rest } }

/-- Lists cut into parts of 32. -/
def parts32 {α : Type} : Nat → List α → List (List α)
  | 0, _ => []
  | n + 1, l => if l.isEmpty then [] else l.take 32 :: parts32 n (l.drop 32)

/-- Chips that a rank table names. -/
def tableChips (tab : List W32) : List Nat := (tab.map rankChip).eraseDups

/-- A rank announces the blocks of its side list to every chip of its table. -/
def announce (s : State) (core asid : Nat) (c : CollOp) : State :=
  let ft := ftagOf s asid
  let mine := c.side.map (fun x => ({ ftag := ft, grp := c.grp, blog := c.blog, bid := x.1, chip := chipId s, core := core } : HaveEntry))
  let addr := BitVec.ofNat 52 (c.grp.toNat * 2 ^ 20 + (c.blog - 6) * 2 ^ 7)
  (tableChips c.rtab).foldl (fun st ch =>
    if ch == chipId st then haveStore st mine
    else
      (parts32 (c.side.length + 1) c.side).foldl (fun st es =>
        let data := es.flatMap (fun x => natBytes 8 (x.1 + core * 2 ^ 48))
        sendToward { st with fab := { st.fab with haveWait := st.fab.haveWait ++ [(ft, c.grp, ch, core)] } } core ch
          (shufPacket ft (chipId st) ch core 0 9 addr data)) st) s

/-- A rank that has ended takes its announcements back. -/
def withdraw (s : State) (core : Nat) (tk : Token) (c : CollOp) : State :=
  let ft := ftagOf s tk.asid
  let addr := BitVec.ofNat 52 (c.grp.toNat * 2 ^ 20 + (c.blog - 6) * 2 ^ 7)
  let s1 := (tableChips c.rtab).foldl (fun st ch =>
    if ch == chipId st then haveDrop st ft c.grp (chipId st) core
    else sendToward st core ch (shufPacket ft (chipId st) ch core 0 9 addr [])) s
  modToken s1 core tk.slot (fun x => { x with op := .coll { c with side := [] } })

/-- Shuffles of this chip whose end the hub has not yet seen. -/
def openShuffles (s : State) : List (Nat × Token × CollOp) :=
  (allTokens s).filterMap (fun p => match p.2.op with
    | .coll c => if c.kind == 6 && !c.left then some (p.1, p.2, c) else none
    | _ => none)

/-- Entries of a shuffle leave the hub once every sending rank here is terminal, and ended ranks withdraw. Each shuffle's end counts
once. -/
def haveSweep (s : State) : State :=
  let shufs := openShuffles s
  let done := shufs.filter (fun p => terminal p.2.1)
  if done.isEmpty then s
  else
    let s1 := done.foldl (fun st p =>
      let st1 := if p.2.2.side.isEmpty then st else withdraw st p.1 p.2.1 p.2.2
      setColl st1 p.1 p.2.1.slot (fun d => { d with left := true })) s
    let past := fun (h : HaveEntry) =>
      let mine := shufs.filter (fun p => p.2.1.asid == tagAsid h.ftag && p.2.2.grp == h.grp && !p.2.2.sends.isEmpty)
      !mine.isEmpty && mine.all (fun p => terminal p.2.1)
    { s1 with fab := { s1.fab with have_ := s1.fab.have_.filter (fun h => !past h) } }

/-! ## Issue (R198, R199) -/

/-- The rules of R198 on the block's own fields. -/
def sdbRules (n : Nat) : List (Bool × Nat) :=
  [ (decide (bitsAt n 271 256 ≤ 1024), 32), (bitsAt n 278 277 != 3, 34),
    (decide (6 ≤ bitsAt n 276 272 ∧ bitsAt n 276 272 ≤ 16), 34), (bitsAt n 511 281 == 0, 35) ]

/-- 8-byte entries. -/
def words64 : Nat → List Byte → List Nat
  | 0, _ => []
  | n + 1, bs => if bs.isEmpty then [] else bytesNat (bs.take 8) :: words64 n (bs.drop 8)

def sidePairs : List Nat → List (Nat × Nat)
  | a :: b :: r => (a, b) :: sidePairs r
  | _ => []

/-- A block that may be registered: in the core's own slice, aligned to 64 (R200). -/
def blockOk (s : State) (t : Team) (a len : Nat) : Bool :=
  inOwnSlice s t a && a % 64 == 0 && decide (winOff (BitVec.ofNat 64 a) + len ≤ Config.sliceBytes)

/-- The rules on the maps and the side list, each with the offset of the field that holds the list's address. -/
def mapRules (s : State) (t : Team) (nrank blog : Nat) (sm rm : List Nat) (sd : List (Nat × Nat)) : List (Bool × Nat) :=
  [ (sm.all (fun e => decide (bitsAt e 63 48 < nrank)), 0), (rm.all (fun e => bitsAt e 63 48 == 0), 8),
    (sd.all (fun e => bitsAt e.1 63 48 == 0 && blockOk s t e.2 (2 ^ blog)), 16) ]

/-- A list of the SDB read, or, where the block itself breaks a rule, what that reports if the list cannot be read. -/
def readMap (s : State) (uid tid : Nat) (c : Cur) (sdb : W64) (bad : Option Nat) (a : W64) (n : Nat) : Except Act (List Byte × State) :=
  match readRange s uid tid c a n, bad with
  | .error _, some off => .error (.trap s (blockTrap sdb off))
  | r, _ => r

/-- The SDB with its maps, read at issue; of the rules that fail, the one of the smallest offset is reported (R172). A side list of more
entries than the rules allow is not read. -/
def readSdb (s : State) (uid tid : Nat) (c : Cur) (ea : W64) (op : CollOp) : Except Act (CollOp × State) :=
  orStop (readBlock s uid tid c ea 64) (fun p =>
      let f := bitsAt p.1
      let at_ := fun (hi lo : Nat) => BitVec.ofNat 64 (f hi lo)
      let bad := firstOffset (sdbRules p.1)
      let nside := if f 271 256 ≤ 1024 then f 271 256 else 0
      orStop (readMap p.2 uid tid c ea bad (at_ 63 0) (8 * f 223 192)) (fun sm =>
        orStop (readMap sm.2 uid tid c ea bad (at_ 127 64) (8 * f 255 224)) (fun rm =>
          orStop (readMap rm.2 uid tid c ea bad (at_ 191 128) (16 * nside)) (fun sd =>
            let sends := words64 (f 223 192) sm.1
            let recvs := words64 (f 255 224) rm.1
            let side := sidePairs (words64 (2 * nside) sd.1)
            match firstOffset (mapRules sd.2 c.team op.nrank (f 276 272) sends recvs side ++ sdbRules p.1) with
            | some off => .error (.trap sd.2 (blockTrap ea off))
            | none =>
              .ok ({ op with
                blog := f 276 272, strict := f 280 280 == 1, unc := f 279 279 == 1, deg := f 278 277
                sends := sends.map (fun e => { bid := bitsAt e 47 0, rank := bitsAt e 63 48 })
                recvs := recvs.map (fun e => { bid := bitsAt e 47 0 })
                side := side.map (fun e => (bitsAt e.1 47 0, BitVec.ofNat 64 e.2)) }, sd.2)))))

/-- The side list registered as by `sireg`; entries that found no quota are left out. -/
def registerSide (s : State) (core asid : Nat) (c : CollOp) : CollOp × State :=
  let r := c.side.foldl (fun (x : List (Nat × W64) × State) e =>
    match sitRegister x.2 core asid (winOff e.2) e.1 (c.blog - 6) with
    | (some _, s1) => (x.1 ++ [e], s1)
    | (none, s1) => (x.1, s1)) ([], s)
  ({ c with side := r.1 }, r.2)

/-- `coll` (R193 to R199). -/
def execColl (o : Long) (s : State) : Host.Outcome State Fault Refusal :=
  run (.coll o) (sigR (useRaw 2 (srcA o) ++ useDst o.dst.toNat 1)) (fun s uid tid c =>
    let ea := opd64 c (srcA o)
    let core := teamCore c.team
    if !tokenRoom s c.team then .hold s .room
    else
      andThen (readCdb s uid tid c ea o) (fun p =>
        if p.1.kind != 6 then
          andThen (createColl p.2.2 uid tid c o p.1) (fun r => .done (putHandle r.2 uid tid o r.1))
        else
          andThen (readSdb p.2.2 uid tid c (BitVec.ofNat 64 (bitsAt p.2.1 255 192)) p.1) (fun q =>
            andThen (releasePart q.2 uid tid core c.team.asid (tokenScope o)) (fun s0 =>
              let g := registerSide s0 core c.team.asid q.1
              andThen (createColl g.2 uid tid c o g.1) (fun r =>
                let s1 := match findToken r.2 c.team.asid r.1 with
                  | some tk => if terminal tk.2 then r.2 else announce r.2 core c.team.asid g.1
                  | none => r.2
                .done (putHandle s1 uid tid o r.1)))))) s

/-! ## `sireg` and `sidrop` (R200, R201) -/

def isPow2 (n : Nat) : Bool := n != 0 && 2 ^ Nat.log2 n == n

/-- `sireg` (R200). -/
def execSireg (o : Long) (s : State) : Host.Outcome State Fault Refusal :=
  let b := regOpd o.kb o.sb
  run (.sireg o) (sigR (useRaw 2 (srcA o) ++ useOpd b 2 [.b32, .b32] ++ useTyped 0x01 (srcC o) ++ useDst o.dst.toNat 1))
    (fun s uid tid c =>
      let a := (opd64 c (srcA o)).toNat
      let id := (opd64 c b).toNat
      let len := (opd32 c (srcC o)).toNat
      if !isPow2 len || len < 64 || len > 65536 || !blockOk s c.team a len || id / 2 ^ 48 != 0 then .trap s (trapOf .reservedField)
      else
        let r := sitRegister s (teamCore c.team) c.team.asid (winOff (BitVec.ofNat 64 a)) id (Nat.log2 len - 6)
        .done (applyWrites r.2 uid tid (outR (result32 o.dst.toNat (BitVec.ofNat 32 (r.1.getD 0xFFFFFFFF)) .b32)))) s

/-- `sidrop` (R201). -/
def execSidrop (o : Long) (s : State) : Host.Outcome State Fault Refusal :=
  run (.sidrop o) (sigR (useOpd (srcA o) 2 [.b32, .b32] ++ useDst o.dst.toNat 1)) (fun s uid tid c =>
    let core := teamCore c.team
    let mine := fun (e : SitEntry) => e.asid == c.team.asid && e.bid == (opd64 c (srcA o)).toNat
    let had := (getCore s core).sit.any mine
    .done (applyWrites (sitRemove s core mine) uid tid (outR (result32 o.dst.toNat (BitVec.ofNat 32 had.toNat) .b32)))) s

/-- `sidrop.all` (R201). -/
def execSidropAll (o : Long) (s : State) : Host.Outcome State Fault Refusal :=
  run (.sidropAll o) (sigR (useDst o.dst.toNat 1)) (fun s uid tid c =>
    let core := teamCore c.team
    let n := (sitMine s core c.team.asid).length
    .done (applyWrites (sitRemove s core (fun e => e.asid == c.team.asid)) uid tid
      (outR (result32 o.dst.toNat (BitVec.ofNat 32 n) .b32)))) s

/-! ## Sending (R368, R369, R375) -/

/-- Everything sent is acknowledged and everything expected has come (R195, R375). -/
def shuffleDone (s : State) (core : Nat) (tk : Token) (c : CollOp) : Bool :=
  let n := segCount c.blog
  c.sending && collFinished c && c.sends.all (fun e => e.acked.length == n)
    && c.recvs.all (fun e => e.got.length == n) && !inFlight s core tk.slot

def shuffleFinish (s : State) (core slot : Nat) : State :=
  match getToken s core slot with
  | none => s
  | some tk =>
    match collOf tk with
    | none => s
    | some c => if tk.st == .running && c.kind == 6 && shuffleDone s core tk c then endToken s core slot .done none else s

/-- The source of a segment of send-map entry i. -/
def segmentPieces (c : CollOp) (i seg : Nat) : List (W64 × Nat) :=
  linesOf (c.srcb + BitVec.ofNat 64 (i * 2 ^ c.blog + seg * segBytes c.blog)) (segBytes c.blog)

/-- The model's names, among the parts of a rank, for a segment that it sends again and for one that it receives. -/
def againPart (i seg : Nat) : Nat := 2 ^ 60 + i * 1024 + seg
def recvPart (k seg : Nat) : Nat := 2 ^ 50 + k * 1024 + seg

/-- One segment of send-map entry i, read from the source and handed to the hub. -/
def sendSegment (s : State) (core : Nat) (tk : Token) (c : CollOp) (i seg : Nat) (resend : Bool) : State :=
  match c.sends[i]? with
  | none => s
  | some e =>
    let dst := c.rtab.getD e.rank 0
    let g := fetchPieces core tk c.lines (segmentPieces c i seg) s
    let cmp : Comp := { sum := crc32c g.1, schip := chipId s, score := core, dcore := rankCore dst, bid := e.bid }
    let pkt := segPacket (ftagOf s tk.asid) (rankChip dst) c.grp seg c.blog [cmp] g.1
    let mark := fun (l : List SendEntry) => ((List.range l.length).zip l).map (fun p =>
      if p.1 == i && !p.2.sent.contains seg then { p.2 with sent := seg :: p.2.sent } else p.2)
    hubSegment (setColl g.2 core tk.slot (fun d => { d with sends := mark d.sends }))
      { pkt := pkt, deg := c.deg, coded := c.unc, resend := resend }

/-- The source range of a segment made ready. -/
def touchSegment (s : State) (core : Nat) (tk : Token) (c : CollOp) (part i seg : Nat) : Except EngStop Unit × State :=
  touchPieces core tk c.lines (.sector tk.slot 0 part) false (segmentPieces c i seg) s

/-- Part j of a chunk of a shuffle: the entry of the send map and its segment. -/
def partSegment (c : CollOp) (j : Nat) : Nat × Nat := (j / segCount c.blog, j % segCount c.blog)

/-- The next chunk of a rank begins: its segments are to be sent. -/
def shuffleOpen (s : State) (p : Nat × Token × CollOp) : State :=
  setColl s p.1 p.2.1.slot (fun d =>
    if d.chunk ≥ chunkTotal d then d
    else
      let n := segBytes d.blog
      { d with open_ := true, todo := (List.range (chunkLen d / n)).map (fun k => chunkLo d / n + k) })

/-- A segment that may be sent. -/
def segmentReady (s : State) (core : Nat) (tk : Token) (c : CollOp) (j : Nat) : Bool :=
  mayAccess s tk && c.open_ && c.todo.contains j && !c.blocked.any (fun b => b.1 == j) && !sectorOut s core tk.slot 0 j

/-- A segment is read and sent. -/
def segmentSend (s : State) (core : Nat) (tk : Token) (c : CollOp) (j : Nat) : State :=
  let x := partSegment c j
  match touchSegment s core tk c j x.1 x.2 with
  | (.error e, s1) => rankStop s1 core tk j c.rank e (piecesPool s tk.asid (segmentPieces c x.1 x.2))
  | (.ok _, s1) =>
    let s2 := sendSegment (setToken s1 core { tk with age := 0 }) core tk c x.1 x.2 false
    setColl (charge s2 tk.asid 7 (segBytes c.blog / 32)) core tk.slot (fun d => { d with todo := d.todo.erase j })

/-- A resumed rank sends again what no SACK has acknowledged (R301, R375). -/
def shuffleResend (s : State) (core : Nat) (tk : Token) (c : CollOp) : State :=
  ((List.range c.sends.length).zip c.sends).foldl (fun st p =>
    (p.2.sent.filter (fun g => !p.2.acked.contains g)).foldl (fun st g => sendSegment st core tk c p.1 g true) st) s

/-- SHUFFLE_SEND_PHASE (R368): every rank here has issued and every announcement is acknowledged. -/
def execShuffleSendPhase (core slot : Nat) (s : State) : Host.Outcome State Fault Refusal :=
  match getToken s core slot with
  | none => .fault .notEnabled
  | some tk =>
    match collOf tk with
    | none => .fault .notEnabled
    | some c =>
      match runningRanks s tk c with
      | none => .fault .notEnabled
      | some ranks =>
        if c.kind != 6 || c.sending || ranks.any (fun p => tokenHeld s p.1 p.2.1 || !mayAccess s p.2.1)
            || s.fab.haveWait.any (fun h => h.1 == ftagOf s tk.asid && h.2.1 == c.grp) then .fault .notEnabled
        else
          .next (ranks.foldl (fun st p =>
            shuffleFinish (setColl st p.1 p.2.1.slot (fun d => { d with sending := true })) p.1 p.2.1.slot) s)

/-- PRISM_GROUP_TIMEOUT (R369): the head segment's group leaves as it stands. -/
def execPrismGroupTimeout (port : Nat) (s : State) : Host.Outcome State Fault Refusal :=
  match (getPrism s port).segs with
  | [] => .fault .notEnabled
  | h :: r =>
    if slotsFree s port (prismGroup s h r).1 then
      .next (let s1 := prismFlush s port
             prismSettle port ((getPrism s1 port).segs.length) s1)
    else .fault .notEnabled

/-- The RUNNING ranks of a collective on this chip. -/
def groupRanks (s : State) (tk : Token) : List (Nat × Token × CollOp) :=
  stillRun s ((groupTokens s tk).filterMap (fun p => (collOf p.2).map (fun d => (p.1, p.2, d))))

/-- A rank that will take no more of the chunk: it has ended elsewhere, or a fault ends it here. -/
def rankGone (ranks : List (Nat × Token × CollOp)) (c : CollOp) (r : Nat) : Bool :=
  c.stopped.contains r || ranks.any (fun p => p.2.2.rank == r && p.2.2.fault.isSome)

/-- The chunk in progress has ended: what a rank has sent is acknowledged or goes to a rank that takes no more, and nothing of the group
stands in a Prism or before a core. -/
def chunkSettled (s : State) (tk : Token) (ranks : List (Nat × Token × CollOp)) : Bool :=
  let ofGroup := fun (p : Packet) =>
    (p.kind == 6 || p.kind == 7) && tagAsid p.ftag == tk.asid && ((collOf tk).map CollOp.grp) == some (pktGrp p)
  ranks.all (fun p => p.2.2.todo.isEmpty && p.2.2.blocked.isEmpty && !inFlight s p.1 p.2.1.slot
      && p.2.2.sends.all (fun e => rankGone ranks p.2.2 e.rank || e.sent.all (fun g => e.acked.contains g)))
    && !s.fab.local_.any ofGroup && s.fab.prisms.all (fun q => !q.segs.any (fun x => ofGroup x.pkt))
    && s.cores.all (fun c => !c.decode.any ofGroup)

/-- A shuffle at the end of a chunk (R290): ranks end that have a reason to, and the others with them, or the next chunk begins. None
where it would change nothing. -/
def shuffleBoundary (s : State) (ranks : List (Nat × Token × CollOp)) : Option State :=
  let s1 := ranks.foldl closeChunk s
  let s2 := ranks.foldl (fun st p => shuffleFinish st p.1 p.2.1.slot) s1
  let s3 := ranks.foldl (fun st p => collStop st p.1 p.2.1.slot) s2
  let now := stillRun s3 ranks
  if now.any (fun p => decide (p.2.2.chunk < chunkTotal p.2.2)) && !now.any (fun p => tokenHeld s3 p.1 p.2.1) then
    some (now.foldl shuffleOpen s3)
  else if ranks.any (fun p => p.2.2.open_) || now.length != ranks.length then some s3
  else none

/-- The chunk event of a shuffle; it may bring word of ranks on other chips that have stopped or differ. -/
def shuffleChunkEnd (s : State) (tk : Token) (c : CollOp) (remote : List RemoteRank) : Option State :=
  let ranks := groupRanks s tk
  if !c.sending || tk.st != .running then none
  else if !remote.isEmpty then
    if remote.all (fun r => (remoteRanks s c).contains r.rank && r.word != .goes) then
      some (ranks.foldl (fun st p => collBoundary (noteRemote remote st p) p.1 p.2.1.slot) s)
    else none
  else if chunkSettled s tk ranks then shuffleBoundary s ranks
  else none

/-- The chunk event of a group (R197, R290): the boundary, once every rank here runs, or word that a rank elsewhere differs. -/
def groupChunkEnd (s : State) (tk : Token) (c : CollOp) (remote : List RemoteRank) : Option State :=
  if c.kind == 6 && c.sending then shuffleChunkEnd s tk c remote
  else
    match if c.kind == 6 then none else runningRanks s tk c with
    | some ranks => if chunkReady s ranks && remoteFits s c remote then chunkStep s ranks remote else none
    | none =>
      if !terminal tk && remote.any (fun r => r.word == .differs) && remote.all (fun r => (remoteRanks s c).contains r.rank) then
        some (spoilGroup s tk)
      else none

/-- COLL_CHUNK_END (R290): a chunk ends on every rank, and cancels and faults take effect. -/
def execCollChunkEnd (core slot : Nat) (remote : List RemoteRank) (s : State) : Host.Outcome State Fault Refusal :=
  match getToken s core slot with
  | none => .fault .notEnabled
  | some tk =>
    match (collOf tk).bind (fun c => groupChunkEnd s tk c remote) with
    | some s1 => .next s1
    | none => .fault .notEnabled

/-! ## Sectors in their order (R288, R298) -/

/-- Sectors of an operation that may be started now: slice, or 0, and number. -/
def openSectors (s : State) (core : Nat) (tk : Token) : List (Nat × Nat) :=
  match tk.op with
  | .mma _ _ => []
  | .copy c => ((List.range c.slices.length).zip c.slices).flatMap (fun p =>
      ((List.range (sliceIds p.2.what)).filter (fun j => (sliceSector p.2.what j).isSome && !sectorBegun p.2 j
        && sectorReady s core tk c p.1 j p.2)).map (fun j => (p.1, j)))
  | .coll c =>
    if c.kind == 6 then (c.todo.filter (segmentReady s core tk c)).map (fun j => (0, j))
    else ((List.range c.total).filter (fun j => !c.acked.contains j && rankReady s core tk c j)).map (fun j => (0, j))

/-- A sector is of latency class 1: its source or its destination is (R298). -/
def sectorPool (s : State) (tk : Token) (i j : Nat) : Bool :=
  match tk.op with
  | .mma _ _ => false
  | .copy c =>
    match (c.slices[i]?).bind (fun sl => sliceSector sl.what j) with
    | some p => piecesPool s tk.asid ((p.1, p.2.length) :: runPieces (srcRuns p.2))
    | none => false
  | .coll c =>
    if c.kind == 6 then piecesPool s tk.asid (segmentPieces c (partSegment c j).1 (partSegment c j).2)
    else piecesPool s tk.asid ((rankPieces s tk c j).1 ++ (rankPieces s tk c j).2)

/-- An engine picks a before b (R288): by age from 65,536 cycles on, else by PRI and then age. -/
def pickedBefore (a b : Token) : Bool :=
  let first := decide (a.pri.toNat > b.pri.toNat) || (a.pri == b.pri && decide (a.age > b.age))
  if a.age ≥ 65536 || b.age ≥ 65536 then decide (a.age > b.age) || (a.age == b.age && first) else first

/-- The engine starts the sector next: no sector is held back by it that another of its RUNNING tokens would start first. A sector of
class 1 holds back none of class 0. -/
def sectorNext (s : State) (core : Nat) (tk : Token) (i j : Nat) : Bool :=
  (getCore s core).tokens.all (fun q =>
    q.slot == tk.slot || q.st != .running || !pickedBefore q tk
      || !(openSectors s core q).any (fun x => sectorPool s tk i j || !sectorPool s q x.1 x.2))

/-- A sector's next step; none where it may take none. -/
def sectorEvent (s : State) (core : Nat) (tk : Token) (i j : Nat) : Option State :=
  match tk.op with
  | .mma _ _ => none
  | .copy c =>
    match c.slices[i]? with
    | none => none
    | some sl =>
      match sliceSector sl.what j with
      | none => none
      | some p =>
        if sectorReady s core tk c i j sl && (sectorBegun sl j || sectorNext s core tk i j) then some (sectorStep s core tk i j sl p.1 p.2)
        else none
  | .coll c =>
    if i != 0 then none
    else if c.kind == 6 then
      if segmentReady s core tk c j && sectorNext s core tk i j then some (segmentSend s core tk c j) else none
    else if rankReady s core tk c j && (c.acked.contains j || sectorNext s core tk i j) then some (rankSector s core tk c j)
    else none

/-- SECTOR_ACKNOWLEDGED (R299): a sector of a tile-walk operation takes its next step. -/
def execSectorAcknowledged (core slot slice sector : Nat) (s : State) : Host.Outcome State Fault Refusal :=
  match (getToken s core slot).bind (fun tk => sectorEvent s core tk slice sector) with
  | some s1 => .next s1
  | none => .fault .notEnabled

/-! ## Decoding and delivery (R374) -/

/-- The model's name for a segment that a fault keeps from a rank. -/
def missPart (j : Comp) (p : Packet) : Nat := 2 ^ 120 + j.bid * 1024 + pktSeg p

/-- A component's segment was undecodable: a fault of the rank, or a request for the segment uncoded. -/
def segmentMiss (s : State) (core : Nat) (p : Packet) (j : Comp) (block : Nat) : State :=
  let rsd := hubSend s (shufPacket p.ftag (chipId s) j.schip core j.score 8 (shufAddr (pktGrp p) (pktSeg p) (pktBlog p) 1)
    (natBytes 16 (compNat j)))
  match shuffleAt s core (tagAsid p.ftag) (pktGrp p) with
  | none => rsd
  | some (tk, c) =>
    if !c.strict then rsd
    else
      let from_ := (c.rtab.findIdx? (fun e => rankChip e == j.schip && rankCore e == j.score)).getD 0
      collFail s core tk.slot (missPart j p) { recordFor s core tk .siMiss with aux := BitVec.ofNat 256 (block + from_ * 2 ^ 48), unit := BitVec.ofNat 16 c.rank }

/-- The acknowledgement of a delivered segment. -/
def sendSack (s : State) (core : Nat) (p : Packet) (j : Comp) : State :=
  hubSend s (shufPacket p.ftag (chipId s) j.schip core j.score 10
    (BitVec.ofNat 52 ((pktGrp p).toNat * 2 ^ 20 + pktSeg p * 2 ^ 11)) (natBytes 8 j.bid))

/-- What came of a delivery: settled, or the segment waits for the service of a fault. -/
inductive Delivered where
  | settled (s : State)
  | waits (s : State)
  deriving DecidableEq, Repr

/-- Where a segment of receive-map entry k goes. -/
def recvPieces (c : CollOp) (k seg n : Nat) : List (W64 × Nat) :=
  linesOf (c.dstb + BitVec.ofNat 64 (k * 2 ^ c.blog + seg * segBytes c.blog)) n

/-- deliver of R374. Of two entries of the receive map with one block id the first is written; the spec does not say that such a map may
be given (log 53). -/
def deliverSegment (s : State) (core : Nat) (p : Packet) (j : Comp) (data : List Byte) : Delivered :=
  match shuffleAt s core (tagAsid p.ftag) (pktGrp p) with
  | none => .settled (sendSack s core p j)
  | some (tk, c) =>
    match c.recvs.findIdx? (fun e => e.bid == j.bid) with
    | none => .settled (collFail s core tk.slot (missPart j p) { subcodeRecord s core tk 4 with unit := BitVec.ofNat 16 c.rank })
    | some k =>
      let part := recvPart k (pktSeg p)
      if (c.recvs[k]?.map (fun e => e.got.contains (pktSeg p))).getD false then .settled (sendSack s core p j)
      else if c.failed.contains part then .settled s
      else
        let pieces := recvPieces c k (pktSeg p) data.length
        match touchPieces core tk [] (.sector tk.slot 0 part) true pieces s with
        | (.error e, s1) =>
          let s2 := rankStop s1 core tk part c.rank e (piecesPool s tk.asid pieces)
          let gone := match (getToken s2 core tk.slot).bind collOf with
            | some d => d.failed.contains part
            | none => true
          if gone || (shuffleAt s2 core (tagAsid p.ftag) (pktGrp p)).isNone then .settled s2 else .waits s2
        | (.ok _, s1) =>
          let r := deliverPieces core tk (.sector tk.slot 0 part) pieces data s1
          let mark := fun (l : List RecvEntry) => ((List.range l.length).zip l).map (fun q =>
            if q.1 == k then { q.2 with got := pktSeg p :: q.2.got } else q.2)
          let s2 := setColl r.2 core tk.slot (fun x => { x with recvs := mark x.recvs })
          let s3 := match getToken s2 core tk.slot with
            | some x => if r.1 == 0 then s2 else countBytes s2 core x c.arrive r.1
            | none => s2
          .settled (shuffleFinish (sendSack s3 core p j) core tk.slot)

/-- The side information of a block: its VALID entry's bytes for a segment, and the use recorded (R372). -/
def sideBytes (s : State) (core : Nat) (p : Packet) (bid : Nat) : Option (List Byte) × State :=
  match (getCore s core).sit.find? (fun e => e.asid == tagAsid p.ftag && e.bid == bid) with
  | none => (none, s)
  | some e =>
    let mark := fun (l : List SitEntry) => l.map (fun x => if x.index == e.index then { x with used := s.stamp } else x)
    let used := modCore { s with stamp := s.stamp + 1 } core (fun c => { c with sit := mark c.sit })
    let n := segBytes (pktBlog p)
    if e.st != .valid || e.blog + 6 != pktBlog p then (none, used)
    else (some (readKey s (sliceKey core (64 * e.off + pktSeg p * n)) n), used)

/-- The other components taken out of the data: the segment, or the block whose side information is missing. -/
def decodeOthers (core : Nat) (p : Packet) : List Comp → State → List Byte → (Except Nat (List Byte)) × State
  | [], s, acc => (.ok acc, s)
  | i :: r, s, acc =>
    match sideBytes s core p i.bid with
    | (none, s1) => (.error i.bid, s1)
    | (some bs, s1) => decodeOthers core p r s1 (xorBytes acc bs)

/-- A core acts on its component of a packet (R374); a segment whose SUM fails is asked for again, a USB up to three times. -/
def coreDecode (s : State) (core : Nat) (p : Packet) : Delivered :=
  match (pktComps p).find? (fun c => c.dcore == core) with
  | none => .settled s
  | some j =>
    let others := (pktComps p).filter (fun c => c != j)
    match decodeOthers core p others s (pktData p) with
    | (.error b, s1) => .settled (segmentMiss s1 core p j b)
    | (.ok acc, s1) =>
      if crc32c acc == j.sum then deliverSegment s1 core p j acc
      else
        match others.head?, shuffleAt s1 core (tagAsid p.ftag) (pktGrp p) with
        | some i, _ => .settled (segmentMiss s1 core p j i.bid)
        | none, none => .settled (sendSack s1 core p j)
        | none, some (tk, c) =>
          let tries := ((c.retries.find? (fun x => x.1 == j.bid && x.2.1 == pktSeg p)).map (fun x => x.2.2)).getD 0
          if tries ≥ 3 then
            .settled (collFail s1 core tk.slot (missPart j p) { recordFor s1 core tk .uncorrectable with unit := BitVec.ofNat 16 c.rank })
          else
            let rest := c.retries.filter (fun x => !(x.1 == j.bid && x.2.1 == pktSeg p))
            let s2 := setColl s1 core tk.slot (fun d => { d with retries := (j.bid, pktSeg p, tries + 1) :: rest })
            .settled (hubSend s2 (shufPacket p.ftag (chipId s2) j.schip core j.score 8
              (shufAddr (pktGrp p) (pktSeg p) (pktBlog p) 1) (natBytes 16 (compNat j))))

/-- The part of a rank that a packet concerns: a segment to receive, or one to send again. -/
def packetPart (c : CollOp) (core : Nat) (p : Packet) : Option Nat :=
  if p.kind == 8 then
    (c.sends.findIdx? (fun e => e.bid == (compOf (bytesNat p.data)).bid
      && (c.rtab[e.rank]?.map (fun x => rankChip x == p.schip.toNat && rankCore x == p.score.toNat)).getD false)).map
        (fun i => againPart i (pktSeg p))
  else
    ((pktComps p).find? (fun x => x.dcore == core)).bind (fun j =>
      (c.recvs.findIdx? (fun e => e.bid == j.bid)).map (fun k => recvPart k (pktSeg p)))

/-- The packet's part waits for a service, so the packet waits too. -/
def rankWaits (s : State) (core : Nat) (p : Packet) : Bool :=
  match shuffleAt s core (tagAsid p.ftag) (pktGrp p) with
  | some x => (packetPart x.2 core p).any (fun part => x.2.blocked.any (fun b => b.1 == part))
  | none => false

/-- A coded packet in a decode slot of a core. -/
def decodeSlot (s : State) (core : Nat) (p : Packet) : State :=
  match coreDecode s core p with
  | .waits s1 => s1
  | .settled s1 => modCore s1 core (fun c => { c with decode := c.decode.erase p })

/-- An uncoded segment at its core. -/
def uncodedSegment (s : State) (p : Packet) : State :=
  match coreDecode s p.dcore.toNat p with
  | .settled s1 => s1
  | .waits s1 => { s1 with fab := { s1.fab with local_ := s1.fab.local_ ++ [p] } }

/-! ## Requests and acknowledgements (R368, R375) -/

/-- A resend request at the sending rank. -/
def serveResend (s : State) (p : Packet) : State :=
  let core := p.dcore.toNat
  let j := compOf (bytesNat p.data)
  match shuffleAt s core (tagAsid p.ftag) (pktGrp p) with
  | none => s
  | some (tk, c) =>
    let isTo := fun (e : SendEntry) => e.bid == j.bid
      && (c.rtab[e.rank]?.map (fun x => rankChip x == p.schip.toNat && rankCore x == p.score.toNat)).getD false
    match c.sends.findIdx? isTo with
    | none => s
    | some i =>
      let part := againPart i (pktSeg p)
      match touchSegment s core tk c part i (pktSeg p) with
      | (.error e, s1) =>
        let s2 := rankStop s1 core tk part c.rank e (piecesPool s tk.asid (segmentPieces c i (pktSeg p)))
        let waits := match (getToken s2 core tk.slot).bind collOf with
          | some d => !d.failed.contains part && (shuffleAt s2 core (tagAsid p.ftag) (pktGrp p)).isSome
          | none => false
        if waits then { s2 with fab := { s2.fab with local_ := s2.fab.local_ ++ [p] } } else s2
      | (.ok _, s1) => sendSegment s1 core tk c i (pktSeg p) true

/-- A segment acknowledged at the sending rank. -/
def takeSack (s : State) (p : Packet) : State :=
  let core := p.dcore.toNat
  let bids := words64 4 p.data
  match shuffleAt s core (tagAsid p.ftag) (pktGrp p) with
  | none => s
  | some (tk, c) =>
    let from_ := fun (e : SendEntry) =>
      (c.rtab[e.rank]?.map (fun x => rankChip x == p.schip.toNat && rankCore x == p.score.toNat)).getD false
    let s1 := setColl s core tk.slot (fun d => { d with sends := d.sends.map (fun e =>
      if bids.contains e.bid && from_ e && !e.acked.contains (pktSeg p) then { e with acked := pktSeg p :: e.acked } else e) })
    shuffleFinish s1 core tk.slot

/-- An announcement or a withdrawal at a hub (R368); an announcement is acknowledged. -/
def takeHave (s : State) (p : Packet) : State :=
  if p.data.isEmpty then haveDrop s p.ftag (pktGrp p) p.schip.toNat p.score.toNat
  else
    let one := fun (w : Nat) => ({ ftag := p.ftag, grp := pktGrp p, blog := pktBlog p, bid := bitsAt w 47 0, chip := p.schip.toNat,
                                   core := bitsAt w 54 48 } : HaveEntry)
    let es := (words64 32 p.data).map one
    sendReply (haveStore s es) p 5 []

/-- An answer of another chip to an engine (R357): a line read, or a write performed there. A poisoned line that comes after the fault that
ended the token is a further fault (R291). -/
def engineAnswer (s0 : State) (core slot i j : Nat) (o : Outst) (data : Option (List Byte)) : State :=
  let s := if data.any (fun bs => decide (bs.length < 128)) then noteMore s0 core slot else s0
  match (getToken s core slot).bind collOf with
  | none => sectorAnswer s core slot i j o data
  | some _ =>
    match data with
    | some bs => setColl s core slot (fun d => { d with lines := (lineTag o.peer o.pkt.win o.pkt.addr.toNat, bs) :: d.lines })
    | none =>
      match getToken s core slot with
      | none => s
      | some tk =>
        match if tk.st == .running then collOf tk else none with
        | none => s
        | some d =>
          if d.kind != 6 then setColl s core slot (fun x => { x with acked := j :: x.acked })
          else shuffleFinish (collBoundary (countBytes s core tk d.arrive o.pkt.data.length) core slot) core slot

end Sys2Proof.Machine
end

