-- ==== Sys2Proof/Machine/TokenInstr.lean ====
section
/-! DEFINITION. Token instructions: opcodes 0xDF to 0xE7 (R202 to R211), and the start of a token (R281, R288) and the end of a
k-block (R295). -/

namespace Sys2Proof.Machine

open Sys2Proof

/-! ## Shared parts -/

/-- A token instruction with a result word: `f` answers the word and the state. -/
def runToken (i : Instr) (o : Long) (more : List RegUse) (f : State → Cur → W32 → W32 × State) (s : State) :
    Host.Outcome State Fault Refusal :=
  run i (sigR (useTyped 0x01 (srcA o) ++ more ++ useDst o.dst.toNat 1)) (fun s uid tid c =>
    let r := f s c (opd32 c (srcA o))
    .done (applyWrites r.2 uid tid (outR (result32 o.dst.toNat r.1 .b32)))) s

/-- The result word of a handle as it now stands (R202). -/
def wordNow (s : State) (asid : Nat) (h : W32) (ref : Bool) : W32 :=
  match findToken s asid h with
  | some p => tokenWord p.2 ref
  | none => goneWord ref

/-- The token that a change of a handle acts on: the continuation, where one has been accepted (R297). -/
def changeTarget (s : State) (asid : Nat) : Nat → Nat × Token → Nat × Token
  | 0, p => p
  | n + 1, p =>
    match p.2.cont.bind (findToken s asid) with
    | some q => changeTarget s asid n q
    | none => p

/-- A change of a token: refused on a GONE token and by a thread that is not an owner (R203), else as `f` decides; none is a
refusal. The word reports the token of the handle. -/
def tokenChange (s : State) (c : Cur) (h : W32) (f : Nat × Token → Option State) : W32 × State :=
  let asid := c.team.asid
  match findToken s asid h with
  | none => (goneWord true, s)
  | some p =>
    if !mayChange c.team p.2 then (tokenWord p.2 true, s)
    else
      match f (changeTarget s asid 512 p) with
      | none => (tokenWord p.2 true, s)
      | some s1 => (wordNow s1 asid h false, s1)

/-! ## Observation (R205, R210) -/

/-- A `.acq` wait that ends DONE synchronises with the completion release (R174, R205). -/
def tokenAcquire (s : State) (uid tid : Nat) (c : Cur) (core : Nat) (tk : Token) (scope : BitVec 2) : State :=
  let s1 := acquirePart s (teamCore c.team) c.team.asid scope
  match s1.carry.find? (fun x => x.key == .token (tokenHandle s1 core tk)) with
  | some x => if scopeMatch tk.scope scope tk.team uid then acquireEntries s1 uid tid x.set else s1
  | none => s1

/-- `tkwait` (R204, R205). -/
def execTkwait (o : Long) (s : State) : Host.Outcome State Fault Refusal :=
  run (.tkwait o) (sigR (useTyped 0x01 (srcA o) ++ useDst o.dst.toNat 1)) (fun s uid tid c =>
    let h := opd32 c (srcA o)
    let out := fun (st : State) (w : W32) => Act.done (applyWrites st uid tid (outR (result32 o.dst.toNat w .b32)))
    match findToken s c.team.asid h with
    | none => out s (goneWord false)
    | some p =>
      if !terminal p.2 then .hold s (.tkwait h)
      else
        out (if o.order == 1 && p.2.st == .done then tokenAcquire s uid tid c p.1 p.2 o.scope else s) (tokenWord p.2 false)) s

/-- `tktest` (R205). -/
def execTktest (o : Long) (s : State) : Host.Outcome State Fault Refusal :=
  runToken (.tktest o) o [] (fun s c h => (wordNow s c.team.asid h false, s)) s

/-- `tkinfo` (R210). -/
def execTkinfo (o : Long) (s : State) : Host.Outcome State Fault Refusal :=
  run (.tkinfo o) (sigR (useTyped 0x01 (srcA o) ++ useDst o.dst.toNat 4)) (fun s uid tid c =>
    let p := findToken s c.team.asid (opd32 c (srcA o))
    let n := (p.map (fun x => tokRecNat x.2.record)).getD 0
    let s1 := match p with
      | some x => if x.2.st == .faulted then modToken s x.1 x.2.slot (fun tk => { tk with recordRead := true }) else s
      | none => s
    .done (applyWrites s1 uid tid (outR ((List.range 4).map (fun i =>
      (o.dst.toNat + i, { val := BitVec.ofNat 32 (n / 2 ^ (128 * o.sub.toNat + 32 * i)), tag := .b32 })))))) s

/-! ## Changes (R206 to R209) -/

/-- An operation that stands at its boundary takes its cancel at once (R289, R302). -/
def cancelBoundary (s : State) (core slot : Nat) : State := collBoundary (copyBoundary s core slot) core slot

/-- A cancel of a token (R206, R281). One that falls into the cycle of the start finds an operation that has performed no access, and ends
it at once (R282). -/
def cancelToken (s : State) (p : Nat × Token) : Option State :=
  if terminal p.2 then none
  else if p.2.st == .pending || p.2.st == .split || decide (s.cycle < p.2.firstAt) then
    let s1 := endToken s p.1 p.2.slot .cancelled none
    some (match collOf p.2 with
      | some _ => endPeers s1 p.1 p.2 5
      | none => s1)
  else some (cancelBoundary (modToken s p.1 p.2.slot (fun tk => { tk with cxl := true })) p.1 p.2.slot)

/-- `tkcancel` (R206). -/
def execTkcancel (o : Long) (s : State) : Host.Outcome State Fault Refusal :=
  runToken (.tkcancel o) o [] (fun s c h => tokenChange s c h (cancelToken s)) s

/-- `tkdetach` (R207). -/
def execTkdetach (o : Long) (s : State) : Host.Outcome State Fault Refusal :=
  runToken (.tkdetach o) o [] (fun s c h =>
    match findToken s c.team.asid h with
    | none => (goneWord true, s)
    | some p =>
      if !mayChange c.team p.2 || !isAttached p.2 then (tokenWord p.2 true, s)
      else
        let s1 := modToken s p.1 p.2.slot (fun tk => { tk with holder := .grid c.team.grid })
        (wordNow s1 c.team.asid h false, s1)) s

/-- Grid g is, or descends from, the grid `top`. -/
def gridUnder (s : State) (top : Nat) : Nat → Nat → Bool
  | 0, g => g == top
  | n + 1, g => g == top || (match (getGrid s g).bind (·.parent) with
    | some p => gridUnder s top n p
    | none => false)

/-- `tkadopt` (R207). -/
def execTkadopt (o : Long) (s : State) : Host.Outcome State Fault Refusal :=
  runToken (.tkadopt o) o [] (fun s c h =>
    match findToken s c.team.asid h with
    | none => (goneWord true, s)
    | some p =>
      let mine := match p.2.holder with
        | .grid g => gridUnder s c.team.grid 64 g
        | _ => false
      if !mine || terminal p.2 || attachedCount s c.team.uid ≥ 64 then (tokenWord p.2 true, s)
      else
        let s1 := modToken s p.1 p.2.slot (fun tk => { tk with holder := .team c.team.uid })
        (wordNow s1 c.team.asid h false, s1)) s

/-- `tkprio` (R208). -/
def execTkprio (o : Long) (s : State) : Host.Outcome State Fault Refusal :=
  let b := srcB o 0x01
  run (.tkprio o) (sigR (useTyped 0x01 (srcA o) ++ useTyped 0x01 b ++ useDst o.dst.toNat 1)) (fun s uid tid c =>
    let v := (opd32 c b).toNat
    if v > 3 then .trap s (trapOf .reservedField)
    else
      let r := tokenChange s c (opd32 c (srcA o)) (fun p =>
        if terminal p.2 then none else some (modToken s p.1 p.2.slot (fun tk => { tk with pri := BitVec.ofNat 2 v })))
      .done (applyWrites r.2 uid tid (outR (result32 o.dst.toNat r.1 .b32)))) s

/-- `tkdep.add` (R209). -/
def execTkdepAdd (o : Long) (s : State) : Host.Outcome State Fault Refusal :=
  let b := regOpd o.kb o.sb
  runToken (.tkdepAdd o) o (useTyped 0x01 b) (fun s c h =>
    match findToken s c.team.asid h with
    | none => (goneWord true, s)
    | some p =>
      let e := opd32 c b
      let eHeld := match findToken s c.team.asid e with
        | some q => q.2.hold
        | none => false
      if !mayChange c.team p.2 || !p.2.hold || p.2.deps.length ≥ 4 || eHeld then (tokenWord p.2 true, s)
      else
        let done := match findToken s c.team.asid e with
          | some q => if terminal q.2 then tokenSet s q.2 else []
          | none => []
        let s1 := modToken s p.1 p.2.slot (fun tk => { tk with deps := tk.deps ++ [e], hb := if loupeOn s tk.asid then addEntries tk.hb done else tk.hb })
        (wordNow s1 c.team.asid h false, s1)) s

/-- A PENDING token with HOLD clear and a dependency that has failed ends FAULTED (R281). -/
def failDeps (s : State) (core slot : Nat) : State :=
  match getToken s core slot with
  | none => s
  | some tk =>
    if tk.st == .pending && !tk.hold && depFailed s tk then
      let s1 := endToken s core slot .faulted (some (subcodeRecord s core tk 3))
      match collOf tk with
      | some _ => endPeers s1 core tk 5
      | none => s1
    else s

/-- `tkdep.rel` (R209). -/
def execTkdepRel (o : Long) (s : State) : Host.Outcome State Fault Refusal :=
  runToken (.tkdepRel o) o [] (fun s c h => tokenChange s c h (fun p =>
    if !p.2.hold then none else some (failDeps (modToken s p.1 p.2.slot (fun tk => { tk with hold := false })) p.1 p.2.slot))) s

/-! ## `mflip` (R211, R272) -/

/-- A destination of a token of this chip that is not terminal includes the page. -/
def frameTaken (s : State) (frame : Nat) : Bool := (allTokens s).any (fun p => !terminal p.2 && (destFrames s p.2).contains frame)

/-- A flip at the page's home: refused while a token's destination includes the page. Tokens of the asking chip are consulted there before
the request leaves. -/
def homeFlip (s : State) (frame : Nat) : Bool × State := if frameTaken s frame then (false, s) else (true, flipMirror s frame)

/-- `mflip` (R211). -/
def execMflip (o : Long) (s : State) : Host.Outcome State Fault Refusal :=
  run (.mflip o) (sigR (useRaw 2 (srcA o) ++ useDst o.dst.toNat 1)) (fun s uid tid c =>
    let ea := opd64 c (srcA o)
    let core := teamCore c.team
    let out := fun (st : State) (b : Bool) =>
      Act.done (applyWrites st uid tid (outR (result32 o.dst.toNat (BitVec.ofNat 32 b.toNat) .b32)))
    andThen (letPass s uid tid c { ea := ea, size := 1, align := 1, rd := true, wr := false }) (fun p =>
      match (if p.1.attr.getLsbD 4 then mirFrameOf p.2 c.team.asid ea else none) with
      | none => .trap p.2 { cause := .permission, addr := ea, aux := p.1.attr.toNat }
      | some f =>
        andThen (releasePart p.2 uid tid core c.team.asid o.scope) (fun s1 =>
          if p.1.chip == chipId s1 then
            let r := homeFlip s1 f
            let s2 := match getTeam r.2 uid with
              | some t =>
                if r.1 && loupeOn r.2 t.asid then
                  advanceEpoch (storeCarried r.2 { key := .flip f, asid := t.asid, scope := o.scope, team := uid,
                                                   set := creationSet r.2 uid tid }) uid
                else r.2
              | none => r.2
            out s2 r.1
          else if frameTaken s1 f then out s1 false
          else
            andThen (askRemote s1 uid tid core c.team.asid ea false (2 ^ 90) p.1 3 (f * 65536) (encodeOp .mflip)) (fun q =>
              out q.2 (bytesNat q.1 % 2 == 1))))) s

/-! ## Starts (R281, R282, R287, R288) -/

/-- Two matrix operations target a common entry. -/
def mmaOverlap (a b : MmaOp) : Bool :=
  a.tile == b.tile && decide (a.row0 < b.row0 + b.m ∧ b.row0 < a.row0 + a.m ∧ a.col0 < b.col0 + b.n ∧ b.col0 < a.col0 + a.n)

def mmaOf (tk : Token) : Option MmaOp :=
  match tk.op with
  | .mma m _ => some m
  | _ => none

/-- The matrix unit of the team's core is free, and no operation issued earlier on the same entries is left (R187, R293). -/
def matrixFree (s : State) (tk : Token) (m : MmaOp) : Bool :=
  match getTeam s tk.team with
  | none => false
  | some t =>
    teamResident t && holdsTile t m.tile
      && (allTokens s).all (fun p => match mmaOf p.2 with
        | none => true
        | some x =>
          let other := ((getTeam s p.2.team).map (fun u => teamResident u && teamCore u == teamCore t)).getD false
          !(p.2.st == .running && other)
            && (p.2.team != tk.team || !holdsBack p.2 || !mmaOverlap x m
                || decide (bornOf s tk ≤ bornOf s p.2)))

/-- The engine can accept the token. -/
def engineFree (s : State) (tk : Token) : Bool :=
  match tk.op with
  | .mma m _ => matrixFree s tk m
  | _ => true

/-- A token is able to start but for its engine, which may be at work: from here on it ages (R288). -/
def ableToStart (s : State) (core : Nat) (tk : Token) : Bool :=
  tk.st == .pending && !tk.hold && depsDone s tk && orderFree s tk && !tokenHeld s core tk && !revoking s tk.asid
    && (match tk.op with
      | .copy c => c.slices.length == c.g
      | _ => true)

/-- A token may start. -/
def canStart (s : State) (core : Nat) (tk : Token) : Bool := ableToStart s core tk && engineFree s tk

/-- The engine of a token: matrix unit or tile-walk engine, and its core. -/
def engineOf (s : State) (core : Nat) (tk : Token) : Bool × Nat :=
  match tk.op with
  | .mma _ _ => (true, ((getTeam s tk.team).map teamCore).getD core)
  | _ => (false, core)

/-- No other token that may start is picked before it. -/
def firstPick (s : State) (core : Nat) (tk : Token) : Bool :=
  let e := engineOf s core tk
  (allTokens s).all (fun p => !(engineOf s p.1 p.2 == e && pickedBefore p.2 tk && canStart s p.1 p.2))

/-- TOKEN_START (R281, R288). -/
def execTokenStart (core slot : Nat) (s : State) : Host.Outcome State Fault Refusal :=
  match getToken s core slot with
  | none => .fault .notEnabled
  | some tk => if canStart s core tk && firstPick s core tk then
      .next (setToken s core { tk with st := .running, age := 0, firstAt := s.cycle + 1 }) else .fault .notEnabled

/-- K_BLOCK_END (R295). A detached operation whose team has ended, so that its tiles are gone, makes no step: the spec does not say what becomes
of it (log 53). -/
def execKBlockEnd (core slot : Nat) (s : State) : Host.Outcome State Fault Refusal :=
  match getToken s core slot with
  | none => .fault .notEnabled
  | some tk =>
    match tk.op, getTeam s tk.team with
    | .mma m cont, some t => if mayAccess s tk && !tk.splitting && teamResident t then .next (kBlock s core tk m cont t) else .fault .notEnabled
    | _, _ => .fault .notEnabled

end Sys2Proof.Machine
end

