-- ==== Sys2Proof/Machine/Launch.lean ====
section
/-! DEFINITION. Launch records (R213), `launch`, `join`, range tasks and `qnote`: opcodes 0xE8 to 0xED (R212 to R219, R326, R328). -/

namespace Sys2Proof.Machine

open Sys2Proof

/-! ## Launch records (R213) -/

/-- The record's fields; roles as (gang count, width code, allotment, entry offset). -/
def lrcOf (n : Nat) (consts : List W32) : Lrc :=
  let f := bitsAt n
  { code := BitVec.ofNat 64 (f 63 0), gdx := f 95 64, gdy := f 127 96, gdz := f 159 128, consts := consts, scr := f 239 231,
    calld := f 249 240, acct := f 251 250, prio := f 253 252, seed := BitVec.ofNat 64 (f 319 256),
    roles := (List.range 4).map (fun r =>
      let b := 320 + 64 * r
      (f (b + 47) (b + 41), f (b + 40) (b + 39), 8 * (f (b + 38) (b + 32) + 1), f (b + 31) b)) }

/-- Width, role and allotment of each gang, in gang order (R231, R232). -/
def lrcGangs (l : Lrc) : List (Nat × Nat × Nat) :=
  ((List.range l.roles.length).zip l.roles).flatMap (fun p => List.replicate p.2.1 (8 * 2 ^ p.2.2.1, p.1, p.2.2.2.1))

def lrcThreads (l : Lrc) : Nat := ((lrcGangs l).map (·.1)).sum

/-- Words of the constant table. -/
def lrcNconst (n : Nat) : Nat := bitsAt n 230 224

/-- The rules of R213 and R303, each with its offset; `grid` is false where the extents are ignored (R216). -/
def lrcRules (grid : Bool) (n : Nat) : List (Bool × Nat) :=
  let f := bitsAt n
  let l := lrcOf n []
  let gangs := lrcGangs l
  let role := fun (r : Nat) => [ (f (320 + 64 * r + 31) (320 + 64 * r) % 4 == 0, 40 + 8 * r),
                                 (decide (f (367 + 64 * r) (361 + 64 * r) ≤ 64), 45 + 8 * r),
                                 (f (383 + 64 * r) (368 + 64 * r) == 0, 46 + 8 * r) ]
  [ (!grid || l.gdx != 0, 8),
    (!grid || l.gdy != 0, 12),
    (!grid || l.gdz != 0, 16),
    (!grid || decide (l.gdx * l.gdy * l.gdz ≤ 2 ^ 32), 8),
    (f 223 160 % 4 == 0, 20),
    (decide (lrcNconst n ≤ 64) && decide (l.scr ≤ 384) && (l.scr == 0 || decide (lrcNconst n ≤ 62)), 28),
    (decide (l.acct ≤ 2) && f 255 254 == 0, 31),
    (!gangs.isEmpty && decide (gangs.length ≤ 64), 45),
    (decide (lrcThreads l ≤ 4096)
      && (decide (gangs.length > 64) || (placeGangs [] (gangs.map (fun g => (g.1, g.2.2)))).isSome), 44),
    (f 1023 576 == 0, 72) ]
  ++ (List.range 4).flatMap role

/-- A launch record with its constant table, read at issue (R172). -/
def readLrc (s : State) (uid tid : Nat) (c : Cur) (ea : W64) (grid : Bool) : Except Act (Lrc × State) :=
  orStop (readBlock s uid tid c ea 128) (fun p =>
    match firstOffset (lrcRules grid p.1) with
    | some off => .error (.trap p.2 (blockTrap ea off))
    | none =>
      orStop (readRange p.2 uid tid c (BitVec.ofNat 64 (bitsAt p.1 223 160)) (4 * lrcNconst p.1)) (fun q =>
        .ok (lrcOf p.1 (bytesWords q.1), q.2)))

/-! ## Launch (R214, R326) -/

/-- Records of a context's device launch queue. -/
def launchCapacity : Nat := 256

/-- Room for one more record: in the queue, or in the overflow area. -/
def launchRoom (c : Ctx) : Bool :=
  (decide (c.launchQ.length < launchCapacity) && c.lovQ.isEmpty) || decide (c.lovQ.length < c.cxr.lovn)

def lrcTotal (l : Lrc) : Nat := l.gdx * l.gdy * l.gdz

/-- A grid enters the context's launch queue, or the overflow area behind it. -/
def queueGrid (c : Ctx) (uid : Nat) : Ctx :=
  if c.launchQ.length < launchCapacity && c.lovQ.isEmpty then { c with launchQ := c.launchQ ++ [uid] }
  else { c with lovQ := c.lovQ ++ [uid] }

/-- Records leave the queue in arrival order: those at its head whose grids stand or have begun (`begun`), and spilled ones move up (R326). -/
def unqueueGrid (c : Ctx) (begun : Nat → Bool) : Ctx :=
  let q := c.launchQ.dropWhile begun
  let k := launchCapacity - q.length
  { c with launchQ := q ++ c.lovQ.take k, lovQ := c.lovQ.drop k }

/-- A child grid of a team: its handle and the state. -/
def launchGrid (s : State) (t : Team) (tid : Nat) (l : Lrc) (depth : Nat) : W32 × State :=
  match getCtx s t.asid with
  | none => (0, s)
  | some c =>
    let h := pickId 2 c.nextHandle
    let uid := s.nextUid
    let g : Grid := { uid := uid, handle := h.1, asid := t.asid, lrc := l, depth := depth, origin := .launch t.uid,
                      parent := some t.grid, total := lrcTotal l, carry := creationSet s t.uid tid }
    let s1 := setCtx { s with grids := s.grids ++ [g], nextUid := uid + 1 } { queueGrid c uid with nextHandle := h.2 }
    let s2 := modTeam s1 t.uid (fun x => { x with kids := x.kids ++ [uid] })
    (h.1, if loupeOn s2 t.asid then advanceEpoch s2 t.uid else s2)

/-- `launch` and `launch.try` after their record has been read: `full` is what happens where no room is left. -/
def launchWith (o : Long) (s : State) (uid tid : Nat) (c : Cur) (full : State → Act) (more : List (Nat × Bool)) : Act :=
  andThen (readLrc s uid tid c (opd64 c (srcA o)) true) (fun p =>
    let depth := ((getGrid p.2 c.team.grid).map (·.depth)).getD 0
    if depth ≥ 9 then .trap p.2 (trapOf .permission)
    else
      andThen (releasePart p.2 uid tid (teamCore c.team) c.team.asid 3) (fun s1 =>
        if ((getCtx s1 c.team.asid).map launchRoom).getD false then
          let r := launchGrid s1 c.team tid p.1 (depth + 1)
          .done (applyWrites r.2 uid tid { regs := result32 o.dst.toNat r.1 .b32, preds := more })
        else full s1))

/-- `launch` (R212 to R214). -/
def execLaunch (o : Long) (s : State) : Host.Outcome State Fault Refusal :=
  run (.launch o) (sigR (useRaw 2 (srcA o) ++ useDst o.dst.toNat 1)) (fun s uid tid c =>
    launchWith o s uid tid c (fun s1 => .trap s1 (trapOf .launchFull)) []) s

/-- `launch.try` (R212 to R214). -/
def execLaunchTry (o : Long) (s : State) : Host.Outcome State Fault Refusal :=
  let pd := o.mod.toNat % 8
  run (.launchTry o) (sigP (useRaw 2 (srcA o) ++ useDst o.dst.toNat 1) [] [pd]) (fun s uid tid c =>
    launchWith o s uid tid c (fun s1 =>
      .done (applyWrites s1 uid tid { regs := result32 o.dst.toNat 0 .b32, preds := [(pd, false)] })) [(pd, true)]) s

/-! ## Join (R215) -/

/-- All teams of a grid have ended (R239). -/
def gridFinished (g : Grid) : Bool := decide (g.ended ≥ g.total)

/-- Grids that the team launched. -/
def kidGrids (s : State) (t : Team) : List Grid := t.kids.filterMap (getGrid s)

/-- The answer of a join whose grids have all finished, with what their teams released (R259). -/
def joinDone (s : State) (uid tid : Nat) (o : Long) (gs : List Grid) : Act :=
  let s1 := if gs.any (fun g => !g.endSet.isEmpty) then acquireEntries s uid tid (gs.flatMap (·.endSet)) else s
  .done (applyWrites s1 uid tid (outR (result32 o.dst.toNat (BitVec.ofNat 32 (gs.any (·.hurt)).toNat) .b32)))

def joinNone (s : State) (uid tid : Nat) (o : Long) : Act := .done (applyWrites s uid tid (outR (result32 o.dst.toNat 2 .b32)))

/-- `join` (R215). -/
def execJoin (o : Long) (s : State) : Host.Outcome State Fault Refusal :=
  run (.join o) (sigR (useTyped 0x01 (srcA o) ++ useDst o.dst.toNat 1)) (fun s uid tid c =>
    match (kidGrids s c.team).find? (fun g => g.handle == opd32 c (srcA o)) with
    | none => joinNone s uid tid o
    | some g => if gridFinished g then joinDone s uid tid o [g] else .hold s (.join 0 (opd32 c (srcA o)))) s

/-- `join.all` (R215). -/
def execJoinAll (o : Long) (s : State) : Host.Outcome State Fault Refusal :=
  run (.joinAll o) (sigR (useDst o.dst.toNat 1)) (fun s uid tid c =>
    let gs := kidGrids s c.team
    if gs.all gridFinished then joinDone s uid tid o gs else .hold s (.join 1 0)) s

/-- A range of a context by its handle. -/
def getRange (s : State) (asid : Nat) (h : W32) : Option Range :=
  (getCtx s asid).bind (fun c => c.ranges.find? (fun r => r.handle == h.toNat))

def setRange (s : State) (asid : Nat) (r : Range) : State :=
  modCtx s asid (fun c => { c with ranges := replaceIf (fun x => x.handle == r.handle) r c.ranges })

/-- `join.rng` (R215, R218). -/
def execJoinRng (o : Long) (s : State) : Host.Outcome State Fault Refusal :=
  run (.joinRng o) (sigR (useTyped 0x01 (srcA o) ++ useDst o.dst.toNat 1)) (fun s uid tid c =>
    let h := opd32 c (srcA o)
    match (if c.team.ranges.contains h.toNat then getRange s c.team.asid h else none) with
    | none => joinNone s uid tid o
    | some r =>
      let hurt := r.hurt || s.teams.any (fun t => t.asid == c.team.asid && t.range == some r.handle && t.hurt)
      if r.complete then .done (applyWrites s uid tid (outR (result32 o.dst.toNat (BitVec.ofNat 32 hurt.toNat) .b32)))
      else .hold s (.join 2 h)) s

/-! ## Ranges (R216 to R218, R328) -/

/-- Live ranges that a context's pool holds. -/
def poolCapacity : Nat := 4096
def poolFull (c : Ctx) : Bool := decide ((c.ranges.filter (fun r => !r.complete)).length ≥ poolCapacity)

/-- A range enters the pool with the dispatch of its teams; its handle and the state. The pool has room. -/
def submitRange (s : State) (asid lo hi depth : Nat) (l : Lrc) (team parent : Option Nat) (pkt : Option (Nat × Nat)) : W32 × State :=
  match getCtx s asid with
  | none => (0, s)
  | some c =>
    let h := pickId 3 (BitVec.ofNat 32 c.nextRange)
    let r : Range := { handle := h.1.toNat, asid := asid, team := team, lo := lo, hi := hi, complete := decide (hi ≤ lo), pkt := pkt }
    let g : Grid := { uid := s.nextUid, handle := 0, asid := asid, lrc := l, depth := depth, origin := .range h.1.toNat,
                      parent := parent, total := 0 }
    let s1 := setCtx s { c with ranges := c.ranges ++ [r], nextRange := h.2.toNat }
    (h.1, if r.complete then s1 else { s1 with grids := s1.grids ++ [g], nextUid := s1.nextUid + 1 })

/-- `rtsub` (R216). -/
def execRtsub (o : Long) (s : State) : Host.Outcome State Fault Refusal :=
  let b := regOpd o.kb o.sb
  run (.rtsub o) (sigR (useRaw 2 (srcA o) ++ useTyped 0x03 b ++ useDst o.dst.toNat 1)) (fun s uid tid c =>
    andThen (readLrc s uid tid c (opd64 c (srcA o)) false) (fun p =>
      let v := opd64 c b
      let out := fun (st : State) (h : W32) => Act.done (applyWrites st uid tid (outR (result32 o.dst.toNat h .b32)))
      if ((getCtx p.2 c.team.asid).map poolFull).getD true then out p.2 0
      else
        let depth := ((getGrid p.2 c.team.grid).map (·.depth)).getD 0
        let r := submitRange p.2 c.team.asid (lo32 v).toNat (hi32 v).toNat depth p.1 (some uid) (some c.team.grid) none
        out (modTeam r.2 uid (fun t => { t with ranges := t.ranges ++ [r.1.toNat] })) r.1)) s

def shareOf (r : Range) (uid : Nat) : Option (Nat × Nat × Nat) := r.shares.find? (fun x => x.1 == uid)
def shareLen (x : Nat × Nat × Nat) : Nat := x.2.2 - x.2.1
def serialOf (s : State) (uid : Nat) : Nat := ((getTeam s uid).map (fun t => t.serial.toNat)).getD 0

/-- The largest unhanded share of another team; the lowest team serial among equals (R328). -/
def largestShare (s : State) (r : Range) (uid : Nat) : Option (Nat × Nat × Nat) :=
  (r.shares.filter (fun x => x.1 != uid && shareLen x != 0)).foldl (fun best x => match best with
    | none => some x
    | some b =>
      if shareLen b < shareLen x || (shareLen b == shareLen x && serialOf s x.1 < serialOf s b.1) then some x else some b) none

def putShare (r : Range) (x : Nat × Nat × Nat) : Range := { r with shares := x :: r.shares.filter (fun y => y.1 != x.1) }

/-- The team's share, refilled by halving where it is empty. -/
def refillShare (s : State) (r : Range) (uid : Nat) : Range :=
  if ((shareOf r uid).map shareLen).getD 0 != 0 then r
  else
    match largestShare s r uid with
    | none => r
    | some (other, lo, hi) =>
      let m := lo + (hi - lo) / 2
      putShare (putShare r (other, lo, m)) (uid, m, hi)

/-- `rtget` (R217). -/
def execRtget (o : Long) (s : State) : Host.Outcome State Fault Refusal :=
  let b := regOpd o.kb o.sb
  let pd := o.mod.toNat % 8
  run (.rtget o) (sigP (useTyped 0x01 (srcA o) ++ useTyped 0x01 b ++ useDst o.dst.toNat 2) [] [pd]) (fun s uid tid c =>
    let grain := (opd32 c b).toNat
    let none_ := Act.done (applyWrites s uid tid (outP pd false))
    if grain == 0 then .trap s (trapOf .reservedField)
    else
      let a := (opd32 c (srcA o)).toNat
      match c.team.range with
      | none => none_
      | some h =>
        match (if a == 0 || a == h then getRange s c.team.asid (BitVec.ofNat 32 h) else none) with
        | none => none_
        | some r =>
          if r.complete then none_
          else
            let r1 := refillShare s r uid
            match shareOf r1 uid with
            | none => none_
            | some (_, lo, hi) =>
              if lo ≥ hi then none_
              else
                let e := min (lo + grain) hi
                let v := cat64 (BitVec.ofNat 32 lo) (BitVec.ofNat 32 e)
                .done (applyWrites (setRange s c.team.asid (putShare r1 (uid, e, hi))) uid tid
                  { regs := result64 o.dst.toNat v .b32, preds := [(pd, true)] })) s

/-- `rtdone` (R218). -/
def execRtdone (o : Long) (s : State) : Host.Outcome State Fault Refusal :=
  let b := regOpd o.kb o.sb
  run (.rtdone o) (sigR (useTyped 0x03 (srcA o) ++ useTyped 0x01 b ++ useDst o.dst.toNat 1)) (fun s uid tid c =>
    let v := opd64 c (srcA o)
    let lo := (lo32 v).toNat
    let hi := (hi32 v).toNat
    let out := fun (st : State) (n : W32) => Act.done (applyWrites st uid tid (outR (result32 o.dst.toNat n .b32)))
    match getRange s c.team.asid (opd32 c b) with
    | none => out s 2
    | some r =>
      if r.complete then out s 2
      else
        let s1 := if hi < lo then nextFree s else s
        let n := if hi < lo then Config.rangeBack s.freeCtr else hi - lo
        let done := min (r.hi - r.lo) (r.done + n)
        let past := decide (done ≥ r.hi - r.lo)
        out (setRange s1 c.team.asid { r with done := done, complete := past }) (BitVec.ofNat 32 past.toNat)) s

/-! ## `qnote` (R219) -/

/-- The context holds the queue number (R311). -/
def ownsQueue (c : Ctx) (q : Nat) : Bool := decide (c.qbase ≤ q ∧ q < c.qbase + c.grant.nqueue ∧ q < 65536)

def getQueue (c : Ctx) (q : Nat) : QueueSt := (c.queues.find? (fun x => x.num == q)).getD { num := q }
def setQueue (c : Ctx) (q : QueueSt) : Ctx := { c with queues := upsert (fun x => x.num == q.num) q c.queues }

/-- A queue is rung (R315); a halted queue is never read again (R317). -/
def ringHere (s : State) (asid q : Nat) (carry : List LEntry) : State :=
  match getCtx s asid with
  | none => s
  | some c0 =>
    let r := keepSet s asid (addEntries (getQueue c0 q).carry carry)
    modCtx r.2 asid (fun c =>
      let x := getQueue c q
      setQueue c { x with rung := x.rung || !(c.qhalt || x.halted), carry := r.1 })

/-- The queue chip of a context: the lowest chip of its span (R425). -/
def queueChip (s : State) (c : Ctx) : Nat :=
  if c.level == 0 then 0 else ((List.range 16).find? (fun i => c.grant.span.getLsbD i)).getD (chipId s)

/-- A ring on another chip of the span is forwarded to the queue chip (R425): DESIGN CHOICE, log 18: a CTL packet without payload. -/
def ringQueue (s : State) (asid q : Nat) (carry : List LEntry) : State :=
  match getCtx s asid with
  | none => s
  | some c =>
    if queueChip s c == chipId s then ringHere s asid q carry
    else sendToward s 0 (queueChip s c) { requestPacket s asid 0 (queueChip s c) 0 11 q false false [] with chan := 0 }

/-- `qnote` (R219). -/
def execQnote (o : Long) (s : State) : Host.Outcome State Fault Refusal :=
  let imm := o.form == .bi
  run (.qnote o) (sigR (if imm then [] else useTyped 0x01 (srcA o))) (fun s uid tid c =>
    let q := if imm then o.imm.toNat else (opd32 c (srcA o)).toNat
    if !((getCtx s c.team.asid).map (fun x => ownsQueue x q)).getD false then .trap s (trapOf .permission)
    else
      andThen (releasePart s uid tid (teamCore c.team) c.team.asid 3) (fun s1 =>
        let s2 := ringQueue s1 c.team.asid q (creationSet s1 uid tid)
        .done (if loupeOn s2 c.team.asid then advanceEpoch s2 uid else s2))) s

end Sys2Proof.Machine
end

