-- ==== Sys2Proof/Machine/Save.lean ====
section
/-! DEFINITION. Accesses by the scheduler and the hub for a context (R311, R335), a team's grants and scratch (R324, R325), its
placement on a core (R230, R323), its save and restore (R244 to R248, R300), and the freeze of a subtree (R225, R347). -/

namespace Sys2Proof.Machine

open Sys2Proof

/-! ## Accesses of a context (R311) -/

/-- The context whose device addresses a context record holds: the caller; the root's own for the root (R334). -/
def recordSpace (c : Ctx) : Nat := c.parent.getD c.asid

/-- Why the scheduler's read for a context does not answer: a check of R144 stops it, or another chip has been asked for its bytes. -/
inductive Miss where
  | stop (e : Stop)
  | far
  deriving DecidableEq, Repr

/-- The line of another chip that a site lies in, as the scheduler has read it. -/
def hubLine (s : State) (asid tag : Nat) : Option (List Byte) :=
  (s.fab.hub.find? (fun l => l.1 == asid && l.2.1 == tag)).map (fun l => l.2.2)

/-- The lines read for a context are used up: the next read asks again. -/
def hubDone (s : State) (asid : Nat) : State :=
  if s.fab.hub.isEmpty then s else { s with fab := { s.fab with hub := s.fab.hub.filter (fun l => l.1 != asid) } }

/-- The scheduler has asked another chip for a line of the context. -/
def hubAsks (s : State) (asid : Nat) : Bool :=
  s.cores.any (fun c => c.outst.any (fun o => match o.asker with
    | .hub a _ => a == asid
    | _ => false))

/-- A line of another chip, which answers in bytes from the line's start: asked for in the stream of core 0 (log 54). -/
def askHub (s : State) (asid : Nat) (site : Site) : State :=
  if hubAsks s asid || !requestRoom s 0 site.chip 3 then s
  else
    sendRequest s 0 site.chip (requestPacket s asid 0 site.chip site.core 1 (siteAddr site / 128 * 128) site.win false [])
      (.hub asid (siteLine site)) [] 3

/-- A device write to memory of another chip leaves as a packet (R357). -/
def ctxSend (s : State) (asid : Nat) (site : Site) (bs : List Byte) : State :=
  sendRequest s 0 site.chip (requestPacket s asid 0 site.chip site.core 0 (siteAddr site) site.win false bs) .none [] 0

/-- Bytes of [ea, ea + n) as the context reads them, line by line. -/
def ctxLines (asid : Nat) : Nat → State → W64 → Nat → List Byte → Except Miss (List Byte) × State
  | 0, s, _, _, acc => (.ok acc, s)
  | f + 1, s, ea, n, acc =>
    if n == 0 then (.ok acc, s)
    else
      let k := min n (128 - ea.toNat % 128)
      match checkSite s asid { ea := ea, size := k, align := 1, rd := true, wr := false } with
      | (.error e, s1) => (.error (.stop e), s1)
      | (.ok site, s1) =>
        if site.chip != chipId s1 then
          match hubLine s1 asid (siteLine site) with
          | none => (.error .far, askHub s1 asid site)
          | some bs =>
            if bs.isEmpty then (.error (.stop (.trap (uncorrectable s1 ea site))), hubDone s1 asid)
            else ctxLines asid f s1 (ea + BitVec.ofNat 64 k) (n - k) (acc ++ (bs.drop (ea.toNat % 128)).take k)
        else if poisoned s1 site.key k then (.error (.stop (.trap (uncorrectable s1 ea site))), s1)
        else ctxLines asid f (chargeLines s1 asid site.key k) (ea + BitVec.ofNat 64 k) (n - k) (acc ++ readKey s1 site.key k)

def ctxRead (s : State) (asid : Nat) (ea : W64) (n : Nat) : Except Miss (List Byte) × State :=
  ctxLines asid (n / 128 + 2) s ea n []

/-- The same read as a number, of a block aligned to its size. -/
def ctxBlock (s : State) (asid : Nat) (ea : W64) (n align : Nat) : Except Miss Nat × State :=
  match checkSite s asid { ea := ea, size := n, align := align, rd := true, wr := false } with
  | (.error e, s1) => (.error (.stop e), s1)
  | (.ok _, s1) =>
    match ctxRead s1 asid ea n with
    | (.error e, s2) => (.error e, s2)
    | (.ok bs, s2) => (.ok (bytesNat bs), s2)

/-- Every near line and held store of a context on the chip: stores are performed, lines dropped. -/
def flushContext (s : State) (asid : Nat) : State :=
  (s.cores.map (·.id)).foldl (fun st k => dropNear (performContext st k asid) k asid) s

/-- Bytes written for a context, line by line. -/
def ctxStore (asid : Nat) : Nat → State → W64 → List Byte → Except Stop Unit × State
  | 0, s, _, _ => (.ok (), s)
  | f + 1, s, ea, bs =>
    if bs.isEmpty then (.ok (), s)
    else
      let k := min bs.length (128 - ea.toNat % 128)
      match checkSite s asid { ea := ea, size := k, align := 1, rd := false, wr := true } with
      | (.error e, s1) => (.error e, s1)
      | (.ok site, s1) =>
        let s2 := if site.chip == chipId s1 then homeWrite (dropCarried s1 site.key k) asid site.key (bs.take k)
          else ctxSend s1 asid site (bs.take k)
        ctxStore asid f s2 (ea + BitVec.ofNat 64 k) (bs.drop k)

def ctxWrite (s : State) (asid : Nat) (ea : W64) (bs : List Byte) : Except Stop Unit × State :=
  ctxStore asid (bs.length / 128 + 2) s ea bs

/-- A write of the scheduler that lies in one line, as a release at `.sy` with the set that it releases (R259, R277). -/
def ctxRelease (s : State) (asid : Nat) (ea : W64) (bs : List Byte) (set : List LEntry) : Except Stop Unit × State :=
  match checkSite s asid { ea := ea, size := bs.length, align := 1, rd := false, wr := true } with
  | (.error e, s1) => (.error e, s1)
  | (.ok site, s1) =>
    if site.chip != chipId s1 then (.ok (), ctxSend (poolBack s1) asid site bs)
    else
      let s2 := homeWrite (dropCarried (poolBack s1) site.key bs.length) asid site.key bs
      (.ok (), if set.isEmpty then s2
        else storeCarried s2 { key := .bytes site.key bs.length, asid := asid, scope := 3, team := 0, set := set })

/-! ## Grants of a team (R254, R325) -/

def roundUp (n unit : Nat) : Nat := (n + unit - 1) / unit * unit

/-- Bytes of one private record (R325). -/
def recordLen (s : State) (asid calld : Nat) : Nat := 128 + (if loupeOn s asid then 128 else 0) + roundUp (8 * calld) 128

/-- Grants of a team: its declared scratch and the private records. -/
def grantsFor (scr threads recLen : Nat) : Nat := scr + (threads * recLen + 65535) / 65536

/-- A grant of 0 to 383 has no holder (R254). -/
def grantFree (s : State) (core g : Nat) : Bool :=
  decide (g < 384) && !s.teams.any (fun t => teamHolds t core g) && !s.ctxs.any (fun c => c.grant.srng.contains (chipId s, core, g))

/-- First grants of the free runs of n (R324). -/
def grantRuns (s : State) (core n : Nat) : List Nat :=
  let free := (List.range 384).filter (grantFree s core)
  free.filter (fun g => (List.range n).all (fun i => free.contains (g + i)))

/-- Bytes of one grant by their offset in it. -/
def grantCells (s : State) (core g : Nat) : List Host.Cell :=
  let lo := sliceKey core (g * 65536)
  (s.mem.filter (fun c => decide (lo ≤ c.1 ∧ c.1 < lo + 65536))).map (fun c => (c.1 - lo, c.2))

/-- The SIT entries whose block lies in a grant that leaves its context (R372). -/
def dropSitIn (s : State) (gs : List (Nat × Nat × Nat)) : State :=
  (gs.filter (fun g => g.1 == chipId s)).foldl (fun st g => sitRemove st g.2.1 (fun e => e.off / 1024 == g.2.2)) s

/-- A context's grants leave it: they read as zero, and what it left there is kept aside for its own later scratch (R325). -/
def dropGrants (s : State) (asid core g0 n : Nat) : State :=
  (List.range n).foldl (fun st i =>
    let g := g0 + i
    let cells := grantCells st core g
    let s1 := clearKeys st (sliceKey core (g * 65536)) 65536
    modCore s1 core (fun c => { c with residue := (g, asid, cells) :: c.residue.filter (fun x => x.1 != g) })) s

/-- The grants of a team leave it, with the side information that lies in them (R372). -/
def dropTeamGrants (s : State) (t : Team) : State :=
  let core := teamCore t
  dropSitIn (dropGrants s t.asid core t.grant0 t.ngrants) ((List.range t.ngrants).map (fun i => (chipId s, core, t.grant0 + i)))

/-- A grant is taken for scratch: it holds zeros, or bytes that the same context left there. -/
def takeGrant (s : State) (asid core g : Nat) : State :=
  let old := ((getCore s core).residue.filter (fun x => x.1 == g && x.2.1 == asid)).flatMap (fun x => x.2.2)
  let kept := ((List.range old.length).zip old).filter (fun p => Config.scratchKept (s.freeCtr + p.1))
  let lo := sliceKey core (g * 65536)
  let s1 := clearKeys { s with freeCtr := s.freeCtr + old.length } lo 65536
  modCore (putKeys s1 (kept.map (fun p => (lo + p.2.1, p.2.2)))) core
    (fun c => { c with residue := c.residue.filter (fun x => x.1 != g) })

def takeGrants (s : State) (asid core g0 n : Nat) : State := (List.range n).foldl (fun st i => takeGrant st asid core (g0 + i)) s

/-! ## Cores of a context (R222, R319, R323) -/

/-- A context that holds the core exclusively, and is not on the path of `asid`. -/
def excludedFrom (s : State) (asid chip core : Nat) : Bool :=
  let path := (chainOf s asid).map (·.asid)
  s.ctxs.any (fun x => x.grant.excl && x.grant.cset.getLsbD core && x.grant.span.getLsbD chip && !path.contains x.asid)

/-- The core of a chip is granted to the context. -/
def grantedOn (s : State) (asid chip core : Nat) : Bool :=
  (chainOf s asid).all (fun c => c.level == 0 || (c.grant.cset.getLsbD core && c.grant.span.getLsbD chip))
    && !excludedFrom s asid chip core

/-- The core is granted to the context on this chip. -/
def coreGranted (s : State) (asid core : Nat) : Bool := grantedOn s asid (chipId s) core

/-- The core list of a context over its span, as chips and cores in increasing order (R323). -/
def spanCores (s : State) (asid : Nat) : List (Nat × Nat) :=
  (fabricChips s).flatMap (fun chip => ((List.range Config.numCores).filter (grantedOn s asid chip)).map (fun k => (chip, k)))

/-- Those of this chip. -/
def coreList (s : State) (asid : Nat) : List Nat := (List.range Config.numCores).filter (coreGranted s asid)

/-- The list from a position on, cyclically. -/
def rotated {α : Type} (l : List α) (k : Nat) : List α := if l.isEmpty then [] else l.drop (k % l.length) ++ l.take (k % l.length)

/-! ## The resource check (R324) -/

/-- What a team needs of a core. -/
structure Need where
  asid  : Nat
  gangs : List (Nat × Nat)
  acct  : Nat
  grants : Nat
  deriving DecidableEq, Repr

def onCore (t : Team) (core : Nat) : Bool := t.home == .core core
def holdsOn (t : Team) (core : Nat) : Bool := t.home == .core core || t.home == .drained core

/-- Positions of the gangs and the first grants to choose from, where the core passes the check. -/
def corePasses (s : State) (core : Nat) (n : Need) : Option (List (Nat × Nat × Nat) × List Nat) :=
  let here := s.teams.filter (fun t => holdsOn t core)
  if (here.filter (fun t => onCore t core)).length ≥ 64 || (here.map (fun t => t.tiles.length)).sum + n.acct > 2
      || (getCore s core).prq.any (fun p => p.asid == n.asid && !p.next) then none
  else
    match placeGangs (laneUse s core) n.gangs, grantRuns s core n.grants with
    | some pos, g :: gs => some (pos, g :: gs)
    | _, _ => none

/-- The team's gangs and threads at their positions. -/
def standAt (t : Team) (core g0 : Nat) (pos : List (Nat × Nat × Nat)) : Team :=
  { t with
    home := .core core
    grant0 := g0
    gangs := ((List.range t.gangs.length).zip t.gangs).map (fun x =>
      match pos[x.1]? with
      | some p => { x.2 with part := p.1, lane := p.2.1, slot := p.2.2 }
      | none => x.2)
    threads := t.threads.map (fun th =>
      match pos[th.gang]? with
      | some p => { th with part := p.1, lane := p.2.1 + th.gpos, slot := p.2.2 }
      | none => th) }

/-- k62:k63 hold the window address of the scratch (R303). -/
def scratchK (chip core : Nat) (t : Team) : Team :=
  if t.scr == 0 then t
  else
    let a := windowAddr chip core (t.grant0 * 65536)
    { t with k := (t.k.set 62 (lo32 a)).set 63 (hi32 a) }

/-! ## Restore (R248, R300) -/

/-- Where a team's scratch stood and where it stands. -/
structure Move where
  core0 : Nat
  base0 : Nat
  core1 : Nat
  base1 : Nat
  len   : Nat
  deriving DecidableEq, Repr

def movesOff (m : Move) (core off : Nat) : Bool := core == m.core0 && decide (m.base0 ≤ off ∧ off < m.base0 + m.len)

/-- A window address in the scratch, as it is now. -/
def moveAddr (s : State) (m : Move) (a : W64) : W64 :=
  if isWindow a && winChip a == chipId s && movesOff m (winCore a) (winOff a) then
    windowAddr (chipId s) m.core1 (m.base1 + (winOff a - m.base0))
  else a

def moveNat (s : State) (m : Move) (a : Nat) : Nat := (moveAddr s m (BitVec.ofNat 64 a)).toNat

/-- An arrival word's sync word, and the core it now lies on if it moved. -/
def moveArrive (core : Nat) (tk : Token) (m : Move) (a : W32) : W32 × Option Nat :=
  if arriveMode a == 3 && movesOff m (swoCore core tk a) (arriveSwo a) then
    (BitVec.ofNat 32 (a.toNat % 64 + (m.base1 + (arriveSwo a - m.base0)) / 16 * 64), some m.core1)
  else (a, none)

/-- A token's addresses after its team's scratch has moved. -/
def moveToken (s : State) (core : Nat) (m : Move) (tk : Token) : Token :=
  let at_ := moveAddr s m
  let an := moveNat s m
  let arr := fun (a : W32) => (moveArrive core tk m a).1
  let homes := (arriveWords tk.op).filterMap (fun a =>
    match moveArrive core tk m a with
    | (b, some c) => some (b, c)
    | (b, none) => (tk.swoHome.find? (fun p => p.1 == a)).map (fun p => (b, p.2)))
  let op := match tk.op with
    | .mma o cont => Op.mma { o with abase := an o.abase, bbase := an o.bbase, sabase := an o.sabase, sbbase := an o.sbbase,
                                     idxb := an o.idxb, cbaddr := an o.cbaddr, arrive := arr o.arrive } cont
    | .copy c => Op.copy { c with slices := c.slices.map (fun (sl : Slice) =>
        let what := match sl.what with
          | .bytes a b n => SliceKind.bytes (at_ a) (at_ b) n
          | .tile t => SliceKind.tile { t with src := at_ t.src, dst := at_ t.dst }
        { sl with what := what, arrive := arr sl.arrive }) }
    | .coll c => Op.coll { c with srcb := at_ c.srcb, dstb := at_ c.dstb, arrive := arr c.arrive,
                                  side := c.side.map (fun p => (p.1, at_ p.2)) }
  { tk with op := op, swoHome := homes }

/-- Every token of a team follows its scratch. -/
def moveTokens (s : State) (uid : Nat) (m : Move) : State :=
  { s with cores := s.cores.map (fun c => { c with tokens := c.tokens.map (fun tk =>
      if tk.team == uid && !terminal tk then moveToken s c.id m tk else tk) }) }

/-- A thread as a restore gives it back: parked on a replayable fault, it makes its access again (R248). -/
def wakeThread (th : Thread) : Thread :=
  let st := match th.st with
    | .parked (.entry ..) => if th.frc.rpl then ThreadState.ready else th.st
    | .parked (.notice _) => if th.frc.rpl then .ready else th.st
    | .parked (.page _) => .ready
    | .waiting _ => .ready
    | x => x
  { th with saved := false, st := st }

def teamNeed (t : Team) : Need :=
  let allot := fun (g : Nat) => ((t.threads.find? (fun th => th.gang == g)).map (fun th => th.regs.length)).getD 8
  { asid := t.asid, gangs := ((List.range t.gangs.length).zip t.gangs).map (fun p => (p.2.width, allot p.1)), acct := t.tiles.length,
    grants := t.ngrants }

/-- What a record of the context gives a team that starts or comes back (R335). -/
def loadRecord (s : State) (t : Team) : Team :=
  match getCtx s t.asid with
  | none => t
  | some c => { t with bwd := c.cxr.bwd, pdl := c.cxr.pdl, trm := c.cxr.trm }

/-! ### The registers of a saved team in the save area (R30, R245, R247; the layout is log 22's) -/

/-- The 4-bit codes of tags (R27), two to a byte. -/
def packTags : List Tag → List Byte
  | [] => []
  | [a] => [BitVec.ofNat 8 (tagCode a)]
  | a :: b :: r => BitVec.ofNat 8 (tagCode a + 16 * tagCode b) :: packTags r

/-- A tag of an image: the codes 13, 14 and 15 are no tags (R30). -/
def restoredTag (code : Nat) : Tag :=
  ([.none, .b32, .f32, .f16x2, .bf16x2, .e4m3x4, .e5m2x4, .e2m1x8, .i8x4, .i4x8, .f64l, .f64h, .scl][code]?).getD .none

def allRegs (t : Team) : List Reg := t.threads.flatMap (·.regs)

/-- The values of every register, thread by thread, and then their tags. -/
def regBytes (t : Team) : List Byte :=
  (allRegs t).flatMap (fun r => natBytes 4 r.val.toNat) ++ packTags ((allRegs t).map (·.tag))

def regBytesLen (t : Team) : Nat := let n := ((t.threads.map (fun th => th.regs.length)).sum); 4 * n + (n + 1) / 2

/-- Register i of n in the bytes of an image. -/
def savedReg (bs : List Byte) (n i : Nat) : Reg :=
  { val := BitVec.ofNat 32 (bytesNat ((bs.drop (4 * i)).take 4)),
    tag := restoredTag (bytesNat ((bs.drop (4 * n + i / 2)).take 1) / 16 ^ (i % 2) % 16) }

/-- Registers given back to threads in their order. -/
def fillRegs : List Thread → List Reg → List Thread
  | [], _ => []
  | th :: r, l => { th with regs := l.take th.regs.length } :: fillRegs r (l.drop th.regs.length)

/-- A saved team with the registers and tags that its image holds. -/
def readRegs (s : State) (t : Team) : Team :=
  match t.imageAt, getCtx s t.asid with
  | some a, some c =>
    match (ctxRead s (recordSpace c) a (regBytesLen t)).1 with
    | .ok bs =>
      let n := (t.threads.map (fun th => th.regs.length)).sum
      { t with threads := fillRegs t.threads ((List.range n).map (savedReg bs n)) }
    | .error _ => t
  | _, _ => t

/-- A saved team stands on a core again. A drained team needs its scratch alone. -/
def restoreOn (s : State) (t : Team) (core : Nat) (pos : List (Nat × Nat × Nat)) (runs : List Nat) : State :=
  let pick := pickFrom s runs
  match pick.1 with
  | none => s
  | some g0 =>
    let m : Move := { core0 := teamCore t, base0 := t.grant0 * 65536, core1 := core, base1 := g0 * 65536, len := t.scr * 65536 }
    let s1 := dropNear (takeGrants pick.2 t.asid core g0 t.ngrants) core t.asid
    let lo := sliceKey core (g0 * 65536)
    let s2 := putKeys (clearKeys s1 lo (t.ngrants * 65536)) (t.image.map (fun c => (lo + c.1, c.2)))
    let t1 := scratchK (chipId s) core (loadRecord s (standAt (readRegs s t) core g0 pos))
    let home := match t.home with
      | .savedDrained _ => Home.drained core
      | _ => .core core
    let t2 := { t1 with home := home, image := [], imageAt := none, evicted := false, threads := t1.threads.map wakeThread }
    moveTokens (setTeam s2 t2) t.uid m

/-! ## Save (R245 to R247) -/

/-- A thread whose instruction has asked another chip or begun a command finishes it first (R225). -/
def midInstruction (s : State) (core uid tid : Nat) (th : Thread) : Bool :=
  th.st == .waiting .command || (getCore s core).outst.any (fun o => match o.asker with
    | .thread u t _ => u == uid && t == tid
    | _ => false)

/-- PARKED, EXITED, GONE and WAITING threads are saved without more, from the cycle after the one in which they became so (R245); a
waiter whose wait is over is READY. -/
def savesAtOnce (s : State) (th : Thread) : Bool :=
  match th.st with
  | .ready | .stalled => false
  | .waiting _ => !th.released && decide (th.since < s.cycle)
  | _ => decide (th.since < s.cycle)

/-- A thread as it is saved: a waiting one stands before its instruction; one in `join` keeps what it waits for, which an evicted
team's restore asks for (R327). -/
def saveThread (th : Thread) : Thread :=
  let st := match th.st with
    | .waiting (.join w h) => ThreadState.waiting (.join w h)
    | .waiting _ => .ready
    | .stalled => .ready
    | x => x
  { settled th with saved := true, st := st, reply := [], waited := 0, stall := 0, begun := none, released := false }

/-- The deadline of a request has passed for a team (R246). -/
def pastDeadline (s : State) (p : Preempt) (t : Team) : Bool :=
  decide (s.cycle ≥ p.raised + max 1 t.pdl.toNat)

def unsaved (th : Thread) : Bool := !th.saved && th.st != .gone

/-- The threads of a team that a request takes in this cycle. -/
def saveThreads (s : State) (p : Preempt) (t : Team) : Team :=
  { t with threads := ((List.range t.threads.length).zip t.threads).map (fun x =>
      if unsaved x.2 && decide (p.raised < s.cycle) && !midInstruction s (teamCore t) t.uid x.1 x.2
          && (savesAtOnce s x.2 || (p.forced && pastDeadline s p t)) then saveThread x.2 else x.2) }

/-- Operations of the team have split, stopped or paused. -/
def opsStopped (s : State) (uid : Nat) : Bool := (allTokens s).all (fun p => p.2.team != uid || stopped s p.1 p.2)

/-- Bytes of a team's grants by their offset from the first. -/
def teamImage (s : State) (t : Team) : List Host.Cell :=
  let lo := sliceKey (teamCore t) (t.grant0 * 65536)
  (s.mem.filter (fun c => decide (lo ≤ c.1 ∧ c.1 < lo + t.ngrants * 65536))).map (fun c => (c.1 - lo, c.2))

/-- The 64 KiB units that a team's image takes in its context's save area. -/
def imageUnits (t : Team) : Nat :=
  max (Config.imageUnits ((t.threads.map (fun th => th.regs.length)).sum) t.scr t.tiles.length) ((regBytesLen t + 65535) / 65536)

/-- Images that a context's save area holds: where, and how many bytes. -/
def savedImages (s : State) (asid : Nat) : List (Nat × Nat) :=
  (s.teams.filter (fun t => t.asid == asid)).filterMap (fun t => t.imageAt.map (fun a => (a.toNat, 65536 * imageUnits t)))

/-- A place in the save area for a team's image, beside those that it holds (R335). -/
def savePlace (s : State) (t : Team) : Option W64 :=
  match getCtx s t.asid with
  | none => none
  | some c =>
    let base := c.cxr.savea.toNat
    let held := savedImages s t.asid
    let n := 65536 * imageUnits t
    let fits := fun (a : Nat) => decide (base ≤ a ∧ a + n ≤ base + 65536 * c.cxr.saven) && held.all (fun h => decide (a + n ≤ h.1 ∨ h.1 + h.2 ≤ a))
    ((base :: held.map (fun h => h.1 + h.2)).find? fits).map (BitVec.ofNat 64)

/-- The team's image is written to the save area: its registers, and the rest in a form that the spec leaves open. -/
def writeSaveArea (s : State) (t : Team) : State :=
  match getCtx s t.asid, savePlace s t with
  | some c, some a =>
    let bs := (regBytes t ++ Config.imageBytes s.freeCtr).take (65536 * imageUnits t)
    match ctxWrite (nextFree s) (recordSpace c) a bs with
    | (.ok _, s1) => modTeam s1 t.uid (fun x => { x with imageAt := some a })
    | (.error _, s1) => s1
  | _, _ => s

/-- A team is saved: its image holds its grants, which are released with all the rest. -/
def saveTeam (s : State) (uid : Nat) : State :=
  match getTeam s uid with
  | none => s
  | some t =>
    let core := teamCore t
    let s1 := dropNear s core t.asid
    let home := match t.home with
      | .core c => Home.saved c
      | .drained c => .savedDrained c
      | h => h
    let t1 := { t with home := home, image := teamImage s t, threads := t.threads.map (fun th => { th with saved := true }) }
    writeSaveArea (dropTeamGrants (setTeam s1 t1) t) t

/-- A team whose threads are all taken is saved once its stores are performed and its operations have stopped. -/
def saveIfStill (s : State) (core uid : Nat) : State :=
  match getTeam s uid with
  | none => s
  | some t =>
    if t.threads.any unsaved then s
    else
      let s1 := drainAll (performContext s core t.asid) core
      if teamStores s1 t || !opsStopped s1 uid then s1 else saveTeam s1 uid

/-- A request goes one step further for one team: threads are taken, stores performed, and the team saved once all is still. -/
def saveStep (s : State) (core : Nat) (p : Preempt) (uid : Nat) : State :=
  match getTeam s uid with
  | none => s
  | some t =>
    saveIfStill (setTeam s (saveThreads s p t)) core uid

/-- An eviction goes on: the blocked team's threads are taken at once (R327). -/
def evictStep (s : State) (core uid : Nat) : State :=
  match getTeam s uid with
  | none => s
  | some t =>
    if !(t.evicted && teamResident t) then s
    else
      saveIfStill (setTeam s { t with threads := ((List.range t.threads.length).zip t.threads).map (fun x =>
        if unsaved x.2 && !midInstruction s core uid x.1 x.2 && savesAtOnce s x.2 then saveThread x.2 else x.2) }) core uid

/-- Teams of a context that a core holds. -/
def teamsHere (s : State) (core asid : Nat) : List Team := s.teams.filter (fun t => t.asid == asid && holdsOn t core)

/-- The requests of a core go on; one that is satisfied is cleared (R244), but one whose last team ended in the cycle in which it
was raised stands for what is placed next (R249). -/
def preemptStep (s : State) (core : Nat) : State :=
  let s1 := (getCore s core).prq.foldl (fun st p => ((teamsHere st core p.asid).map (·.uid)).foldl (fun st u => saveStep st core p u) st) s
  if (getCore s1 core).prq.isEmpty then s1
  else
    let here := fun (p : Preempt) => !(teamsHere s1 core p.asid).isEmpty
    modCore s1 core (fun c => { c with
      prq := (c.prq.map (fun (p : Preempt) => { p with next := !here p && (p.next || p.raised == s1.cycle) })).filter (fun p => p.next || here p) })

/-- A pre-emption request for a context on a core (R244). -/
def requestPreempt (s : State) (core asid : Nat) : State :=
  if (getCore s core).prq.any (fun p => p.asid == asid) || (teamsHere s core asid).isEmpty then s
  else modCore s core (fun c => { c with prq := c.prq ++ [{ asid := asid, raised := s.cycle }] })

/-- Cores that hold teams of some contexts. -/
def coresOf (s : State) (ids : List Nat) : List Nat :=
  ((s.teams.filter (fun t => ids.contains t.asid && (match t.home with
    | .core _ => true
    | .drained _ => true
    | _ => false))).map teamCore).eraseDups

/-- Requests for every context of a list on every core that holds its teams. -/
def requestAll (s : State) (ids : List Nat) : State :=
  (coresOf s ids).foldl (fun st k => ids.foldl (fun st a => requestPreempt st k a) st) s

/-! ## Freeze (R225, R347) -/

/-- The issuer that stands for the module checkpoint (R410). -/
def moduleIssuer : Nat := 16384

/-- A freeze is recorded, and requests are raised for the subtree. -/
def freezeCtx (s : State) (asid issuer : Nat) : State :=
  let s1 := modCtx s asid (fun c => { c with freezes := if c.freezes.contains issuer then c.freezes else c.freezes ++ [issuer] })
  requestAll s1 (subtree s1 asid)

/-- Everything of the contexts has stopped: their teams are saved and their tokens stand still. -/
def allStopped (s : State) (ids : List Nat) : Bool :=
  s.teams.all (fun t => !ids.contains t.asid || (match t.home with
      | .saved _ => true
      | .savedDrained _ => true
      | _ => false))
    && (allTokens s).all (fun p => !ids.contains p.2.asid || stopped s p.1 p.2)

end Sys2Proof.Machine
end

