-- ==== Sys2Proof/Machine/Tree.lean ====
section
/-! DEFINITION. The device tree: grant blocks (R222, R334), stages (R336 to R338), saved-context images (R348), and the instructions
`dvnew` to `dvinv`: opcodes 0xEE to 0xF5 (R220 to R226, R331 to R350). -/

namespace Sys2Proof.Machine

open Sys2Proof

/-! ## Handles and status (R220) -/

def dvOk : W32 := 0
def dvNoSlot : W32 := 1
def dvNoRes : W32 := 2
def dvDepth : W32 := 3
def dvNotChild : W32 := 4
def dvState : W32 := 5
def dvSpace : W32 := 6

/-- The live direct child of a context that a handle names. -/
def childOf (s : State) (asid : Nat) (h0 : W32) : Option Ctx :=
  let h := (newHandle s asid h0).toNat
  match getCtx s (bitsAt h 13 0) with
  | none => none
  | some c =>
    if bitsAt h 31 31 == 1 && bitsAt h 30 17 == 0 && c.level == bitsAt h 16 14 && c.parent == some asid && c.live then some c else none

/-! ## Grant blocks (R222, R334) -/

/-- A grant block as read. -/
structure Block where
  grant : Grant
  cxr   : Cxr
  imga  : W64
  nmrng : Nat
  stagen : Nat
  deriving DecidableEq, Repr

def mrngOf (bs : List Byte) : Nat → List MRange
  | 0 => []
  | n + 1 =>
    let f := bytesNat (bs.take 32)
    { pbase := bitsAt f 63 0, cbase := bitsAt f 127 64, len := bitsAt f 191 128, attr := BitVec.ofNat 5 (bitsAt f 196 192) }
      :: mrngOf (bs.drop 32) n

/-- Reserved bits of a range list and whole 64 KiB units (R222). -/
def mrngWhole (bs : List Byte) : Nat → Bool
  | 0 => true
  | n + 1 =>
    let f := bytesNat (bs.take 32)
    f % 65536 == 0 && bitsAt f 127 64 % 65536 == 0 && bitsAt f 191 128 % 65536 == 0 && bitsAt f 255 197 == 0 && mrngWhole (bs.drop 32) n

/-- Ranges lie in the child's space and do not overlap there (R338). -/
def mrngApart (l : List MRange) : Bool :=
  let ix := (List.range l.length).zip l
  l.all (fun r => isCanonical (BitVec.ofNat 64 r.cbase) && decide (rangeHi r ≤ 2 ^ 57))
    && ix.all (fun a => ix.all (fun b => decide (b.1 ≤ a.1) || decide (rangeHi a.2 ≤ rangeLo b.2 ∨ rangeHi b.2 ≤ rangeLo a.2)))

def srngOf (bs : List Byte) : List (Nat × Nat × Nat) :=
  (bytesWords bs).map (fun w => (bitsAt w.toNat 31 28, bitsAt w.toNat 27 21, bitsAt w.toNat 8 0))

def srngOk (bs : List Byte) : Bool := (bytesWords bs).all (fun w => bitsAt w.toNat 20 9 == 0 && decide (bitsAt w.toNat 8 0 ≤ 447))

/-- Bits of TRM that must be 0 (R343). -/
def trmIllegal : W32 := 0xFEC40001

def cxrOf (m : Nat) : Cxr :=
  let f := bitsAt m
  let a := fun hi lo => BitVec.ofNat 64 (f hi lo)
  { qtab := a 63 0, lova := a 127 64, savea := a 191 128, stagea := a 255 192, imga := a 319 256, hent := a 383 320,
    saven := f 415 384, trm := BitVec.ofNat 32 (f 447 416), pdl := BitVec.ofNat 32 (f 479 448), bwd := BitVec.ofNat 32 (f 511 480),
    lovn := f 532 512, wcbage := f 560 544, stagen := f 591 576, ownw := f 607 592, vf := f 616 608, ctl := BitVec.ofNat 8 (f 631 624),
    pasid := f 659 640, pase := f 660 660 == 1 }

def grantOf (n : Nat) (mr : List MRange) (sr : List (Nat × Nat × Nat)) : Grant :=
  let f := bitsAt n
  { weight := f 15 0, excl := f 16 16 == 1, span := BitVec.ofNat 16 (f 47 32), dslot := f 61 48, cset := BitVec.ofNat 128 (f 191 64),
    mrng := mr, nqueue := f 287 272, srng := sr, sitq := f 378 368, linkbw := (List.range 15).map (fun p => f (391 + 8 * p) (384 + 8 * p)) }

/-- The rules of R222, R334, R338, R343 and R351, each with its offset in the block. `level` is the child's. -/
def blockRules (b level : Nat) (regrant : Bool) (mb sb : List Byte) : List (Bool × Nat) :=
  let g := bitsAt (b % 2 ^ 512)
  let m := b / 2 ^ 512
  let f := bitsAt m
  let c := cxrOf m
  let n := g 271 256
  [ (g 15 0 != 0, 0), (g 31 17 == 0, 2), (g 47 32 != 0, 4), (g 63 62 == 0, 7),
    (mrngWhole mb n && mrngApart (mrngOf mb n), 24), (decide (n ≤ 4096), 32), (g 287 272 != 0 || c.qtab == 0, 34),
    (srngOk sb, 36), (decide (g 378 368 ≤ 1024), 46), (g 383 379 == 0, 47), (g 511 504 == 0, 63),
    (c.qtab.toNat % 64 == 0, 64), (c.lova.toNat % 128 == 0 && (c.lovn != 0 || c.lova == 0), 72), (c.savea.toNat % 65536 == 0, 80),
    (c.stagea.toNat % 65536 == 0, 88), (!regrant || c.imga == 0, 96), (c.hent.toNat % 4 == 0, 104), (c.trm &&& trmIllegal == 0, 116),
    (decide (c.lovn ≤ 2 ^ 20), 128), (f 543 533 == 0, 130), (decide (64 ≤ c.wcbage ∧ c.wcbage ≤ 65536), 132), (f 575 561 == 0, 134),
    (decide (5 + 4 * n ≤ c.stagen), 32), (decide (c.vf ≤ 256) && (c.vf == 0 || level ≤ 1), 140), (f 623 617 == 0, 141),
    (c.ctl &&& 0x4F == 0, 142), (f 639 632 == 0, 143), (c.pase || c.pasid == 0, 144), (f 1535 661 == 0, 146) ]

/-- A grant block and its lists, read at issue (R172). -/
def readGrant (s : State) (uid tid : Nat) (c : Cur) (ea : W64) (level : Nat) (regrant : Bool) : Except Act (Block × State) :=
  orStop (readBlock s uid tid c ea 256) (fun p =>
    let g := bitsAt (p.1 % 2 ^ 512)
    let nm := if g 271 256 ≤ 4096 then g 271 256 else 0
    orStop (readRange p.2 uid tid c (BitVec.ofNat 64 (g 255 192)) (32 * nm)) (fun q =>
      orStop (readRange q.2 uid tid c (BitVec.ofNat 64 (g 351 288)) (4 * g 367 352)) (fun r =>
        match firstOffset (blockRules p.1 level regrant q.1 r.1) with
        | some off => .error (.trap r.2 (blockTrap ea off))
        | none =>
          let x := cxrOf (p.1 / 2 ^ 512)
          .ok ({ grant := grantOf (p.1 % 2 ^ 512) (mrngOf q.1 nm) (srngOf r.1), cxr := x, imga := x.imga, nmrng := nm,
                 stagen := x.stagen }, r.2))))

/-! ## Building a stage (R337, R338) -/

/-- Bytes of [lo, lo + n) that lie in a range. -/
def rangeShare (r : MRange) (lo n : Nat) : Nat := min (rangeHi r) (lo + n) - max (rangeLo r) lo

/-- The aligned block of n bytes around an address is mapped as one by ranges like `r` (SIZE of R337). -/
def blockWhole (l : List MRange) (r : MRange) (a n : Nat) : Bool :=
  let like := l.filter (fun q => !isMir q && q.attr == r.attr && q.pbase + rangeLo r == r.pbase + rangeLo q)
  let lo := a / n * n
  !isMir r && (r.pbase + 2 ^ 57 - rangeLo r) % n == 0 && (like.map (fun q => rangeShare q lo n)).sum == n

def sizeCode (l : List MRange) (r : MRange) (a : Nat) : Nat :=
  if blockWhole l r a (2 ^ 32) then 2 else if blockWhole l r a (2 ^ 25) then 1 else 0

/-- An entry word. -/
def leafEntry (l : List MRange) (r : MRange) (a : Nat) : W64 :=
  BitVec.ofNat 64 (rangeTarget r a % 2 ^ 57 + sizeCode l r a * 256 + r.attr.toNat * 2 + 1)
def nodeEntry (addr : Nat) : W64 := BitVec.ofNat 64 (addr % 2 ^ 57 + 128 + 1)

/-- The range that maps a whole block of n bytes: a granule of any range, a larger block only where it is not MIR. -/
def leafRange (l : List MRange) (lo n : Nat) : Option MRange :=
  l.find? (fun r => decide (rangeLo r ≤ lo ∧ lo + n ≤ rangeHi r) && (n == 65536 || !isMir r))

/-- What is built so far: the state that the choices of node places advance, places left, and nodes with their entries. -/
abbrev Built := State × List Nat × List (Nat × List (Nat × W64))

/-- The entries of the node whose first address is `base`, with the nodes below it. -/
def buildNode (l : List MRange) (area : Nat) : List (Nat × Nat) → Bool → Nat → Built → List (Nat × W64) × Built
  | [], _, _, b => ([], b)
  | (sh, w) :: rest, top, base, b =>
    let used := (List.range (2 ^ w)).filter (fun i => l.any (fun r => decide (rangeShare r (base + i * 2 ^ sh) (2 ^ sh) > 0)))
    used.foldl (fun acc i =>
      let lo := base + i * 2 ^ sh
      match (if top then none else leafRange l lo (2 ^ sh)) with
      | some r => (acc.1 ++ [(i, leafEntry l r lo)], acc.2)
      | none =>
        let pick := pickFrom acc.2.1 acc.2.2.1
        match pick.1 with
        | none => (acc.1, pick.2, acc.2.2)
        | some place =>
          let sub := buildNode l area rest false lo (pick.2, acc.2.2.1.filter (· != place), acc.2.2.2)
          (acc.1 ++ [(i, nodeEntry (area + place * 65536))], sub.2.1, sub.2.2.1, (place, sub.1) :: sub.2.2.2)) ([], b)

/-- Bytes to store at an address: `parts` by offset, and zeros elsewhere. -/
structure Fill where
  ea    : W64
  size  : Nat
  parts : List (Nat × List Byte)
  deriving DecidableEq, Repr

/-- The 64 KiB of a node. -/
def nodeFill (area : W64) (n : Nat × List (Nat × W64)) : Fill :=
  { ea := area + BitVec.ofNat 64 (n.1 * 65536), size := 65536, parts := n.2.map (fun e => (8 * e.1, natBytes 8 e.2.toNat)) }

/-- The nodes of a stage; the top node stands first in the stage area. -/
def buildStage (s : State) (b : Block) : List Fill × State :=
  let area := b.cxr.stagea.toNat
  let r := buildNode b.grant.mrng area [(55, 2), (42, 13), (29, 13), (16, 13)] true 0 (s, (List.range b.stagen).drop 1, [])
  (((0, r.1) :: r.2.2.2).map (nodeFill b.cxr.stagea), r.2.1)

/-- The queue-table header (R311). -/
def queueHeader (qbase nqueue : Nat) : List Byte := natBytes 64 (qbase + nqueue * 65536)

/-- All that `dvnew` and `dvgrant` write: the header and the nodes. -/
def treeWrites (s : State) (b : Block) (qbase : Nat) : List Fill × State :=
  let r := buildStage s b
  (if b.grant.nqueue == 0 then r else ({ ea := b.cxr.qtab, size := 64, parts := [(0, queueHeader qbase b.grant.nqueue)] } :: r.1, r.2))

/-! ## Stores of the issuing thread (R335) -/

/-- What a fill puts into n bytes from an offset of its own. -/
def fillCut (parts : List (Nat × List Byte)) (lo n : Nat) : List (Nat × List Byte) :=
  parts.filterMap (fun p =>
    let a := max p.1 lo
    let b := min (p.1 + p.2.length) (lo + n)
    if a < b then some (a - lo, (p.2.drop (a - p.1)).take (b - a)) else none)

/-- The whole of a piece. -/
def pieceBytes (n : Nat) (parts : List (Nat × List Byte)) : List Byte :=
  parts.foldl (fun l p => l.take p.1 ++ p.2 ++ l.drop (p.1 + p.2.length)) (List.replicate n 0)

/-- A piece of a fill within 4 KiB, with where it lands. -/
structure Piece where
  ea    : W64
  site  : Site
  size  : Nat
  parts : List (Nat × List Byte)
  deriving DecidableEq, Repr

/-- Check 7 for each line of a piece. -/
def raceLines (uid tid : Nat) (p : Piece) (s : State) : Except Act State :=
  if p.site.win || !p.site.attr.getLsbD 3 then .ok s
  else
    (linesOf p.ea p.size).foldl (fun acc l => match acc with
      | .error x => .error x
      | .ok st =>
        let d := (l.1 - p.ea).toNat
        admitRace st uid tid l.1 { p.site with key := p.site.key + d } (List.range l.2) true false) (.ok s)

/-- The pieces of a fill, each checked. -/
def admitPieces (uid tid : Nat) (c : Cur) (f : Fill) : Nat → Nat → State → List Piece → Except Act (List Piece × State)
  | 0, _, s, acc => .ok (acc, s)
  | k + 1, off, s, acc =>
    if off ≥ f.size then .ok (acc, s)
    else
      let ea := f.ea + BitVec.ofNat 64 off
      let n := min (f.size - off) (4096 - ea.toNat % 4096)
      match letPass s uid tid c { ea := ea, size := n, align := 1, rd := false, wr := true } with
      | .error x => .error x
      | .ok (site, s1) =>
        let p : Piece := { ea := ea, site := site, size := n, parts := fillCut f.parts off n }
        match raceLines uid tid p s1 with
        | .error x => .error x
        | .ok s2 => admitPieces uid tid c f k (off + n) s2 (acc ++ [p])

/-- The pieces of several fills. -/
def admitAll (uid tid : Nat) (c : Cur) (s : State) (fs : List Fill) : Except Act (List Piece × State) :=
  fs.foldl (fun acc f => match acc with
    | .error x => .error x
    | .ok (l, st) => admitPieces uid tid c f (f.size / 4096 + 2) 0 st l) (.ok ([], s))

/-- The line pieces of n bytes from a key. -/
def keyLines (key n : Nat) : List (Nat × Nat) := (linesOf (BitVec.ofNat 64 key) n).map (fun l => (l.1.toNat, l.2))

/-- A piece performed at its home on this chip. -/
def fillHere (s : State) (core asid : Nat) (p : Piece) : State :=
  let k := p.site.key
  let s1 := clearKeys (dropCarried (performContext s core asid) k p.size) k p.size
  let s2 := p.parts.foldl (fun st q => writeKey st (k + q.1) q.2) s1
  let s3 := (keyLines k p.size).foldl (fun st l => noteWrite st asid l.1 l.2) s2
  let gone := fun (l : NearLine) => l.asid == asid && decide (l.line * 128 < k + p.size ∧ k < l.line * 128 + 128)
  let s4 := if (getCore s3 core).near.any gone then modCore s3 core (fun c => { c with near := c.near.filter (fun l => !gone l) }) else s3
  chargeLines s4 asid k p.size

/-- A piece stored. -/
def storePiece (uid tid : Nat) (c : Cur) (p : Piece) (s : State) : Except Act State :=
  if p.site.chip == chipId s then .ok (fillHere s (teamCore c.team) c.team.asid p)
  else
    let bs := pieceBytes p.size p.parts
    (linesOf p.ea p.size).foldl (fun acc l => match acc with
      | .error x => .error x
      | .ok st =>
        let d := (l.1 - p.ea).toNat
        let site := { p.site with key := p.site.key + d, off := p.site.off + d }
        writeSite st uid tid c l.1 site ((List.range l.2).zip ((bs.drop d).take l.2)) .plain
          (writerSets st uid tid (carryKey st site) l.2 0 false)) (.ok s)

/-- A stop leaves the state as it stood before the stores. -/
def undone (s : State) (a : Act) : Act :=
  match a with
  | .trap _ t => .trap s t
  | x => x

/-- Fills that are all checked before any is performed. -/
def storeAll (s : State) (uid tid : Nat) (c : Cur) (fs : List Fill) : Except Act State :=
  match admitAll uid tid c s fs with
  | .error x => .error (undone s x)
  | .ok (l, s1) =>
    l.foldl (fun acc p => match acc with
      | .error x => .error x
      | .ok st => storePiece uid tid c p st) (.ok s1)

/-! ## Resources (R220, R311, R332, R338, R350, R371) -/

/-- Children of a context. -/
def kidsOf (s : State) (asid : Nat) : List Ctx := s.ctxs.filter (fun c => c.parent == some asid)

/-- Queue numbers of a run. -/
def runHits (base n q m : Nat) : Bool := decide (0 < n ∧ 0 < m ∧ base < q + m ∧ q < base + n)

/-- The lowest free run of n queues in the caller's run; `kept` is the child's present base (R311). -/
def queueRun (s : State) (p : Ctx) (child : Option Ctx) (n : Nat) : Option Nat :=
  if n == 0 then some 0
  else
    let others := (kidsOf s p.asid).filter (fun c => some c.asid != child.map (·.asid))
    let fits := fun (b : Nat) => decide (p.qbase ≤ b ∧ b + n ≤ p.qbase + p.grant.nqueue) && !others.any (fun c => runHits b n c.qbase c.grant.nqueue)
    match child with
    | some c => if c.grant.nqueue != 0 && fits c.qbase then some c.qbase else ((List.range p.grant.nqueue).map (· + p.qbase)).find? fits
    | none => ((List.range p.grant.nqueue).map (· + p.qbase)).find? fits

/-- Grants that a context's subtree holds by lists. -/
def subtreeGrants (s : State) (asid : Nat) : List (Nat × Nat × Nat) :=
  (subtree s asid).flatMap (fun a => ((getCtx s a).map (fun c => c.grant.srng)).getD [])

/-- The caller can give the grant: it is its own, or in the child's share already. -/
def grantGivable (s : State) (p : Ctx) (child : Option Ctx) (g : Nat × Nat × Nat) : Bool :=
  decide (g.2.2 < 384) &&
    ((child.map (fun c => (subtreeGrants s c.asid).contains g)).getD false || p.grant.srng.contains g
      || (p.level == 0 && !s.ctxs.any (fun c => c.grant.srng.contains g) && (g.1 != chipId s || grantFree s g.2.1 g.2.2)))

/-- The caller's stage as it stands in memory maps every address from `a` to `hi` with the attributes, none of it MIR: one entry after
another. -/
def stageMaps (s : State) (asid : Nat) (need : BitVec 5) (hi : Nat) : Nat → Nat → Bool
  | 0, _ => false
  | f + 1, a =>
    decide (hi ≤ a) || (match ownStage s asid a with
      | some (_, attr, sh) => attr &&& need == need && !attr.getLsbD 4 && stageMaps s asid need hi f ((a / 2 ^ sh + 1) * 2 ^ sh)
      | none => false)

/-- The caller's own stage maps [base, base + n) with the attributes (R338). -/
def callerMaps (s : State) (p : Ctx) (base n : Nat) (need : BitVec 5) : Bool :=
  p.level == 0 || n == 0 ||
    (isCanonical (BitVec.ofNat 64 base) && decide (base % 2 ^ 57 + n ≤ 2 ^ 57)
      && stageMaps s p.asid need (base % 2 ^ 57 + n) (n / 65536 + 2) (base % 2 ^ 57))

/-- SIT entries that the caller has left for a child. -/
def sitLeft (s : State) (p : Ctx) (child : Option Ctx) : Nat := sitQuota s p.asid + (child.map (fun c => c.grant.sitq)).getD 0

/-- No resource of the grant is lacking, held exclusively by another child, or a binding already taken. -/
def resourcesOk (s : State) (p : Ctx) (child : Option Ctx) (b : Block) : Bool :=
  let g := b.grant
  let others := (kidsOf s p.asid).filter (fun c => some c.asid != child.map (·.asid))
  let span := if p.level == 0 then BitVec.ofNat 16 ((fabricChips s).map (2 ^ ·)).sum else p.grant.span
  let cset := if p.level == 0 then ~~~ (0 : BitVec 128) else p.grant.cset
  (g.span &&& ~~~ span) == 0 && (g.cset &&& ~~~ cset) == 0
    && !others.any (fun c => c.grant.excl && (c.grant.cset &&& g.cset) != 0 && (c.grant.span &&& g.span) != 0)
    && g.srng.all (grantGivable s p child)
    && decide (g.sitq ≤ sitLeft s p child)
    && (b.cxr.vf == 0 || !s.ctxs.any (fun c => c.cxr.vf == b.cxr.vf && some c.asid != child.map (·.asid)))
    && g.mrng.all (fun r => callerMaps s p r.pbase (if isMir r then 2 * r.len else r.len) (r.attr &&& 7))
    && (queueRun s p child g.nqueue).isSome

/-- ASIDs without a context, lowest first (R332). -/
def freeAsid (s : State) : Option Nat := ((List.range 16384).drop 1).find? (fun a => !s.ctxs.any (fun c => c.asid == a))

/-! ## Creation and change -/

/-- Entries of a context's SIT beyond its quota are evicted. -/
def trimSit (s : State) (asid : Nat) : State :=
  (s.cores.map (·.id)).foldl (fun st k =>
    (List.range ((sitMine st k asid).length - sitQuota st asid)).foldl (fun st _ =>
      match sitVictim (sitMine st k asid) with
      | some v => sitRemove st k (fun e => e.index == v.index)
      | none => st) st) s

/-- Grants leave the caller and take the child's name; they read as zero. -/
def giveGrants (s : State) (p : Nat) (gs : List (Nat × Nat × Nat)) : State :=
  let mine := (gs.filter (fun g => g.1 == chipId s)).map (fun g => g.2)
  let s1 := zeroGrants (modCtx s p (fun c => { c with grant := { c.grant with srng := c.grant.srng.filter (fun g => !gs.contains g) } })) mine
  { s1 with cores := s1.cores.map (fun c => { c with residue := c.residue.filter (fun x => !mine.contains (c.id, x.1)) }) }

/-- Grants leave whoever holds them in a subtree and go back to the caller. -/
def takeBack (s : State) (p : Ctx) (ids : List Nat) (gs : List (Nat × Nat × Nat)) : State :=
  let s1 := { s with ctxs := s.ctxs.map (fun c =>
    if ids.contains c.asid then { c with grant := { c.grant with srng := c.grant.srng.filter (fun g => !gs.contains g) } } else c) }
  let s2 := zeroGrants (dropSitIn s1 gs) ((gs.filter (fun g => g.1 == chipId s)).map (fun g => g.2))
  if p.level == 0 then s2 else modCtx s2 p.asid (fun c => { c with grant := { c.grant with srng := c.grant.srng ++ gs } })

/-- The child that a block makes (R223). -/
def newChild (s : State) (p : Ctx) (asid qbase : Nat) (b : Block) : Ctx :=
  { asid := asid, level := p.level + 1, parent := some p.asid, grant := b.grant, cxr := b.cxr, qbase := qbase, left := b.grant.dslot,
    feat := p.feat, keyId := s.nextUid, stage := b.cxr.stagea }

/-- The child joins the tree: slots, grants, SIT entries and its fabric tag. -/
def addChild (s : State) (p : Ctx) (c : Ctx) : State :=
  let s1 := trimSit (dropSitIn (giveGrants s p.asid c.grant.srng) c.grant.srng) p.asid
  let s2 := modCtx { s1 with nextUid := s1.nextUid + 1 } p.asid (fun x => { x with left := x.left - (1 + c.grant.dslot) })
  let tag := (c.asid, (tagEntry s2 c.asid).1, true)
  { s2 with ctxs := s2.ctxs ++ [c], fab := { s2.fab with tags := tag :: s2.fab.tags.filter (fun t => t.1 != c.asid) } }

/-! ### Queue runs and quotas below a grant that changes (R311, R371) -/

/-- A queue number at its place in a run that has moved. -/
def moveNum (old new q : Nat) : Nat := q - old + new

/-- A context's queues under the numbers of a run from `new`; those past its length leave. -/
def renumber (new n : Nat) (c : Ctx) : Ctx :=
  let mv := moveNum c.qbase new
  { c with
    qbase := new, grant := { c.grant with nqueue := n }
    queues := (c.queues.filter (fun q => decide (c.qbase ≤ q.num ∧ q.num < c.qbase + n))).map (fun q => { q with num := mv q.num })
    qpkts := c.qpkts.map (fun p => { p with queue := mv p.queue })
    ranges := c.ranges.map (fun r => { r with pkt := r.pkt.map (fun p => (mv p.1, p.2)) }) }

def renumberGrid (old new : Nat) (g : Grid) : Grid :=
  { g with origin := match g.origin with
      | .packet q i => .packet (moveNum old new q) i
      | o => o }

/-- Where the run of a context below lies once the run of its ancestor, from `old`, lies at `new` with n queues: at the same place in
it, and cut at its end. -/
def innerRun (old new n : Nat) (c : Ctx) : Nat × Nat :=
  let b := moveNum old new c.qbase
  (b, min c.grant.nqueue (new + n - b))

/-- The runs of a child and of its subtree after a grant (R311), and the headers of the tables of contexts below whose runs changed. -/
def moveRuns (s : State) (c : Ctx) (ids : List Nat) (new n : Nat) : State :=
  let run := fun (x : Ctx) => if x.asid == c.asid then (new, n) else innerRun c.qbase new n x
  let s1 := { s with
    ctxs := s.ctxs.map (fun x => if ids.contains x.asid then renumber (run x).1 (run x).2 x else x)
    grids := s.grids.map (fun g => match (if ids.contains g.asid then getCtx s g.asid else none) with
      | some x => renumberGrid x.qbase (run x).1 g
      | none => g) }
  (s.ctxs.filter (fun x => ids.contains x.asid && x.asid != c.asid && x.grant.nqueue != 0 && (x.qbase, x.grant.nqueue) != run x)).foldl
    (fun st x => (ctxWrite st (recordSpace x) x.cxr.qtab (queueHeader (run x).1 (run x).2)).2) s1

/-- The quotas of a context's children cut to what it has, in the order of their ASIDs, and so on below (log 56). -/
def cutQuotas : Nat → Nat → State → State
  | 0, _, s => s
  | f + 1, asid, s =>
    let cap := ((getCtx s asid).map (fun c => c.grant.sitq)).getD 0
    let kids := sortBy (fun (a b : Ctx) => decide (a.asid ≤ b.asid)) (kidsOf s asid)
    let r := kids.foldl (fun (acc : Nat × State) k =>
      let q := min k.grant.sitq acc.1
      (acc.1 - q, modCtx acc.2 k.asid (fun x => { x with grant := { x.grant with sitq := q } }))) (cap, s)
    kids.foldl (fun st k => cutQuotas f k.asid st) r.2

/-- A child's grant replaced as a whole (R223, R332); its record waits for the end of the instruction (R335). -/
def regrant (s : State) (p c : Ctx) (b : Block) (qbase : Nat) : State :=
  let ids := subtree s c.asid
  let old := subtreeGrants s c.asid
  let gone := old.filter (fun g => !b.grant.srng.contains g)
  let fresh := b.grant.srng.filter (fun g => !old.contains g)
  let s1 := giveGrants (takeBack s p ids gone) p.asid fresh
  let inner := (ids.filter (· != c.asid)).flatMap (fun a => ((getCtx s1 a).map (fun x => x.grant.srng)).getD [])
  let s2 := modCtx (moveRuns s1 c ids qbase b.grant.nqueue) c.asid (fun x =>
    { x with grant := { b.grant with srng := b.grant.srng.filter (fun g => !inner.contains g) }, nextCxr := some b.cxr
             left := x.left + b.grant.dslot - c.grant.dslot })
  let s3 := cutQuotas 8 c.asid (modCtx s2 p.asid (fun x => { x with left := x.left + c.grant.dslot - b.grant.dslot }))
  let s4 := ids.foldl trimSit (trimSit (bumpGeneration s3 ids) p.asid)
  (coresOf s4 ids).foldl (fun st k => ids.foldl (fun st a => if coreGranted st a k then st else requestPreempt st k a) st) s4

/-- The record of a completed `dvgrant` is in force (R335). -/
def applyRecord (s : State) (asid : Nat) : State :=
  match (getCtx s asid).bind (·.nextCxr) with
  | none => s
  | some x => bumpGeneration (modCtx s asid (fun c => { c with cxr := x, stage := x.stagea, nextCxr := none })) (subtree s asid)

/-! ## Saved-context images (R348) -/

/-- A context record as the 192 bytes of a grant block (R334). -/
def cxrNat (c : Cxr) : Nat :=
  c.qtab.toNat + c.lova.toNat * 2 ^ 64 + c.savea.toNat * 2 ^ 128 + c.stagea.toNat * 2 ^ 192 + c.imga.toNat * 2 ^ 256 + c.hent.toNat * 2 ^ 320
    + c.saven * 2 ^ 384 + c.trm.toNat * 2 ^ 416 + c.pdl.toNat * 2 ^ 448 + c.bwd.toNat * 2 ^ 480 + c.lovn * 2 ^ 512 + c.wcbage * 2 ^ 544
    + c.stagen * 2 ^ 576 + c.ownw * 2 ^ 592 + c.vf * 2 ^ 608 + c.ctl.toNat * 2 ^ 624 + c.pasid * 2 ^ 640 + c.pase.toNat * 2 ^ 660

/-- The subtree as an image holds it. -/
def snapshot (s : State) (ids : List Nat) : Image :=
  { ctxs := s.ctxs.filter (fun c => ids.contains c.asid), teams := s.teams.filter (fun t => ids.contains t.asid),
    tokens := (allTokens s).filter (fun p => ids.contains p.2.asid), grids := s.grids.filter (fun g => ids.contains g.asid) }

/-- How a restore renames: contexts, teams and grids by a constant, token handles. -/
structure Renaming where
  asids : List (Nat × Nat)
  plus  : Nat
  handles : List (W32 × W32)
  /-- the old number of a context, and the queue bases before and after -/
  runs : List (Nat × Nat × Nat) := []
  deriving DecidableEq, Repr

def newAsid (r : Renaming) (a : Nat) : Nat := (getKey r.asids a).getD a
def newHandleOf (r : Renaming) (h : W32) : W32 := ((r.handles.find? (fun p => p.1 == h)).map (·.2)).getD h

/-- A queue number of a context of the image. -/
def newQueue (r : Renaming) (asid q : Nat) : Nat :=
  ((r.runs.find? (fun p => p.1 == asid)).map (fun p => moveNum p.2.1 p.2.2 q)).getD q

def renameConcern (r : Renaming) (c : Concern) : Concern :=
  match c with
  | .thread u t => .thread (u + r.plus) t
  | .token k h => .token k (newHandleOf r h)
  | .packet a q i => .packet (newAsid r a) (newQueue r a q) i
  | x => x

def renameHqe (r : Renaming) (h : Hqe) : Hqe := { h with about := renameConcern r h.about, ctx := newAsid r h.ctx }

def renameOrigin (r : Renaming) (asid : Nat) (o : Origin) : Origin :=
  match o with
  | .launch t => .launch (t + r.plus)
  | .packet q i => .packet (newQueue r asid q) i
  | x => x

def renameGrid (r : Renaming) (g : Grid) : Grid :=
  { g with uid := g.uid + r.plus, asid := newAsid r g.asid, origin := renameOrigin r g.asid g.origin, parent := g.parent.map (· + r.plus) }

/-- A parked thread of an image waits for the entry at the context's new number. -/
def renamePark (r : Renaming) (st : ThreadState) : ThreadState :=
  match st with
  | .parked (.entry o id) => .parked (.entry (newAsid r o) id)
  | x => x

def renameTeam (r : Renaming) (t : Team) : Team :=
  { t with uid := t.uid + r.plus, asid := newAsid r t.asid, grid := t.grid + r.plus, kids := t.kids.map (· + r.plus),
           colls := t.colls.map (fun c => { c with handle := newHandleOf r c.handle }),
           threads := t.threads.map (fun th => { th with st := renamePark r th.st }) }

def renameHolder (r : Renaming) (h : Holder) : Holder :=
  match h with
  | .team u => .team (u + r.plus)
  | .grid u => .grid (u + r.plus)
  | .root => .root

/-- A token of an image in its new slot. -/
def renameToken (r : Renaming) (slot : Nat) (gen : BitVec 12) (tk : Token) : Token :=
  { tk with slot := slot, gen := gen, asid := newAsid r tk.asid, team := tk.team + r.plus, holder := renameHolder r tk.holder,
            deps := tk.deps.map (newHandleOf r), cont := tk.cont.map (newHandleOf r), orig := tk.orig.map (newHandleOf r), hb := [] }

/-- A context of an image under its new number. Its freezes by contexts of the image stay; the top is frozen by the caller. -/
def renameCtx (r : Renaming) (c : Ctx) (made : Ctx) (top : Option Nat) : Ctx :=
  let inner := (c.freezes.filter (fun a => r.asids.any (fun p => p.1 == a))).map (newAsid r)
  { made with
    feat := c.feat, left := c.left, keyId := c.keyId, rovf := c.rovf, energy := c.energy, esat := c.esat, charged := c.charged
    freezes := (match top with | some a => [a] | none => []) ++ inner
    hqes := c.hqes.map (renameHqe r), popped := c.popped.map (renameHqe r)
    bindings := c.bindings.map (fun b => { team := b.team + r.plus, child := b.child.map (newAsid r) })
    nextHqe := c.nextHqe, nextTeam := c.nextTeam, nextHandle := c.nextHandle, nextRange := c.nextRange
    launchQ := c.launchQ.map (· + r.plus), lovQ := c.lovQ.map (· + r.plus)
    queues := c.queues.map (fun q => { q with num := newQueue r c.asid q.num })
    qpkts := c.qpkts.map (fun p => { p with queue := newQueue r c.asid p.queue })
    ranges := c.ranges.map (fun x => { x with asid := newAsid r x.asid, pkt := x.pkt.map (fun p => (newQueue r c.asid p.1, p.2)), team := x.team.map (· + r.plus),
                                              shares := x.shares.map (fun y => (y.1 + r.plus, y.2)) })
    handles := r.handles ++ (r.asids.filterMap (fun p => if p.1 == p.2 then none else
        some (BitVec.ofNat 32 (2 ^ 31 + (made.level + 1) * 2 ^ 14 + p.1), BitVec.ofNat 32 (2 ^ 31 + (made.level + 1) * 2 ^ 14 + p.2))))
      ++ c.handles.map (fun p => (p.1, newHandleOf r p.2)) }

/-- One token of an image takes a free slot of the core that held it, or of another core of its context. -/
def placeToken (asids : List (Nat × Nat)) (acc : List (Nat × W32 × Nat × Token) × State) (p : Nat × Token) :
    Option (List (Nat × W32 × Nat × Token) × State) :=
  let asid := (getKey asids p.2.asid).getD p.2.asid
  let cores := (p.1 :: (coreList acc.2 asid).filter (· != p.1)).filter (fun k => coreGranted acc.2 asid k)
  (cores.find? (fun k => !(freeSlots (getCore acc.2 k)).isEmpty)).bind (fun k =>
    let pick := pickFrom acc.2 (freeSlots (getCore acc.2 k))
    pick.1.map (fun g =>
      let t1 := { p.2 with slot := g.1, gen := g.2, st := TokState.pending, asid := asid }
      let s1 := modCore pick.2 k (fun c => { c with tokens := upsert (fun x => x.slot == g.1) t1 c.tokens, gens := putKey c.gens g.1 g.2 })
      (acc.1 ++ [(k, tokenHandle acc.2 p.1 p.2, g.1, { p.2 with gen := g.2 })], s1)))

/-- Tokens of an image in their slots, with the renaming that leads to them; none where a slot is lacking. -/
def placeTokens (s : State) (ren : Renaming) (l : List (Nat × Token)) : Option (Renaming × State) :=
  (l.foldl (fun (acc : Option (List (Nat × W32 × Nat × Token) × State)) p => acc.bind (fun a => placeToken ren.asids a p)) (some ([], s))).map
    (fun r =>
      let r1 := { ren with handles := r.1.map (fun x => (x.2.1, tokenHandle r.2 x.1 { x.2.2.2 with slot := x.2.2.1 })) }
      (r1, r.1.foldl (fun st x => setToken st x.1 (renameToken r1 x.2.2.1 x.2.2.2.gen x.2.2.2)) r.2))

/-- MIR pages as a context's ranges come to map them: both frames are zero and the first is visible; pages that are mapped no more have
no selector (R270, log 52). Frames of another chip are for that chip to clear. -/
def mapMirrors (s : State) (parent : Nat) (old new : List MRange) : State :=
  let fresh := mirFrames s parent new old
  let s1 := forgetMirrors (forgetMirrors s (mirFrames s parent old new)) fresh
  (fresh.flatMap (·.2)).foldl (fun st f =>
    let st1 := clearKeys (dropCarried st (f * 65536) 65536) (f * 65536) 65536
    if st1.poison.isEmpty then st1 else { st1 with poison := st1.poison.filter (fun l => l / 512 != f) }) s1

/-- The grant block of a context of an image. -/
def blockOf (c : Ctx) (grants : List (Nat × Nat × Nat)) : Block :=
  { grant := { c.grant with srng := grants }, cxr := { c.cxr with imga := 0 }, imga := 0, nmrng := c.grant.mrng.length, stagen := c.cxr.stagen }

/-- Descendants of an image's top, made one by one under their new parents; none where a grant fails. -/
def restoreKids (img : Image) (top : Nat) : List Ctx → State → List (Nat × Nat) → Option (State × List (Nat × Nat))
  | [], s, m => some (s, m)
  | c :: rest, s, m =>
    match (c.parent.bind (getKey m)).bind (getCtx s), freeAsid s with
    | some p, some a =>
      let under := (img.ctxs.filter (fun x => (chainOf { s with ctxs := img.ctxs } x.asid).any (fun y => y.asid == c.asid))).flatMap
        (fun x => x.grant.srng)
      let b := blockOf c under
      if p.level ≥ 7 || decide (p.left < 1 + c.grant.dslot) || !resourcesOk s p none b then none
      else
        match queueRun s p none b.grant.nqueue with
        | none => none
        | some q =>
          let w := treeWrites s b q
          let s1 := mapMirrors (w.1.foldl (fun st x => (ctxWrite st p.asid x.ea (pieceBytes x.size x.parts)).2) w.2) p.asid [] b.grant.mrng
          restoreKids img top rest (addChild s1 p (newChild s1 p a q b)) (m ++ [(c.asid, a)])
    | _, _ => none

/-- Contexts of an image below its top, in the order of their levels. -/
def imageKids (img : Image) (top : Nat) : List Ctx :=
  (List.range 8).flatMap (fun n => img.ctxs.filter (fun c => c.level == n && c.asid != top))

def imageTop (img : Image) : Option Ctx :=
  img.ctxs.find? (fun c => img.ctxs.all (fun x => decide (c.level ≤ x.level)))

/-- The image's subtree under a new top that has been made; none where a descendant's grant fails. -/
def restoreImage (s : State) (caller : Nat) (img : Image) (old new : Ctx) : Option State :=
  match restoreKids img old.asid (imageKids img old.asid) s [(old.asid, new.asid)] with
  | none => none
  | some (s1, m) =>
    let plus := s1.nextUid
    let runs := img.ctxs.filterMap (fun c => (getCtx s1 ((getKey m c.asid).getD c.asid)).map (fun n => (c.asid, c.qbase, n.qbase)))
    (placeTokens { s1 with nextUid := 2 * plus } { asids := m, plus := plus, handles := [], runs := runs } img.tokens).map (fun r =>
      let s2 := img.ctxs.foldl (fun st c =>
        modCtx st (newAsid r.1 c.asid) (fun made => renameCtx r.1 c made (if c.asid == old.asid then some caller else none))) r.2
      bumpGeneration { s2 with
          teams := s2.teams ++ img.teams.map (renameTeam r.1)
          grids := s2.grids ++ img.grids.map (renameGrid r.1) } (m.map (·.2)))

/-- The header of an image: MAGIC, total length, feature level, counts of contexts, teams and tokens, and the check word, in the order in
which the spec lists them (log 22). -/
def imageHeader (img : Image) (len : Nat) (check : W32) : List Byte :=
  natBytes 256 (0x58474D49 + len * 2 ^ 32 + 1 * 2 ^ 96 + img.ctxs.length * 2 ^ 128 + img.teams.length * 2 ^ 160 + img.tokens.length * 2 ^ 192
    + check.toNat * 2 ^ 224)

/-- The bytes of an image: its header, and the rest in a form that the spec leaves open. -/
def imageFile (s : State) (key : Nat) (img : Image) : List Byte :=
  let body := Config.imageBytes s.freeCtr
  imageHeader img (256 + body.length) (Config.imageCheck key body) ++ body

/-- The image whose bytes another chip has yet to give. -/
def imageFar (s : State) (p : Ctx) (a : W64) : Option State :=
  s.sched.images.findSome? (fun i => if i.1 != p.keyId then none
    else match ctxRead s p.asid a i.2.1.length with
      | (.error .far, s1) => some s1
      | _ => none)

/-- The image that stands in a context's memory: the bytes are those that `dvckpt` wrote for the same private value. -/
def findImage (s : State) (p : Ctx) (a : W64) : Option Image :=
  (s.sched.images.find? (fun i => i.1 == p.keyId && (match (ctxRead s p.asid a i.2.1.length).1 with
    | .ok bs => bs == i.2.1
    | .error _ => false))).map (fun i => i.2.2)

/-! ## Commands (R225) -/

/-- A thread whose command still waits for its turn or its end. -/
def inCommand (s : State) (p : Nat × Nat) : Bool :=
  match (getTeam s p.1).bind (fun t => getThread t p.2) with
  | some th => th.st == .waiting .command || th.st == .waiting .turn
  | none => false

/-- The thread takes its place among the commands that name a context; whether it is first. -/
def takeTurn (s : State) (asid uid tid : Nat) : Bool × State :=
  match getCtx s asid with
  | none => (true, s)
  | some c =>
    let live := c.commands.filter (fun p => p == (uid, tid) || inCommand s p)
    let q := if live.contains (uid, tid) then live else live ++ [(uid, tid)]
    (q.head? == some (uid, tid), setCtx s { c with commands := q })

def endTurn (s : State) (asid uid tid : Nat) : State :=
  modCtx s asid (fun c => { c with commands := c.commands.filter (fun p => p != (uid, tid)) })

/-- The status or handle in DST. -/
def putStatus (s : State) (uid tid : Nat) (o : Long) (v : W32) : Act := .done (applyWrites s uid tid (outR (result32 o.dst.toNat v .b32)))

/-- A command on a child, in its turn; `f` answers a status with the state, or what the thread waits for. -/
def onChild (s : State) (uid tid : Nat) (o : Long) (child : Ctx) (f : State → Except Act (W32 × State)) : Act :=
  let turn := takeTurn s child.asid uid tid
  if !turn.1 then .hold turn.2 .turn
  else
    match f turn.2 with
    | .error x => x
    | .ok (v, s1) => putStatus (endTurn s1 child.asid uid tid) uid tid o v

/-- The model's names, among a thread's answers, for a command that has begun: a regrant, a revoke. -/
def begunGrant : Nat := 2 ^ 101
def begunRevoke (asid : Nat) : Nat := 2 ^ 102 + asid

def hasBegun (s : State) (uid tid n : Nat) : Bool :=
  (((getTeam s uid).bind (fun t => getThread t tid)).map (fun th => (getKey th.reply n).isSome)).getD false
def markBegun (s : State) (uid tid n : Nat) : State := modThread s uid tid (fun th => { th with reply := (n, []) :: th.reply })

/-- Accesses of contexts that are translated and not yet performed are brought to an end (R342). -/
def settleAccesses (s : State) (ids : List Nat) : State :=
  (s.cores.map (·.id)).foldl (fun st k =>
    let mine := (getCore st k).wcb.filter (fun e => ids.contains e.asid)
    mine.foldl (fun st e => drainEntry st k e) st) (ids.foldl flushContext s)

def accessesOut (s : State) (ids : List Nat) : Bool :=
  s.cores.any (fun c => c.wcb.any (fun e => ids.contains e.asid) || c.outst.any (fun o => ids.contains (tagAsid o.pkt.ftag)))

/-! ## Instructions -/

def sigChild (o : Long) (more : List RegUse) : Sig := sigR (useTyped 0x01 (srcA o) ++ more ++ useDst o.dst.toNat 1)

/-- The first outcome of `dvnew` that applies after its traps (R220). -/
def newOutcome (s : State) (p : Ctx) (b : Block) : Option W32 :=
  if p.level ≥ 7 then some dvDepth
  else if decide (p.left < 1 + b.grant.dslot) || (freeAsid s).isNone then some dvNoSlot
  else if !resourcesOk s p none b then some dvNoRes
  else none

/-- A child made: empty, or from an image. -/
def makeChild (s : State) (p : Ctx) (b : Block) (qbase : Nat) : W32 × State :=
  match freeAsid s with
  | none => (dvNoSlot, s)
  | some a =>
    let c := newChild s p a qbase b
    let s1 := addChild s p c
    if b.imga == 0 then (ctxHandle c, s1)
    else
      match findImage s p b.imga with
      | none => (ctxHandle c, s1)
      | some img =>
        match imageTop img with
        | none => (ctxHandle c, s1)
        | some top =>
          match restoreImage s1 p.asid img top c with
          | some s2 => (ctxHandle c, s2)
          | none => (dvNoRes, s)

/-- `dvnew` (R223). -/
def execDvnew (o : Long) (s : State) : Host.Outcome State Fault Refusal :=
  run (.dvnew o) (sigR (useRaw 2 (srcA o) ++ useDst o.dst.toNat 1)) (fun s uid tid c =>
    match getCtx s c.team.asid with
    | none => .left s
    | some p =>
      let ea := opd64 c (srcA o)
      andThen (readGrant s uid tid c ea (p.level + 1) false) (fun r =>
        match (if r.1.imga == 0 then none else imageFar r.2 p r.1.imga) with
        | some s1 => .hold s1 .command
        | none =>
        if r.1.imga != 0 && (findImage r.2 p r.1.imga).isNone then .trap r.2 (blockTrap r.1.imga 0)
        else
          match newOutcome r.2 p r.1 with
          | some st => putStatus r.2 uid tid o st
          | none =>
            let q := (queueRun r.2 p none r.1.grant.nqueue).getD 0
            let w := treeWrites r.2 r.1 q
            let m := makeChild w.2 p r.1 q
            if m.1.getLsbD 31 then
              andThen (storeAll w.2 uid tid c w.1) (fun s2 =>
                let m2 := makeChild (mapMirrors s2 p.asid [] r.1.grant.mrng) p r.1 q
                putStatus (hubDone m2.2 p.asid) uid tid o m2.1)
            else putStatus r.2 uid tid o m.1)) s

/-- The first outcome of `dvgrant` that applies after NOTCHILD (R220, R332). -/
def grantOutcome (s : State) (p c : Ctx) (b : Block) : Option W32 :=
  if b.grant.dslot > c.grant.dslot + p.left then some dvNoSlot
  else if b.grant.dslot + c.left < c.grant.dslot || !resourcesOk s p (some c) b then some dvNoRes
  else none

/-- The reclaim of a regrant is done: no team of the subtree is left on a core that is not granted, and no access is out. -/
def reclaimed (s : State) (ids : List Nat) : Bool :=
  s.teams.all (fun t => !ids.contains t.asid || (match t.home with
    | .core k => coreGranted s t.asid k
    | .drained k => coreGranted s t.asid k
    | _ => true)) && !accessesOut s ids

/-- `dvgrant` once its block is read, in its turn. -/
def grantChild (s : State) (uid tid : Nat) (cur : Cur) (p c : Ctx) (b : Block) : Except Act (W32 × State) :=
  let ids := subtree s c.asid
  let finish := fun (st : State) => if reclaimed st ids then .ok (dvOk, applyRecord st c.asid) else .error (.hold (settleAccesses st ids) .command)
  if hasBegun s uid tid begunGrant then finish (settleAccesses s ids)
  else
    match grantOutcome s p c b with
    | some st => .ok (st, s)
    | none =>
      let q := (queueRun s p (some c) b.grant.nqueue).getD 0
      let w := treeWrites s b q
      orStop (storeAll w.2 uid tid cur w.1) (fun s1 =>
        finish (markBegun (regrant (mapMirrors (settleAccesses s1 ids) p.asid c.grant.mrng b.grant.mrng) p c b q) uid tid begunGrant))

/-- `dvgrant` (R223). -/
def execDvgrant (o : Long) (s : State) : Host.Outcome State Fault Refusal :=
  let b := regOpd o.kb o.sb
  run (.dvgrant o) (sigChild o (useRaw 2 b)) (fun s uid tid c =>
    match getCtx s c.team.asid with
    | none => .left s
    | some p =>
      let child := childOf s p.asid (opd32 c (srcA o))
      let done := hasBegun s uid tid begunGrant
      match (if done then child else none) with
      | some k => onChild s uid tid o k (fun st => grantChild st uid tid c p k { grant := k.grant, cxr := k.cxr, imga := 0, nmrng := 0, stagen := 0 })
      | none =>
        if done then putStatus s uid tid o dvNotChild
        else
          andThen (readGrant s uid tid c (opd64 c b) ((child.map (·.level)).getD (p.level + 1)) true) (fun r =>
            match child with
            | none => putStatus r.2 uid tid o dvNotChild
            | some k => onChild r.2 uid tid o k (fun st => grantChild st uid tid c p k r.1))) s

/-- A command whose child is named in SA, NOTCHILD where it names none. -/
def runChild (i : Instr) (o : Long) (more : List RegUse) (f : State → Nat → Nat → Cur → Ctx → Except Act (W32 × State)) (s : State) :
    Host.Outcome State Fault Refusal :=
  run i (sigChild o more) (fun s uid tid c =>
    match childOf s c.team.asid (opd32 c (srcA o)) with
    | none => putStatus s uid tid o dvNotChild
    | some k => onChild s uid tid o k (fun st => f st uid tid c k)) s

/-- `dvfeat` (R224): bits 14 to 63 have no meaning. -/
def execDvfeat (o : Long) (s : State) : Host.Outcome State Fault Refusal :=
  let b := regOpd o.kb o.sb
  runChild (.dvfeat o) o (useTyped 0x03 b) (fun s _ _ c k =>
    .ok (dvOk, modCtx s k.asid (fun x => { x with feat := opd64 c b &&& 0x3FFF }))) s

/-- `dvfrz` (R225, R347). -/
def execDvfrz (o : Long) (s : State) : Host.Outcome State Fault Refusal :=
  runChild (.dvfrz o) o [] (fun s _ _ c k =>
    let s1 := freezeCtx s k.asid c.team.asid
    if allStopped s1 (subtree s1 k.asid) then .ok (dvOk, s1) else .error (.hold s1 .command)) s

/-- `dvthaw` (R225, R347). -/
def execDvthaw (o : Long) (s : State) : Host.Outcome State Fault Refusal :=
  runChild (.dvthaw o) o [] (fun s _ _ c k =>
    if !k.freezes.contains c.team.asid then .ok (dvState, s)
    else .ok (dvOk, modCtx s k.asid (fun x => { x with freezes := x.freezes.filter (· != c.team.asid) }))) s

/-- `dvckpt` (R225, R348). -/
def execDvckpt (o : Long) (s : State) : Host.Outcome State Fault Refusal :=
  let b := regOpd o.kb o.sb
  let lim := regOpd o.kc o.sc
  runChild (.dvckpt o) o (useRaw 2 b ++ useTyped 0x03 lim) (fun s uid tid c k =>
    let s1 := freezeCtx s k.asid c.team.asid
    let ids := subtree s1 k.asid
    if !allStopped s1 ids then .error (.hold s1 .command)
    else
      let key := ((getCtx s1 c.team.asid).map (·.keyId)).getD 0
      let img := snapshot s1 ids
      let bytes := imageFile s1 key img
      let s2 := nextFree s1
      if bytes.length > (opd64 c lim).toNat then .ok (dvSpace, s2)
      else
        orStop (storeAll s2 uid tid c [{ ea := opd64 c b, size := bytes.length, parts := [(0, bytes)] }]) (fun s3 =>
          let s4 := performContext s3 (teamCore c.team) c.team.asid
          .ok (dvOk, { s4 with sched := { s4.sched with images := (key, bytes, img) :: s4.sched.images } }))) s

/-- `dvrevoke` (R225, R349): it ends when the subtree no longer exists. -/
def execDvrevoke (o : Long) (s : State) : Host.Outcome State Fault Refusal :=
  run (.dvrevoke o) (sigChild o []) (fun s uid tid c =>
    let h := opd32 c (srcA o)
    let a := bitsAt (newHandle s c.team.asid h).toNat 13 0
    if hasBegun s uid tid (begunRevoke a) then
      if s.ctxs.any (fun x => x.asid == a && !x.live) then .hold s .command else putStatus s uid tid o dvOk
    else
      match childOf s c.team.asid h with
      | none => putStatus s uid tid o dvNotChild
      | some k =>
        let turn := takeTurn s k.asid uid tid
        if !turn.1 then .hold turn.2 .turn
        else
          let s1 := beginRevoke (markBegun turn.2 uid tid (begunRevoke a)) k.asid
          if s1.ctxs.any (fun x => x.asid == a && !x.live) then .hold s1 .command else putStatus s1 uid tid o dvOk) s

/-- A page of a Collimator entry, at an address of 57 bits, meets the 64 KiB granules of [start, start + n) (R226). -/
def pageMeets (lo size start n : Nat) : Bool :=
  let va := if lo ≥ 2 ^ 56 then lo + (2 ^ 64 - 2 ^ 57) else lo
  decide (0 < n) && decide (va < (start + n - 1) / 65536 * 65536 + 65536 ∧ start / 65536 * 65536 < va + pageBytes size)

/-- An entry of the context, or of a descendant that was composed through the range of the context's device space (R226). -/
def collMeets (asid : Nat) (e : CollEntry) (start n : Nat) : Bool :=
  if e.asid == asid then pageMeets (e.page * pageBytes e.size) e.size start n
  else e.via.any (fun v => v.1 == asid && pageMeets v.2 e.size start n)

/-- `dvinv` by a context over a range of its device space (R226). -/
def invalidate (s : State) (asid start n : Nat) : State :=
  { s with coll := s.coll.filter (fun e => !collMeets asid e start n) }

/-- `dvinv` (R226). -/
def execDvinv (o : Long) (s : State) : Host.Outcome State Fault Refusal :=
  let b := regOpd o.kb o.sb
  run (.dvinv o) (sigR (useRaw 2 (srcA o) ++ useTyped 0x03 b ++ useDst o.dst.toNat 1)) (fun s uid tid c =>
    let n := (opd64 c b).toNat
    if n == 0 then putStatus s uid tid o dvOk
    else
      let ids := subtree s c.team.asid
      let s1 := settleAccesses (invalidate s c.team.asid (opd64 c (srcA o)).toNat n) ids
      if accessesOut s1 ids then .hold s1 .command else putStatus s1 uid tid o dvOk) s

end Sys2Proof.Machine
end

