-- ==== Sys2Proof/Machine/Handler.lean ====
section
/-! DEFINITION. Handler queues: bindings, `hqbind`, `hqpop` and `hqret` (R227, R344 to R346), opcodes 0xF6 to 0xF8, and the answer to an
entry or a notice (R390, R401). -/

namespace Sys2Proof.Machine

open Sys2Proof

/-! ## Answers (R346) -/

/-- A parked thread goes on at its instruction, after it, or not at all. Skipping clears the landing flag, which the spec leaves open
(log 30). -/
def answerThread (s : State) (uid tid : Nat) (park : Park) (action : Nat) : Bool × State :=
  match (getTeam s uid).bind (fun t => getThread t tid) with
  | none => (false, s)
  | some th =>
    if th.st == .gone then (false, s)
    else if th.st != .parked park then (true, s)
    else
      match action with
      | 0 => (true, modThread s uid tid (fun x => { x with st := .ready, age := 0, pass := byReticle x.frc }))
      | 1 => (true, modThread s uid tid (fun x =>
          { x with st := .ready, age := 0, pc := x.frc.pc + BitVec.ofNat 64 (4 * wordLen x.frc.word0), landing := none }))
      | _ => (true, killThread s uid tid)

/-- Parts of an operation that wait under an id wait no longer. -/
def unblock (id : W32) (o : Op) : Op :=
  match o with
  | .mma m k => .mma m k
  | .copy c => .copy { c with slices := c.slices.map (fun (sl : Slice) => { sl with blocked := sl.blocked.filter (fun b => b.2 != id) }) }
  | .coll c => .coll { c with blocked := c.blocked.filter (fun b => b.2 != id) }

/-- The same parts wait under another id. -/
def reblock (id new : W32) (o : Op) : Op :=
  match o with
  | .mma m k => .mma m k
  | .copy c => .copy { c with slices := c.slices.map (fun (sl : Slice) =>
      { sl with blocked := sl.blocked.map (fun b => if b.2 == id then (b.1, new) else b) }) }
  | .coll c => .coll { c with blocked := c.blocked.map (fun b => if b.2 == id then (b.1, new) else b) }

/-- The gang of the slice that waits under an id, or the rank of the collective whose source or destination the address lies in (UNIT of
R291). -/
def blockedUnit (s : State) (tk : Token) (id : W32) (addr : W64) : Nat :=
  match tk.op with
  | .mma _ _ => 0
  | .copy c => ((c.slices.find? (fun (sl : Slice) => sl.blocked.any (fun b => b.2 == id))).map (fun sl => sl.gang)).getD 0
  | .coll c =>
    let reads := fun (r : Nat) => (peerSrc s tk r).any (fun a => decide (a.toNat ≤ addr.toNat ∧ addr.toNat < a.toNat + sourceBytes c))
    ((List.range c.nrank).find? reads).getD c.rank

/-- Addresses of one part of an operation that waits: read, and written. -/
def partPieces (s : State) (tk : Token) (slice part : Nat) : List (W64 × Nat) × List (W64 × Nat) :=
  match tk.op with
  | .mma _ _ => ([], [])
  | .copy c =>
    match (c.slices[slice]?).bind (fun sl => sliceSector sl.what part) with
    | some p => (runPieces (srcRuns p.2), [(p.1, p.2.length)])
    | none => ([], [])
  | .coll c =>
    if c.kind != 6 then rankPieces s tk c part
    else if part ≥ 2 ^ 60 then (segmentPieces c ((part - 2 ^ 60) / 1024) ((part - 2 ^ 60) % 1024), [])
    else if part ≥ 2 ^ 50 then ([], recvPieces c ((part - 2 ^ 50) / 1024) ((part - 2 ^ 50) % 1024) (segBytes c.blog))
    else (segmentPieces c (partSegment c part).1 (partSegment c part).2, [])

/-- Parts that wait under an id: slice and number. -/
def partsUnder (tk : Token) (id : W32) : List (Nat × Nat) :=
  match tk.op with
  | .mma _ _ => []
  | .copy c => ((List.range c.slices.length).zip c.slices).flatMap (fun p => (p.2.blocked.filter (fun b => b.2 == id)).map (fun b => (p.1, b.1)))
  | .coll c => (c.blocked.filter (fun b => b.2 == id)).map (fun b => (0, b.1))

/-- The answer ends a token: a collective at its boundary, for the parts that waited (R290, R292). -/
def endByAnswer (s : State) (core : Nat) (tk : Token) (parts : List Nat) (r : Option TokRec) : State :=
  match collOf tk with
  | some _ => collGiveUp s core tk.slot parts r
  | none => endToken s core tk.slot (if r.isSome then .faulted else .cancelled) r

/-- A token that waits under an id. -/
def answerToken (s : State) (core : Nat) (h id : W32) (action : Nat) (addr : W64) (stage : Nat) (wr : Bool) : Bool × State :=
  match (getCore s core).tokens.find? (fun tk => tokenHandle s core tk == h) with
  | none => (false, s)
  | some tk =>
    if terminal tk then (false, s)
    else
      let parts := partsUnder tk id
      match action with
      | 0 => (true, setToken s core { tk with op := unblock id tk.op, age := 0 })
      | 1 =>
        let pool := parts.any (fun x => piecesPool s tk.asid ((partPieces s tk x.1 x.2).1 ++ (partPieces s tk x.1 x.2).2))
        let r := { unservedRecord s core tk (blockedUnit s tk id addr) with addr := addr, stage := BitVec.ofNat 3 stage, wr := wr, pool := pool }
        (true, endByAnswer s core tk (parts.map (·.2)) (some r))
      | _ => (true, endByAnswer s core tk (parts.map (·.2)) none)

/-- A packet whose completion store waits: the store is made again, or given up (R316). -/
def answerPacket (s : State) (asid queue index : Nat) (action : Nat) : State :=
  modCtx s asid (fun c => { c with qpkts := c.qpkts.map (fun p =>
    if p.queue == queue && p.index == index && p.stuck.isSome then { p with stuck := none, failed := action != 0 } else p) })

/-- An answer to an entry or a notice: whether what it concerns still stands, and the state. -/
def answer (s : State) (about : Concern) (park : Park) (id : W32) (action : Nat) (addr : W64) (stage : Nat) (wr : Bool) : Bool × State :=
  match about with
  | .thread u t => answerThread s u t park action
  | .token core h => answerToken s core h id action addr stage wr
  | .packet a q i => (true, answerPacket s a q i action)
  | .report => (false, s)
  | .event => (false, s)

/-! ## Bindings (R227, R344) -/

/-- What waited under an entry waits under the new one. -/
def repark (s : State) (about : Concern) (owner : Nat) (id : W32) (dest : Posted) : State :=
  match about with
  | .thread u t => modThread s u t (fun th => if th.st == .parked (.entry owner id) then { th with st := parkPosted dest } else th)
  | .token core h =>
    let new : W32 := match dest with
      | .queued _ i => i
      | .notice i => i
      | .dropped => 0
    modCore s core (fun c => { c with tokens := c.tokens.map (fun tk =>
      if tokenHandle s core tk == h then { tk with op := reblock id new tk.op } else tk) })
  | .packet a q i =>
    let new : W32 := match dest with
      | .queued _ x => x
      | .notice x => x
      | .dropped => 0
    modCtx s a (fun c => { c with qpkts := c.qpkts.map (fun p =>
      if p.queue == q && p.index == i && p.stuck.isSome then { p with stuck := some new } else p) })
  | _ => s

/-- An entry still stands under a binding of its context. -/
def entryKept (s : State) (c : Ctx) (h : Hqe) : Bool :=
  if h.about == .report then s.teams.any (fun t => t.uid == h.under) else c.bindings.any (fun b => covers s b h.ctx)

/-- Entries of a context that no binding covers any more escalate. -/
def escalate (s : State) (asid : Nat) : State :=
  match getCtx s asid with
  | none => s
  | some c =>
    let gone := c.hqes.filter (fun h => !entryKept s c h)
    let s1 := if gone.isEmpty then s else setCtx s { c with hqes := c.hqes.filter (entryKept s c) }
    gone.foldl (fun st h =>
      let r := postEntry st { h with unh := true } (parentChain st asid)
      repark r.2 h.about asid h.id r.1) s1

/-- Bindings of a context for which `gone` holds end. -/
def endBindings (s : State) (asid : Nat) (gone : Binding → Bool) : State :=
  match getCtx s asid with
  | none => s
  | some c =>
    if c.bindings.any gone then escalate (setCtx s { c with bindings := c.bindings.filter (fun b => !gone b) }) asid else s

/-- A team retires: its bindings end (R227). -/
def unbindTeam (s : State) (uid : Nat) : State :=
  (s.ctxs.map (·.asid)).foldl (fun st a => endBindings st a (fun b => b.team == uid)) s

/-- Every child. -/
def allChildren : W32 := 0xFFFFFFFF

/-- The binding that an operand names: every child, or one; none where it names no child. -/
def bindingOf (s : State) (asid : Nat) (h : W32) : Option (Option Nat) :=
  if h == allChildren then some none else (childOf s asid h).map (fun c => some c.asid)

/-- `hqbind` (R227). -/
def execHqbind (o : Long) (s : State) : Host.Outcome State Fault Refusal :=
  run (.hqbind o) (sigChild o []) (fun s uid tid c =>
    match bindingOf s c.team.asid (opd32 c (srcA o)) with
    | none => putStatus s uid tid o dvNotChild
    | some child =>
      match ((getCtx s c.team.asid).map (fun x => x.bindings)).bind (fun l => l.find? (fun b => b.child == child)) with
      | some b => putStatus s uid tid o (if b.team == uid then dvOk else dvNoRes)
      | none =>
        putStatus (modCtx s c.team.asid (fun x => { x with bindings := x.bindings ++ [{ team := uid, child := child }] })) uid tid o dvOk) s

/-- `hqbind.off` (R227). -/
def execHqbindOff (o : Long) (s : State) : Host.Outcome State Fault Refusal :=
  run (.hqbindOff o) (sigChild o []) (fun s uid tid c =>
    match bindingOf s c.team.asid (opd32 c (srcA o)) with
    | none => putStatus s uid tid o dvNotChild
    | some child => putStatus (endBindings s c.team.asid (fun b => b.team == uid && b.child == child)) uid tid o dvOk) s

/-! ## `hqpop` (R227, R345) -/

/-- An entry that the team may take. -/
def poppable (s : State) (c : Ctx) (uid : Nat) (h : Hqe) : Bool :=
  if h.about == .report then h.under == uid else c.bindings.any (fun b => b.team == uid && covers s b h.ctx)

/-- The oldest entry that the team may take; entries beyond the queue's capacity are not yet posted (R344). -/
def popNext (s : State) (asid uid : Nat) : Option Hqe :=
  (getCtx s asid).bind (fun c => (c.hqes.take hqCapacity).find? (poppable s c uid))

/-- An entry leaves the queue; one that takes an answer is kept until `hqret`. -/
def popEntry (s : State) (asid : Nat) (h : Hqe) : State :=
  modCtx s asid (fun c => { c with hqes := c.hqes.erase h, popped := if h.about == .event then c.popped else c.popped ++ [h] })

/-- `hqpop` and `hqpop.wait`: `empty` is what happens where no entry is queued. -/
def popWith (o : Long) (s : State) (uid tid : Nat) (c : Cur) (empty : State → Act) : Act :=
  let ea := opd64 c (srcA o)
  andThen (letPass s uid tid c { ea := ea, size := 64, align := 64, rd := false, wr := true, winOnly := true }) (fun p =>
    match popNext p.2 c.team.asid uid with
    | none => empty p.2
    | some h =>
      andThen (writeSite p.2 uid tid c ea p.1 ((List.range 64).zip (natBytes 64 (hqeNat h))) .plain
          (writerSets p.2 uid tid (carryKey p.2 p.1) 64 0 false)) (fun s1 =>
        putStatus (popEntry s1 c.team.asid h) uid tid o 1))

/-- `hqpop` (R227). -/
def execHqpop (o : Long) (s : State) : Host.Outcome State Fault Refusal :=
  run (.hqpop o) (sigR (useRaw 2 (srcA o) ++ useDst o.dst.toNat 1)) (fun s uid tid c =>
    popWith o s uid tid c (fun st => putStatus st uid tid o 0)) s

/-- `hqpop.wait` (R227). -/
def execHqpopWait (o : Long) (s : State) : Host.Outcome State Fault Refusal :=
  run (.hqpopWait o) (sigR (useRaw 2 (srcA o) ++ useDst o.dst.toNat 1)) (fun s uid tid c =>
    popWith o s uid tid c (fun st => .hold st .hqpop)) s

/-! ## `hqret` (R227, R346) -/

/-- `hqret` (R346). -/
def execHqret (o : Long) (s : State) : Host.Outcome State Fault Refusal :=
  let imm := o.form == .bi
  let b := regOpd o.kb o.sb
  run (.hqret o) (sigChild o (if imm then [] else useTyped 0x01 b)) (fun s uid tid c =>
    let action := if imm then o.imm.toNat else (opd32 c b).toNat
    let asid := c.team.asid
    if action > 2 then .trap s (trapOf .reservedField)
    else
      match (getCtx s asid).bind (fun x => x.popped.find? (fun h => h.id == opd32 c (srcA o))) with
      | none => putStatus s uid tid o dvNotChild
      | some h =>
        let s1 := modCtx s asid (fun x => { x with popped := x.popped.erase h })
        let r := answer s1 h.about (.entry asid h.id) h.id action h.addr h.stage.toNat h.wr
        putStatus r.2 uid tid o (if r.1 then dvOk else dvNotChild)) s

end Sys2Proof.Machine
end

