-- ==== Sys2Proof/Machine/Special.lean ====
section
/-! DEFINITION. Special registers and counters: `rdsr`, `wrsr` and `rdcnt` (R23 to R26, R228, R229, R412), opcodes 0xF9 to 0xFB. -/

namespace Sys2Proof.Machine

open Sys2Proof

/-- A 64-bit special register (R23). -/
def srWide (n : Nat) : Bool := n == 0x12 || n == 0x15

/-- A special register that `wrsr` may write (R23). -/
def srWritable (n : Nat) : Bool := n == 0x10 || n == 0x12 || n == 0x15

/-- Width code of a gang (R24). -/
def widthCode (w : Nat) : Nat := if w == 8 then 0 else if w == 16 then 1 else if w == 32 then 2 else 3

/-- sr.gang (R24). -/
def srGang (t : Team) (th : Thread) : Nat :=
  th.gang * 2 ^ 8 + widthCode ((t.gangs[th.gang]?.map (·.width)).getD 8) * 2 ^ 6 + th.gpos

/-- sr.loc (R24). -/
def srLoc (s : State) (t : Team) (th : Thread) : Nat :=
  chipId s * 2 ^ 28 + teamCore t * 2 ^ 21 + th.part * 2 ^ 19 + th.lane * 2 ^ 13 + th.slot * 2 ^ 8

/-- The value of special register n as thread `tid` reads it (R23 to R26). -/
def readSr (s : State) (t : Team) (tid : Nat) (th : Thread) (n : Nat) : W64 :=
  let w := fun (v : W32) => v.setWidth 64
  match n with
  | 0x00 => BitVec.ofNat 64 tid
  | 0x01 => BitVec.ofNat 64 (srGang t th)
  | 0x02 => BitVec.ofNat 64 (srLoc s t th)
  | 0x03 => BitVec.ofNat 64 th.role
  | 0x04 => w t.tmx
  | 0x05 => w t.tmy
  | 0x06 => w t.tmz
  | 0x07 => w t.gdx
  | 0x08 => w t.gdy
  | 0x09 => w t.gdz
  | 0x0A => BitVec.ofNat 64 (((getGrid s t.grid).map (·.depth)).getD 0)
  | 0x0B => BitVec.ofNat 64 (((getCtx s t.asid).map (·.level)).getD 0 * 2 ^ 14 + t.asid)
  | 0x10 => w t.ctl
  | 0x11 => BitVec.ofNat 64 ((getCore s (teamCore t)).prqSeen.contains t.asid).toNat
  | 0x12 => t.hent
  | 0x13 => w t.bwd
  | 0x14 => w t.pdl
  | 0x15 => th.seed
  | _ => w (((getCtx s t.asid).map (·.rovf)).getD 0)

/-- `rdsr` (R228). -/
def execRdsr (o : Long) (s : State) : Host.Outcome State Fault Refusal :=
  let n := o.imm.toNat
  run (.rdsr o) (sigR (useDst o.dst.toNat (if srWide n then 2 else 1))) (fun s uid tid c =>
    let v := readSr s c.team tid c.th n
    .done (applyWrites s uid tid (outR
      (if srWide n then result64 o.dst.toNat v .b32 else result32 o.dst.toNat (lo32 v) .b32)))) s

/-- The fields of sr.ctl that software can set (R25). -/
def ctlMask : W32 := 0xB0

/-- `wrsr` (R23, R25, R228). -/
def execWrsr (o : Long) (s : State) : Host.Outcome State Fault Refusal :=
  let n := o.imm.toNat
  run (.wrsr o) { sigR (useRaw (if srWide n then 2 else 1) (srcA o)) with seedW := n == 0x15 } (fun s uid tid c =>
    if !srWritable n then .trap s (trapOf .permission)
    else if n == 0x10 then
      let v := opd32 c (srcA o) &&& ctlMask
      if v.getLsbD 5 && !(effFeat s c.team.asid).getLsbD 13 then .trap s { cause := .maskedFeature, aux := 13 }
      else .done (modTeam s uid (fun t => { t with ctl := v }))
    else if n == 0x12 then
      let v := opd64 c (srcA o)
      if v.toNat % 4 != 0 then .trap s { cause := .badTarget, addr := v }
      else .done (modTeam s uid (fun t => { t with hent := v }))
    else .done (modThread s uid tid (fun th => { th with seed := opd64 c (srcA o) }))) s

/-- The value of counter n as a thread reads it (R229, R412). -/
def readCnt (s : State) (t : Team) (th : Thread) (n : Nat) : W64 :=
  match n with
  | 0 => BitVec.ofNat 64 s.cycle
  | 1 => BitVec.ofNat 64 s.ns
  | 2 => energyWord s t.asid
  | 3 => BitVec.ofNat 64 (((getCtx s t.asid).map (fun c => c.charged / 256)).getD 0)
  | _ => th.issued

/-- `rdcnt` (R229). -/
def execRdcnt (o : Long) (s : State) : Host.Outcome State Fault Refusal :=
  run (.rdcnt o) (sigR (useDst o.dst.toNat 2)) (fun s uid tid c =>
    .done (applyWrites s uid tid (outR (result64 o.dst.toNat (readCnt s c.team c.th o.imm.toNat) .b32)))) s

end Sys2Proof.Machine
end

