-- ==== Sys2Proof/Machine/Qcb.lean ====
section
/-! DEFINITION. The queue table and the queue control block as the scheduler reads them (R311, R312, R316). -/

namespace Sys2Proof.Machine

open Sys2Proof

/-! ## The queue table and the QCB (R311, R312) -/

/-- The QCB address in a queue's table entry; 0 for an unused queue. -/
def qcbAddr (s : State) (c : Ctx) (q : Nat) : Except Miss W64 × State :=
  match ctxBlock s (recordSpace c) (c.cxr.qtab + BitVec.ofNat 64 (64 + 8 * (q - c.qbase))) 8 8 with
  | (.ok n, s1) => (.ok (BitVec.ofNat 64 n), s1)
  | (.error e, s1) => (.error e, s1)

/-- A QCB keeps its rules (R317). -/
def qcbOk (n : Nat) : Bool :=
  let logn := bitsAt n 68 64
  decide (4 ≤ logn ∧ logn ≤ 20) && bitsAt n 63 0 % (64 * 2 ^ logn) == 0 && bitsAt n 127 69 == 0 && bitsAt n 511 257 == 0

/-- The slot of the packet at RIDX (R312). -/
def slotAddr (n : Nat) : W64 := BitVec.ofNat 64 (bitsAt n 63 0 + 64 * (bitsAt n 191 128 % 2 ^ bitsAt n 68 64))

/-- A packet stands unconsumed at RIDX, or something that the scheduler has yet to find unreadable or malformed (R316, R319). -/
def hasPacket (s : State) (c : Ctx) (q : Nat) : Bool :=
  match (qcbAddr s c q).1 with
  | .error _ => true
  | .ok a =>
    a != 0 && match (ctxBlock s c.asid a 64 64).1 with
    | .error _ => true
    | .ok b => !qcbOk b || (match (ctxBlock s c.asid (slotAddr b) 64 64).1 with
      | .error _ => true
      | .ok v => v % 256 != 0)

end Sys2Proof.Machine
end

