-- ==== Sys2Proof/Machine/Sched.lean ====
section
/-! DEFINITION. The schedulers (R318 to R328): active contexts, effective weights and deficits, the next team of a context, its
dispatch or restore on a core, eviction, pre-emption requests, and the end of a team (R239, R240). -/

namespace Sys2Proof.Machine

open Sys2Proof

/-! ## What a `join` waits for (R215) -/

/-- The `join` that a thread waits in can end. -/
def joinReady (s : State) (t : Team) (what : Nat) (h : W32) : Bool :=
  match what with
  | 0 => ((kidGrids s t).find? (fun g => g.handle == h)).all gridFinished
  | 1 => (kidGrids s t).all gridFinished
  | _ => (if t.ranges.contains h.toNat then getRange s t.asid h else none).all (·.complete)

/-- A thread of the team waits in a `join` that can end. -/
def joinOver (s : State) (t : Team) : Bool :=
  t.threads.any (fun th => match th.st with
    | .waiting (.join w h) => joinReady s t w h
    | _ => false)

/-- A thread of the team waits in a `join`. -/
def inJoin (t : Team) : Bool :=
  t.threads.any (fun th => match th.st with
    | .waiting (.join _ _) => true
    | _ => false)

/-! ## Candidates (R322, R327, R328) -/

/-- The range whose teams a grid stands for. -/
def rangeOf (s : State) (g : Grid) : Option Range :=
  match g.origin with
  | .range h => getRange s g.asid (BitVec.ofNat 32 h)
  | _ => none

/-- Elements of a range that no team has been handed. -/
def unhanded (r : Range) : Nat := if r.started then (r.shares.map shareLen).sum else r.hi - r.lo

/-- Cores of a grid's context that may take its next team, as chips and cores: of the whole span; for a range, those of this chip, whose
pool hands out its elements (log 54), that hold none of its teams yet; for a team that another chip has placed here, those of this chip. -/
def gridCores (s : State) (g : Grid) : List (Nat × Nat) :=
  let l := spanCores s g.asid
  match g.origin with
  | .range _ => l.filter (fun k => k.1 == chipId s && !g.placedOn.contains k.2)
  | .far _ _ => l.filter (fun k => k.1 == chipId s)
  | _ => l

/-- A team of the grid is not yet placed: a record in the overflow area waits for the queue. -/
def hasFresh (s : State) (c : Ctx) (g : Grid) : Bool :=
  g.asid == c.asid && !c.lovQ.contains g.uid &&
  match rangeOf s g, g.origin with
  | some r, _ => !r.complete && decide (unhanded r > 0) && !(gridCores s g).isEmpty
  | none, .range _ => false
  | none, _ => decide (g.next < g.total)

/-- A saved team that awaits restore: an evicted one waits until its `join` can end. -/
def awaitsRestore (s : State) (t : Team) : Bool :=
  (match t.home with
   | .saved _ => true
   | .savedDrained _ => true
   | _ => false) && (!t.evicted || joinOver s t || !inJoin t)

/-- A team to place next: one that is not yet placed, by its grid, or a saved one. -/
inductive Cand where
  | fresh (g : Grid)
  | back (t : Team)
  deriving DecidableEq, Repr

/-- Sort key of R322: PRIO, saved before unplaced, the grid's dispatch, the team's index. -/
def candKey (s : State) (x : Cand) : List Nat :=
  match x with
  | .fresh g => [3 - g.lrc.prio, 1, g.uid, g.next]
  | .back t => [3 - ((getGrid s t.grid).map (fun g => g.lrc.prio)).getD 0, 0, t.grid, t.lin]

def keyLe : List Nat → List Nat → Bool
  | a :: r, b :: q => decide (a < b) || (a == b && keyLe r q)
  | _, _ => true

/-- The teams of a context that could be placed next, in order. -/
def candidates (s : State) (c : Ctx) : List Cand :=
  let l := ((s.teams.filter (fun t => t.asid == c.asid && awaitsRestore s t)).map Cand.back)
    ++ ((s.grids.filter (hasFresh s c)).map Cand.fresh)
  sortBy (fun a b => keyLe (candKey s a) (candKey s b)) l

/-! ## Shares and rounds (R319, R320) -/

/-- Active on the chip (R319): an unconsumed packet in a rung queue, a team to place or a team to restore, and no freeze or revoke in
effect. -/
def ctxActive (s : State) (c : Ctx) : Bool :=
  !frozen s c.asid && !revoking s c.asid
    && ((!c.qhalt && c.queues.any (fun q => q.rung && ownsQueue c q.num && hasPacket s c q.num)) || !(candidates s c).isEmpty)

def activeIds (s : State) : List Nat := (s.ctxs.filter (ctxActive s)).map (·.asid)

/-- The subtree has an active member. -/
def treeActive (s : State) (act : List Nat) (asid : Nat) : Bool := act.any (fun a => inSubtree s asid a)

def ownWeight (c : Ctx) : Nat := max 1 c.cxr.ownw

/-- Sum of the weights of a node's active members. -/
def memberSum (s : State) (act : List Nat) (n : Ctx) : Nat :=
  (if act.contains n.asid then ownWeight n else 0)
    + ((s.ctxs.filter (fun x => x.parent == some n.asid && !x.grant.excl && treeActive s act x.asid)).map (fun x => x.grant.weight)).sum

/-- floor(w * 2^32 / sum), then down from F(n), not below 2^8. -/
def memberF (fn w sum : Nat) : Nat := max (fn * (w * 2 ^ 32 / max 1 sum) / 2 ^ 32) 256

/-- F of a node, from its chain of contexts up to the root of its table. -/
def nodeF (s : State) (act : List Nat) : List Ctx → Nat
  | [] => 2 ^ 32
  | [_] => 2 ^ 32
  | c :: n :: r => if c.grant.excl then 2 ^ 32 else memberF (nodeF s act (n :: r)) c.grant.weight (memberSum s act n)

/-- F of a context as a member of its own node. -/
def effectiveWeight (s : State) (act : List Nat) (c : Ctx) : Nat :=
  memberF (nodeF s act (chainOf s c.asid)) (ownWeight c) (memberSum s act c)

/-- The root of the share table that serves a context: the nearest exclusive context on its chain, or the root. -/
def tableOf (s : State) (asid : Nat) : Option Nat :=
  let ch := chainOf s asid
  match ch.find? (fun c => c.grant.excl) with
  | some c => some c.asid
  | none => (ch.getLast?).map (·.asid)

/-- Q of the configuration record, in core-cycles (R320, R406). -/
def quantum (s : State) : Nat := (if cfgBits s 131 116 == 0 then 100 else cfgBits s 131 116) * 1000

def clampDeficit (d : Int) : Int := clampInt (-(2 ^ 47)) (2 ^ 47 - 1) d

/-- The ring follows the activity of the contexts: a newcomer enters before the pointer, one that has become inactive leaves and
keeps no credit (R320). -/
def syncRing (s : State) : State :=
  let act := activeIds s
  let stay := s.sched.ring.filter (fun a => act.contains a)
  let gone := s.sched.ring.filter (fun a => !act.contains a)
  if gone.isEmpty && stay.length == act.length then s
  else
    { s with
      sched := { s.sched with ring := stay ++ act.filter (fun a => !stay.contains a) }
      ctxs := s.ctxs.map (fun c => if gone.contains c.asid then { c with deficit := min c.deficit 0 } else c) }

def hasCredit (s : State) (asid : Nat) : Bool := (getCtx s asid).any (fun c => decide (c.deficit > 0))

/-- Contexts of the tables in which no active context has D > 0. -/
def roundMembers (s : State) : List Nat :=
  let act := s.sched.ring
  act.filter (fun a => !(act.any (fun b => tableOf s b == tableOf s a && hasCredit s b)))

/-- A round begins (R320). -/
def beginRound (s : State) : State :=
  let act := s.sched.ring
  let mem := roundMembers s
  { s with ctxs := s.ctxs.map (fun c =>
      if mem.contains c.asid then
        { c with deficit := clampDeficit (c.deficit + ((quantum s * effectiveWeight s act c / 2 ^ 17 : Nat) : Int)) }
      else c) }

/-- SCHEDULER_ROUND (R320): some table has active contexts and none of them has D > 0. -/
def execSchedulerRound (s : State) : Host.Outcome State Fault Refusal :=
  let s1 := syncRing s
  if (roundMembers s1).isEmpty then .fault .notEnabled else .next (beginRound s1)

/-! ## Dispatch of a team (R29, R214, R231, R232) -/

/-- What the grid of a team gives its special registers: index and extents. -/
structure Dims where
  tmx : W32
  tmy : W32
  tmz : W32
  gdx : W32
  gdy : W32
  gdz : W32
  deriving DecidableEq, Repr

/-- The dimensions of team `lin` of a grid (R322). -/
def gridDims (l : Lrc) (lin : Nat) : Dims :=
  { tmx := BitVec.ofNat 32 (lin % l.gdx), tmy := BitVec.ofNat 32 (lin / l.gdx % l.gdy), tmz := BitVec.ofNat 32 (lin / l.gdx / l.gdy),
    gdx := BitVec.ofNat 32 l.gdx, gdy := BitVec.ofNat 32 l.gdy, gdz := BitVec.ofNat 32 l.gdz }

/-- Those of a range's team, which the spec leaves open. -/
def rangeDims (n : Nat) : Dims :=
  let r := Config.rangeDim n
  { tmx := r 0, tmy := r 1, tmz := r 2, gdx := r 3, gdy := r 4, gdz := r 5 }

/-- The seed of a thread (R214). -/
def seedOf (l : Lrc) (d : Dims) (tid : Nat) : W64 :=
  let lin := d.tmx.toNat + d.gdx.toNat * (d.tmy.toNat + d.gdy.toNat * d.tmz.toNat)
  l.seed + BitVec.ofNat 64 (4096 * lin + tid)

/-- A role's allotment and entry offset. -/
def roleOf (l : Lrc) (r : Nat) : Nat × Nat := ((l.roles[r]?).map (fun x => (x.2.2.1, x.2.2.2))).getD (8, 0)

/-- The threads of a team in thread-index order. -/
def newThreads (l : Lrc) (d : Dims) : List Thread :=
  let gangs := lrcGangs l
  let who := ((List.range gangs.length).zip gangs).flatMap (fun g => (List.range g.2.1).map (fun j => (g.1, j, g.2.2.1)))
  ((List.range who.length).zip who).map (fun p =>
    let role := roleOf l p.2.2.2
    { regs := List.replicate role.1 noReg, pc := l.code + BitVec.ofNat 64 role.2, seed := seedOf l d p.1,
      gang := p.2.1, gpos := p.2.2.1, role := p.2.2.2 })

/-- The dispatch value of sr.ctl: the record's defined bits, without those the parent has masked (R25). -/
def dispatchCtl (s : State) (c : Ctx) : W32 :=
  let v := c.cxr.ctl.setWidth 32 &&& ctlMask
  if (effFeat s c.asid).getLsbD 13 then v else v &&& 0x90

/-- A new team of a grid on a core. -/
def newTeam (s : State) (c : Ctx) (g : Grid) (serial : W32) (lin : Nat) (d : Dims) (core g0 : Nat) (pos : List (Nat × Nat × Nat)) : Team :=
  let l := g.lrc
  let recLen := recordLen s c.asid l.calld
  let t : Team :=
    { uid := s.nextUid, serial := serial, asid := c.asid, grid := g.uid, lin := lin, tmx := d.tmx, tmy := d.tmy, tmz := d.tmz,
      gdx := d.gdx, gdy := d.gdy, gdz := d.gdz, home := .core core,
      gangs := (lrcGangs l).map (fun x => { width := x.1, role := x.2.1 }),
      threads := newThreads l d, k := l.consts ++ List.replicate (64 - l.consts.length) 0, bars := List.replicate 16 {},
      ctl := dispatchCtl s c, hent := c.cxr.hent, bwd := c.cxr.bwd, pdl := c.cxr.pdl, trm := c.cxr.trm, calld := l.calld,
      scr := l.scr, ngrants := grantsFor l.scr (lrcThreads l) recLen, recLen := recLen,
      tiles := List.replicate l.acct [],
      range := (match g.origin with
        | .range h => some h
        | _ => none),
      acq := g.carry.map (fun e => { e with mask := acqAll }) }
  scratchK (chipId s) core (standAt t core g0 pos)

/-- What a team of the grid needs of a core. -/
def gridNeed (s : State) (g : Grid) : Need :=
  { asid := g.asid, gangs := (lrcGangs g.lrc).map (fun x => (x.1, x.2.2)), acct := g.lrc.acct,
    grants := grantsFor g.lrc.scr (lrcThreads g.lrc) (recordLen s g.asid g.lrc.calld) }

/-- The range's account of one more team (R328): the first holds the whole range. -/
def rangePlaced (s : State) (g : Grid) (uid : Nat) : State :=
  match rangeOf s g with
  | none => s
  | some r =>
    let share := if r.started then (uid, r.hi, r.hi) else (uid, r.lo, r.hi)
    setRange s g.asid { putShare r share with started := true }

/-- The first team of a queued grid has been placed, or the grid is gone. -/
def gridBegun (s : State) (uid : Nat) : Bool := (getGrid s uid).all (fun g => decide (0 < g.next))

/-- Cores of a cluster share a leaf controller (R318). -/
def clusterOf (core : Nat) : Nat := core / 4

/-- Send permits of a command link in each direction (R318). -/
def linkPermits : Nat := 16

/-- A permit is left for a command to the leaf controller of a core, and one for its answer. -/
def leafFree (s : State) (core : Nat) : Bool := decide (((getKey s.sched.links (clusterOf core)).getD 0) < linkPermits)

/-- A command to the leaf controller of a core; the permits that it and its answer take are returned at the end of the cycle (log 54). -/
def sendLeaf (s : State) (core : Nat) : State :=
  let k := clusterOf core
  { s with sched := { s.sched with links := putKey s.sched.links k ((getKey s.sched.links k).getD 0 + 1) } }

/-- The next team of a grid is placed on a core that passes the check. -/
def dispatchTeam (s : State) (c : Ctx) (g : Grid) (core : Nat) (pos : List (Nat × Nat × Nat)) (runs : List Nat) : State :=
  let pick := pickFrom s runs
  match pick.1 with
  | none => s
  | some g0 =>
    let ranged := (rangeOf s g).isSome
    let lin := if ranged then g.placedOn.length else g.next
    let d := if ranged then rangeDims pick.2.freeCtr else gridDims g.lrc lin
    let serial := pickId 4 c.nextTeam
    let s1 := if ranged then nextFree pick.2 else pick.2
    let t := newTeam s1 c g serial.1 lin d core g0 pos
    let s2 := dropNear (takeGrants s1 c.asid core g0 t.ngrants) core c.asid
    let s3 := { s2 with teams := s2.teams ++ [t], nextUid := s2.nextUid + 1 }
    let s4 := setGrid s3 { g with next := g.next + 1, placedOn := g.placedOn ++ [core] }
    let s5 := modCtx s4 c.asid (fun (x : Ctx) => { unqueueGrid x (gridBegun s4) with nextTeam := serial.2, starve := 0 })
    rangePlaced (sendLeaf s5 core) g t.uid

/-- The first byte of a command between two firmwares: a team to be placed, and a team that has ended (log 54). -/
def placeCode : Byte := 1
def endCode : Byte := 2

/-- The next team of a grid is placed on a core of another chip of the span, by a command to that chip's firmware (R323, R425). -/
def sendTeam (s : State) (c : Ctx) (g : Grid) (chip core : Nat) : State :=
  let s1 := setGrid s { g with next := g.next + 1, away := g.away ++ [(g.next, chip)] }
  let s2 := modCtx s1 c.asid (fun (x : Ctx) => { unqueueGrid x (gridBegun s1) with starve := 0 })
  sendToward s2 core chip { requestPacket s2 c.asid 0 chip core 11 0 false false
    (placeCode :: natBytes 8 g.uid ++ natBytes 8 g.next ++ [BitVec.ofNat 8 g.depth]) with chan := 0 }

/-! ## Finding a core (R323, R324) -/

/-- Where a team can stand: on a core of this chip, at positions and with grants to choose from, or on a core of another chip. -/
inductive Spot where
  | here (core : Nat) (pos : List (Nat × Nat × Nat)) (runs : List Nat)
  | away (chip core : Nat)
  deriving DecidableEq, Repr

/-- The first core of a list that passes the check. What passes on another chip is for that chip to say. -/
def firstCore (s : State) (n : Need) : List (Nat × Nat) → Option Spot
  | [] => none
  | k :: r =>
    if k.1 == chipId s then
      match corePasses s k.2 n with
      | some p => some (.here k.2 p.1 p.2)
      | none => firstCore s n r
    else if Config.farPasses s.cycle k.1 k.2 n.asid then some (.away k.1 k.2)
    else firstCore s n r

/-- Where the next team of a grid goes: from position t mod C of the core list. -/
def freshCore (s : State) (g : Grid) : Option Spot :=
  let may := gridCores s g
  let start := match g.origin with
    | .range _ => g.placedOn.length
    | _ => g.next
  firstCore s (gridNeed s g) ((rotated (spanCores s g.asid) start).filter (fun k => may.contains k))

/-- What a saved team needs: a drained one only its scratch and tiles. -/
def backNeed (t : Team) : Need :=
  match t.home with
  | .savedDrained _ => { teamNeed t with gangs := [] }
  | _ => teamNeed t

/-- A core that holds another team of the saved team's range takes it not (R328). -/
def rangeFree (s : State) (t : Team) (core : Nat) : Bool :=
  t.range.isNone || (getGrid s t.grid).all (fun g => ((List.range g.placedOn.length).zip g.placedOn).all (fun p => p.1 == t.lin || p.2 != core))

/-- Where a saved team goes: the core it was saved from, then the list, of which the cores of this chip stand for it (log 54). -/
def backCore (s : State) (t : Team) : Option Spot :=
  let l := spanCores s t.asid
  let from_ := (chipId s, teamCore t)
  let first := if l.contains from_ then [from_] else []
  firstCore s (backNeed t) ((first ++ rotated l t.lin).filter (fun k => k.1 == chipId s && rangeFree s t k.2))

/-- The spot on this chip. -/
def spotHere (x : Option Spot) : Option (Nat × List (Nat × Nat × Nat) × List Nat) :=
  match x with
  | some (.here core pos runs) => some (core, pos, runs)
  | _ => none

/-- A command can be sent to the leaf controller of the spot. -/
def spotFree (s : State) (x : Option Spot) : Bool :=
  match x with
  | some (.here core _ _) => leafFree s core
  | _ => true

/-! ## Eviction (R327) -/

/-- Blocked in `join`. -/
def blockedInJoin (s : State) (t : Team) : Bool :=
  let waits := fun (th : Thread) => match th.st with
    | .waiting (.join w h) => !joinReady s t w h
    | _ => false
  teamResident t && t.threads.all (fun th => waits th || (match th.st with
    | .exited _ | .gone | .parked _ => true
    | _ => false))

/-- The team that launched a grid or submitted its range. -/
def launcherOf (s : State) (g : Grid) : Option Team :=
  match g.origin with
  | .launch u => getTeam s u
  | .range _ => ((rangeOf s g).bind (·.team)).bind (getTeam s)
  | .packet _ _ => none
  | .far _ _ => none

/-- Ancestors of a grid's teams, youngest first. -/
def ancestors (s : State) : Nat → Grid → List Team
  | 0, _ => []
  | n + 1, g =>
    match launcherOf s g with
    | none => []
    | some t => t :: (match getGrid s t.grid with
      | some p => ancestors s n p
      | none => [])

/-- SAVEA can hold the team's image (R335). -/
def savable (s : State) (t : Team) : Bool := (savePlace s t).isSome

/-- Where a candidate would go. -/
def spotOf (s : State) (x : Cand) : Option Spot :=
  match x with
  | .fresh g => freshCore s g
  | .back t => backCore s t

/-- The grid of a candidate. -/
def candGrid (s : State) (x : Cand) : Option Grid :=
  match x with
  | .fresh g => some g
  | .back t => getGrid s t.grid

/-- The shortest run of blocked ancestors whose release lets the candidate pass; none where no run does. -/
def evictionRun (s : State) (x : Cand) : List Team :=
  let run := (((candGrid s x).map (ancestors s 10)).getD []).filter (fun t => blockedInJoin s t && !t.evicted && savable s t)
  let enough := fun (k : Nat) =>
    let out := (run.take k).map (·.uid)
    (spotOf { s with teams := s.teams.filter (fun t => !out.contains t.uid) } x).isSome
  match ((List.range run.length).map (· + 1)).find? enough with
  | some k => run.take k
  | none => []

/-- The run is evicted; its teams are saved as soon as their operations have stopped. -/
def evict (s : State) (run : List Team) : State :=
  run.foldl (fun st t => evictStep (modTeam st t.uid (fun x => { x with evicted := true })) (teamCore t) t.uid) s

/-! ## Serving a context -/

/-- The candidate can be placed now, or room can be made for it. -/
def placeable (s : State) (x : Cand) : Bool := (spotOf s x).isSome || !(evictionRun s x).isEmpty

/-- The next team of a context (R322): the first of its candidates that can be placed. -/
def nextOf (s : State) (asid : Nat) : Option Cand := (getCtx s asid).bind (fun c => (candidates s c).find? (placeable s))

/-- The context that a table's ring serves next is the first one with D > 0 and a team to place. -/
def servedFirst (s : State) (asid : Nat) : Bool :=
  let mine := s.sched.ring.filter (fun a => tableOf s a == tableOf s asid)
  (mine.find? (fun a => hasCredit s a && (nextOf s a).isSome)) == some asid

/-- The pointer of a context's table moves to it. -/
def turnRing (s : State) (asid : Nat) : State :=
  let mine := fun (a : Nat) => tableOf s a == tableOf s asid
  let before := (s.sched.ring.takeWhile (· != asid)).filter mine
  { s with sched := { s.sched with ring := s.sched.ring.filter (fun a => !before.contains a) ++ before } }

/-- The next placement of any ring. -/
def nextPlacement (s : State) : Option Cand :=
  (s.sched.ring.find? (fun a => hasCredit s a && servedFirst s a)).bind (nextOf s)

/-- The state in which a candidate is to be placed: after an eviction, where only that makes the room (R327). -/
def roomFor (s : State) (x : Cand) : State := if (spotOf s x).isSome then s else evict s (evictionRun s x)

/-- The next team of a grid is placed where there is room. -/
def placeFresh (s : State) (c : Ctx) (g : Grid) : State :=
  match freshCore s g with
  | some (.here core pos runs) => dispatchTeam s c g core pos runs
  | some (.away chip core) => sendTeam s c g chip core
  | none => s

/-- A saved team is restored where there is room; a range notes the core (R328). -/
def placeBack (s : State) (t : Team) : State :=
  match spotHere (backCore s t) with
  | some (core, pos, runs) =>
    let s1 := modCtx (restoreOn (sendLeaf s core) t core pos runs) t.asid (fun (c : Ctx) => { c with starve := 0 })
    if t.range.isSome then modGrid s1 t.grid (fun g => { g with placedOn := g.placedOn.set t.lin core }) else s1
  | none => s

/-- TEAM_PLACEMENT (R322 to R328): the grid's next team is the one to place. -/
def execTeamPlacement (grid : Nat) (s : State) : Host.Outcome State Fault Refusal :=
  let s1 := syncRing s
  match getGrid s1 grid with
  | none => .fault .notEnabled
  | some g =>
    match getCtx s1 g.asid, nextOf s1 g.asid with
    | some c, some (.fresh x) =>
      if x.uid == grid && hasCredit s1 c.asid && servedFirst s1 c.asid && spotFree s1 (freshCore s1 g) then
        .next (placeFresh (roomFor (turnRing s1 c.asid) (.fresh g)) c g)
      else .fault .notEnabled
    | _, _ => .fault .notEnabled

/-- TEAM_RESTORE (R248, R323): the saved team is the one to place. -/
def execTeamRestore (team : Nat) (s : State) : Host.Outcome State Fault Refusal :=
  let s1 := syncRing s
  match getTeam s1 team with
  | none => .fault .notEnabled
  | some t =>
    match nextOf s1 t.asid with
    | some (.back x) =>
      if x.uid == team && hasCredit s1 t.asid && servedFirst s1 t.asid && spotFree s1 (backCore s1 t) then
        .next (placeBack (roomFor (turnRing s1 t.asid) (.back t)) t)
      else .fault .notEnabled
    | _ => .fault .notEnabled

/-! ## Pre-emption (R246, R321) -/

/-- Cycles that a context waits with D > 0 before a request is raised for it. -/
def starveLimit : Nat := 54000

/-- Contexts resident on the waiting context's cores with D below 0, the lowest first: deficit, core, ASID. -/
def starvers (s : State) (asid : Nat) : List (Int × Nat × Nat) :=
  let l := (coreList s asid).flatMap (fun k =>
    ((s.teams.filter (fun t => holdsOn t k)).map (·.asid)).eraseDups.filterMap (fun a =>
      match getCtx s a with
      | some c =>
        if decide (c.deficit < 0) && (teamsHere s k a).all (savable s) then
          some (c.deficit, k, a)
        else none
      | none => none))
  sortBy (fun a b => decide (a.1 ≤ b.1)) l

/-- STARVATION_PREEMPTION (R321). Among equals the spec leaves the choice open. -/
def execStarvationPreemption (asid : Nat) (s : State) : Host.Outcome State Fault Refusal :=
  match getCtx s asid, starvers s asid with
  | some c, x :: r =>
    if ctxActive s c && c.starve ≥ starveLimit then
      let p := pickFrom s ((x :: r).filter (fun y => y.1 == x.1 && leafFree s y.2.1))
      match p.1 with
      | some y => .next (modCtx (requestPreempt (sendLeaf p.2 y.2.1) y.2.1 y.2.2) asid (fun (c : Ctx) => { c with starve := 0 }))
      | none => .fault .notEnabled
    else .fault .notEnabled
  | _, _ => .fault .notEnabled

/-- A request whose deadline has passed for a team that is not saved, and whose forced save is not yet recorded. -/
def forceDue (s : State) (core : Nat) (p : Preempt) : Bool :=
  !p.forced && (teamsHere s core p.asid).any (fun t => t.threads.any unsaved && pastDeadline s p t)

/-- FORCED_SAVE (R246, R394): recorded once for the request; the count is of the threads it takes. -/
def execForcedSave (core asid : Nat) (s : State) : Host.Outcome State Fault Refusal :=
  match (getCore s core).prq.find? (fun p => p.asid == asid) with
  | none => .fault .notEnabled
  | some p =>
    if !forceDue s core p then .fault .notEnabled
    else
      let n := ((teamsHere s core asid).map (fun t => (t.threads.filter unsaved).length)).sum
      let s1 := modCore s core (fun c => { c with prq := c.prq.map (fun q => if q.asid == asid then { q with forced := true } else q) })
      .next (preemptStep (postForced s1 asid n core) core)

/-! ## The end of a team (R239, R240) -/

/-- SPLIT tokens that the team owns and whose block no `mmac` has taken are CANCELLED when the last gang has retired (R284). -/
def cancelSplits (s : State) (uid : Nat) : State :=
  ((allTokens s).filter (fun p => p.2.holder == .team uid && p.2.st == .split && p.2.cont.isNone)).foldl
    (fun st p => endToken st p.1 p.2.slot .cancelled none) s

def cancelAllSplits (s : State) : State :=
  ((s.teams.filter (fun t => t.gangs.all (·.done))).map (·.uid)).foldl cancelSplits s

/-- All that holds a retired team back is done. -/
def teamOver (s : State) (t : Team) : Bool :=
  (match t.home with
   | .drained _ => true
   | _ => false)
    && !teamStores s t
    && (allTokens s).all (fun p => p.2.holder != .team t.uid || terminal p.2)
    && (kidGrids s t).all gridFinished
    && t.ranges.all (fun h => (getRange s t.asid (BitVec.ofNat 32 h)).all (·.complete))

/-- What the end of a team releases to a `join` (R259). -/
def endRelease (s : State) (t : Team) : List LEntry :=
  if !loupeOn s t.asid then []
  else
    let own : LEntry := { team := t.serial, epoch := t.epoch + 1, sk := 2, src := 0, mask := 0, w := false, marked := false }
    own :: t.acq.map (fun e => { e with mask := 0 })

/-- Every team of a grid, or of a range's dispatch, has ended. -/
def gridOver (s : State) (g : Grid) : Bool :=
  match g.origin with
  | .range _ => (rangeOf s g).all (·.complete) && decide (g.ended ≥ g.placedOn.length)
  | .far _ _ => decide (g.ended ≥ g.total)
  | _ => gridFinished g

/-- The nearest live ancestor of a grid (R285). -/
def liveAncestor (s : State) : Nat → Option Nat → Holder
  | 0, _ => .root
  | _, none => .root
  | n + 1, some u =>
    match getGrid s u with
    | none => .root
    | some g => if gridOver s g then liveAncestor s n g.parent else .grid u

/-- A grid that is over: its detached tokens pass on, and it stays listed only for a `join`. -/
def closeGrid (s : State) (g : Grid) : State :=
  if !gridOver s g then s
  else
    let heir := liveAncestor s 16 g.parent
    let s1 := { s with cores := s.cores.map (fun c => { c with tokens := c.tokens.map (fun (tk : Token) =>
      if tk.holder == .grid g.uid && !terminal tk then { tk with holder := heir } else tk) }) }
    let s2 := { s1 with grids := s1.grids.filter (fun x => x.uid != g.uid) }
    match g.origin with
    | .launch _ => s1
    | .range _ => s2
    | .far chip uid =>
      sendToward s2 0 chip { requestPacket s2 g.asid 0 chip 0 11 0 false false
        (endCode :: natBytes 8 uid ++ natBytes 8 (g.total - 1) ++ [BitVec.ofNat 8 g.hurt.toNat]) with chan := 0 }
    | .packet q i => modCtx s2 g.asid (fun (c : Ctx) => { c with qpkts := c.qpkts.map (fun p =>
        if p.queue == q && p.index == i then { p with ended := true, carry := g.endSet } else p) })

/-- A team ends: everything it held is free, and it counts for its grid. -/
def endTeam (s : State) (t : Team) : State :=
  let s1 := dropTeamGrants (unbindTeam s t.uid) t
  let set := endRelease s1 t
  let r := keepSet s1 t.asid (addEntries (((getGrid s1 t.grid).map (·.endSet)).getD []) set)
  let s2 := modGrid r.2 t.grid (fun g => { g with ended := g.ended + 1, hurt := g.hurt || t.hurt, endSet := r.1 })
  let s3 := match t.range with
    | some h => match getRange s2 t.asid (BitVec.ofNat 32 h) with
      | some r => setRange s2 t.asid { r with hurt := r.hurt || t.hurt }
      | none => s2
    | none => s2
  let s4 := { s3 with
    teams := s3.teams.filter (fun x => x.uid != t.uid)
    grids := s3.grids.filter (fun g => !t.kids.contains g.uid)
    carry := s3.carry.filter (fun c => match c.key with
      | .bar u _ => u != t.uid
      | _ => true) }
  let s5 := modCtx s4 t.asid (fun (c : Ctx) => { c with ranges := c.ranges.filter (fun r => !t.ranges.contains r.handle) })
  match getGrid s5 t.grid with
  | some g => closeGrid s5 g
  | none => s5

end Sys2Proof.Machine
end

