-- ==== Sys2Proof/Machine/Queue.lean ====
section
/-! DEFINITION. Device queues (R311 to R317, R330): the reading of a queue, the check of its packets, their start and completion,
and what a malformed packet leads to. -/

namespace Sys2Proof.Machine

open Sys2Proof

/-! ## Malformed packets (R317) -/

/-- HALT written in the QCB that a table entry names; one that cannot be written is skipped. -/
def haltOne (s : State) (c : Ctx) (q : Nat) : State :=
  match qcbAddr s c q with
  | (.ok a, s1) => if a == 0 then s1 else (ctxRelease s1 c.asid (a + 32) [1] []).2
  | (.error _, s1) => s1

/-- Every queue of a context is halted. -/
def haltQueues (s : State) (asid : Nat) : State :=
  match getCtx s asid with
  | none => s
  | some c =>
    let s1 := (List.range c.grant.nqueue).foldl (fun st i => haltOne st c (c.qbase + i)) s
    modCtx s1 asid (fun (x : Ctx) => { x with qhalt := true, queues := x.queues.map (fun q => { q with rung := false }) })

/-- The process of a queue is halted, its parent or the host told, and its contexts discarded. The root is no one's child, so a
malformed packet of the root discards nothing. -/
def malformed (s : State) (asid q idx : Nat) (addr : W64) : State :=
  match getCtx s asid with
  | none => s
  | some c =>
    let s1 := (subtree s asid).foldl haltQueues (hubDone s asid)
    let aux := q % 2 ^ 16 + idx % 2 ^ 48 * 2 ^ 16
    match c.parent with
    | none => noticeAt s1 .a { kind := 3, data := BitVec.ofNat 64 aux, asid := asid, chip := chipId s1, cause := 0x02 }
    | some _ =>
      let h : Hqe := { addr := addr, src := ctxHandle c, cause := 0x02, chip := BitVec.ofNat 4 (chipId s1), aux := BitVec.ofNat 208 aux,
                       about := .report, ctx := asid }
      beginRevoke (postEntry s1 h (parentChain s1 asid)).2 asid

/-! ## Completion (R316) -/

def setPacket (s : State) (asid : Nat) (p : QPacket) : State :=
  modCtx s asid (fun (c : Ctx) => { c with qpkts := replaceIf (fun x => x.queue == p.queue && x.index == p.index) p c.qpkts })

/-- A completed packet leaves, and its queue is read again. -/
def packetGone (s : State) (asid : Nat) (p : QPacket) : State :=
  let s1 := modCtx s asid (fun (c : Ctx) => { c with
    qpkts := c.qpkts.filter (fun x => !(x.queue == p.queue && x.index == p.index))
    ranges := c.ranges.filter (fun r => r.pkt != some (p.queue, p.index)) })
  ringQueue s1 asid p.queue []

/-- The completion store cannot be made: the owner's parent hears of it, or the host. -/
def signalFails (s : State) (c : Ctx) (p : QPacket) (cause : Cause) : State :=
  let h : Hqe := { addr := p.csig, src := ctxHandle c, cause := BitVec.ofNat 8 (causeCode cause), wr := true,
                   chip := BitVec.ofNat 4 (chipId s), aux := BitVec.ofNat 208 (p.queue % 2 ^ 16 + p.index % 2 ^ 48 * 2 ^ 16),
                   about := .packet c.asid p.queue p.index, ctx := c.asid }
  packetGone (postEntry s h (parentChain s c.asid)).2 c.asid p

/-- The store's replayable fault is posted as a token's is (R343, R390): what the packet waits under. -/
def postPacketFault (s : State) (c : Ctx) (p : QPacket) (stage : Nat) : W32 × State :=
  let about := Concern.packet c.asid p.queue p.index
  if stage == 0 then
    askNotice s { kind := 1, addr := rootAddr s c.asid p.csig, asid := c.asid, chip := chipId s,
                  cause := BitVec.ofNat 8 (causeCode .dataFault) } about true p.csig true
  else
    let r := postEntry s { addr := p.csig, src := ctxHandle c, cause := BitVec.ofNat 8 (causeCode .dataFault),
                           stage := BitVec.ofNat 3 stage, rpl := true, wr := true, chip := BitVec.ofNat 4 (chipId s),
                           aux := BitVec.ofNat 208 (p.queue % 2 ^ 16 + p.index % 2 ^ 48 * 2 ^ 16), about := about, ctx := c.asid }
               (ownerChain s c.asid stage)
    match r.1 with
    | .queued _ id => (id, r.2)
    | .notice id => (id, r.2)
    | .dropped => (0, r.2)

/-- A packet whose work is over makes its completion store, as a release at `.sy`, and leaves. -/
def finishPacket (s : State) (c : Ctx) (p : QPacket) : State :=
  if !p.sig then packetGone s c.asid p
  else if p.stuck.isSome then s
  else if p.failed then signalFails s c p .dataFault
  else
    match ctxRelease s c.asid p.csig (natBytes 8 p.cval.toNat) p.carry with
    | (.ok _, s1) => packetGone s1 c.asid p
    | (.error (.ats rq), s1) =>
      if atsKnown s1 rq then setPacket (pageRequest s1 c.asid rq false true) c.asid { p with stuck := some pageWait } else askAts s1 rq true
    | (.error (.trap t), s1) =>
      if t.rpl then
        let r := postPacketFault s1 c p t.stage
        setPacket r.2 c.asid { p with stuck := some r.1 }
      else signalFails s1 c p t.cause

/-- The grid or range of a packet. -/
def packetGrid (s : State) (asid : Nat) (p : QPacket) : Option Grid :=
  s.grids.find? (fun g => g.asid == asid && g.origin == .packet p.queue p.index)
def packetRange (c : Ctx) (p : QPacket) : Option Range := c.ranges.find? (fun r => r.pkt == some (p.queue, p.index))

/-- The work of a started packet is done. -/
def workDone (s : State) (c : Ctx) (p : QPacket) : Bool :=
  match p.type with
  | 1 => (packetGrid s c.asid p).all gridFinished
  | 2 => (packetRange c p).all (·.complete)
  | _ => true

/-! ## Start (R316) -/

/-- A LAUNCH packet's grid: a root grid of the context at depth 0. -/
def startGrid (s : State) (c : Ctx) (p : QPacket) (l : Lrc) : State :=
  let g : Grid := { uid := s.nextUid, handle := 0, asid := c.asid, lrc := l, depth := 0, origin := .packet p.queue p.index,
                    parent := none, total := lrcTotal l, carry := p.carry }
  { s with grids := s.grids ++ [g], nextUid := s.nextUid + 1 }

/-- A packet starts; a RANGE packet waits for room in the pool. -/
def startPacket (s : State) (c : Ctx) (p : QPacket) : Option State :=
  let go := fun (st : State) => some (setPacket st c.asid { p with started := true, carry := [] })
  match p.type, p.lrc with
  | 1, some l => go (startGrid s c p l)
  | 2, some l =>
    if poolFull c then none
    else
      let r := submitRange s c.asid p.lo p.hi 0 l none none (some (p.queue, p.index))
      go (modGrid r.2 s.nextUid (fun g => { g with carry := p.carry }))
  | _, _ => go s

/-- Packets of one queue in ring order: a finished one completes, and one may start unless it is held back, which holds back all
behind it. -/
def stepPackets (asid q : Nat) : Nat → Nat → State → State
  | 0, _, s => s
  | n + 1, i, s =>
    match getCtx s asid with
    | none => s
    | some c =>
      let l := c.qpkts.filter (fun p => p.queue == q)
      match l[i]? with
      | none => s
      | some p =>
        if p.started then
          let s1 := if p.ended then s else
            if workDone s c p then setPacket s asid { p with ended := true } else s
          match (getCtx s1 asid).bind (fun x => x.qpkts.find? (fun y => y.queue == q && y.index == p.index)) with
          | none => s1
          | some p1 =>
            if !p1.ended then stepPackets asid q n (i + 1) s1
            else
              let s2 := finishPacket s1 c p1
              let left := ((getCtx s2 asid).map (fun x => x.qpkts.filter (fun y => y.queue == q))).getD []
              stepPackets asid q n (if left.length < l.length then i else i + 1) s2
        else if p.ord && i != 0 then s
        else
          match startPacket s c p with
          | none => s
          | some s1 => stepPackets asid q n i s1

/-- Packets of a queue go as far as they can. A grid of a finished packet is listed no longer. -/
def runQueue (s : State) (asid q : Nat) : State :=
  let k := ((getCtx s asid).map (fun c => c.qpkts.length)).getD 0
  stepPackets asid q (2 * k + 2) 0 s

/-- Every queue that has packets in hand. -/
def runQueues (s : State) : State :=
  s.ctxs.foldl (fun st c => ((c.qpkts.map (·.queue)).eraseDups).foldl (fun st q => runQueue st c.asid q) st) s

/-- TEAM_END (R239). -/
def execTeamEnd (team : Nat) (s : State) : Host.Outcome State Fault Refusal :=
  match getTeam s team with
  | none => .fault .notEnabled
  | some t => if teamOver s t then .next (runQueues (endTeam s t)) else .fault .notEnabled

/-! ## Reading (R313, R316) -/

/-- A packet's own rules (R313). -/
def packetOk (n : Nat) : Bool :=
  let f := bitsAt n
  decide (f 7 0 ≤ 3) && f 63 10 == 0 && f 511 320 == 0 && f 127 64 % 128 == 0 && f 191 128 % 8 == 0
    && (f 9 9 == 1 || f 191 128 == 0) && (f 7 0 != 3 || f 127 64 == 0) && (f 7 0 == 2 || (f 287 256 == 0 && f 319 288 == 0))

/-- What the reading of a record or packet comes to: its value, a malformed packet, or a wait for the host. -/
inductive Got (α : Type) where
  | ok (v : α)
  | bad
  | wait
  deriving DecidableEq, Repr

/-- A failing read is malformed; a translation that the host has not given is asked for, and a line of another chip awaited. -/
def gotStop (s : State) (asid : Nat) (e : Miss) : Bool × State :=
  match e with
  | .stop (.ats rq) => (true, if atsKnown s rq then pageRequest s asid rq true false else askAts s rq false)
  | .stop (.trap _) => (false, s)
  | .far => (true, s)

/-- The launch record of a packet with its constants (R172, R213). -/
def packetLrc (s : State) (asid : Nat) (ea : W64) (grid : Bool) : Got Lrc × State :=
  match ctxBlock s asid ea 128 128 with
  | (.error e, s1) => let r := gotStop s1 asid e; (if r.1 then .wait else .bad, r.2)
  | (.ok n, s1) =>
    if (firstOffset (lrcRules grid n)).isSome then (.bad, s1)
    else
      match ctxRead s1 asid (BitVec.ofNat 64 (bitsAt n 223 160)) (4 * lrcNconst n) with
      | (.error e, s2) => let r := gotStop s2 asid e; (if r.1 then .wait else .bad, r.2)
      | (.ok bs, s2) => (.ok (lrcOf n (bytesWords bs)), s2)

/-- Sets carried at bytes that a read with an acquire at `.sy` meets (R259). -/
def metSets (s : State) (key n : Nat) : List LEntry :=
  (s.carry.filter (fun c => keyOverlaps c.key key n && c.scope != 0)).flatMap (fun c => c.set)

/-- A packet copied from its slot, with what its header's read acquires. -/
def copyPacket (s : State) (asid q idx : Nat) (slot : W64) (n : Nat) (carry : List LEntry) : Got QPacket × State :=
  let f := bitsAt n
  let p : QPacket := { queue := q, index := idx, type := f 7 0, ord := f 8 8 == 1, sig := f 9 9 == 1, csig := BitVec.ofNat 64 (f 191 128),
                       cval := BitVec.ofNat 64 (f 255 192), lrca := BitVec.ofNat 64 (f 127 64), lo := f 287 256, hi := f 319 288 }
  let met := match checkSite s asid { ea := slot, size := 8, align := 8, rd := true, wr := false } with
    | (.ok site, _) => metSets s site.key 8
    | _ => []
  let kept := keepSet s asid (addEntries carry met)
  let s := kept.2
  let p1 := { p with carry := kept.1 }
  if p.type == 1 || p.type == 2 then
    match packetLrc s asid p.lrca (p.type == 1) with
    | (.ok l, s1) => (.ok { p1 with lrc := some l }, s1)
    | (.bad, s1) => (.bad, s1)
    | (.wait, s1) => (.wait, s1)
  else (.ok p1, s)

/-- The queue needs no further read. -/
def readOver (s : State) (asid q : Nat) : State :=
  modCtx (hubDone s asid) asid (fun (c : Ctx) => setQueue c { getQueue c q with rung := false })

/-- Packets consumed one by one until TYPE 0 (R316); at most a ring of them. -/
def consume (asid q : Nat) (qcb : W64) : Nat → State → State
  | 0, s => readOver s asid q
  | n + 1, s =>
    match ctxBlock s asid qcb 64 64 with
    | (.error e, s1) => let r := gotStop s1 asid e; if r.1 then r.2 else malformed r.2 asid q 0 0
    | (.ok b, s1) =>
      let idx := bitsAt b 191 128
      if !qcbOk b then malformed s1 asid q idx 0
      else
        let slot := slotAddr b
        match ctxBlock s1 asid slot 64 64 with
        | (.error e, s2) => let r := gotStop s2 asid e; if r.1 then r.2 else malformed r.2 asid q idx 0
        | (.ok v, s2) =>
          if v % 256 == 0 then readOver s2 asid q
          else if !packetOk v then malformed s2 asid q idx slot
          else
            match copyPacket s2 asid q idx slot v (((getCtx s2 asid).map (fun c => (getQueue c q).carry)).getD []) with
            | (.wait, s3) => s3
            | (.bad, s3) => malformed s3 asid q idx slot
            | (.ok p, s3) =>
              match ctxWrite s3 asid slot [0] with
              | (.error _, s4) => malformed s4 asid q idx slot
              | (.ok _, s4) =>
                match ctxRelease s4 asid (qcb + 16) (natBytes 8 (idx + 1)) p.carry with
                | (.error _, s5) => malformed s5 asid q idx slot
                | (.ok _, s5) =>
                  consume asid q qcb n (runQueue (modCtx (hubDone s5 asid) asid (fun (c : Ctx) => { c with qpkts := c.qpkts ++ [p] })) asid q)

/-- A queue that the scheduler may read: rung, not halted, of a context that lives and is not frozen (R315, R347). -/
def readable (s : State) (c : Ctx) (q : Nat) : Bool :=
  c.live && !revoking s c.asid && !frozen s c.asid && !c.qhalt && ownsQueue c q && (getQueue c q).rung

/-- QUEUE_READ (R316, R317). -/
def execQueueRead (asid queue : Nat) (s : State) : Host.Outcome State Fault Refusal :=
  match getCtx s asid with
  | none => .fault .notEnabled
  | some c =>
    if !readable s c queue || hubAsks s asid then .fault .notEnabled
    else
      .next (match qcbAddr s c queue with
        | (.error e, s1) => let r := gotStop s1 asid e; if r.1 then r.2 else malformed r.2 asid queue 0 0
        | (.ok a, s1) => if a == 0 then readOver s1 asid queue else consume asid queue a (2 ^ 20 + 1) s1)

end Sys2Proof.Machine
end

