-- ==== Sys2Proof/Machine/Fetch.lean ====
section
/-! DEFINITION. Instruction fetch (R56, R73 to R75): the words of the instruction at a thread's PC, from the instruction cache or from
memory, the fetch faults, and what decode makes of the words (R76, R78). -/

namespace Sys2Proof.Machine

open Sys2Proof

/-! ## One word -/

/-- Where the word at an address is fetched from, for a context (R74). -/
def fetchSite (s : State) (asid : Nat) (a : W64) : Except Stop Site × State :=
  if isWindow a || !isCanonical a then (.error (.trap { cause := .fetchFault, addr := a }), s)
  else
    match translate s false asid a with
    | (.error k, s1) => (.error (.trap { cause := .fetchFault, addr := a, stage := k, rpl := true }), s1)
    | (.ok x, s1) =>
      if !paExists s1 x.pa || !x.attr.getLsbD 2 then (.error (.trap { cause := .fetchFault, addr := a }), s1)
      else if paHost x.pa && !atsHeld s1 (atsFor s1 asid x.pa) true false then (.error (.ats (atsFor s1 asid x.pa)), s1)
      else
        (.ok { win := false, chip := paChip x.pa, core := paCore x.home, off := 0,
               key := x.pa, attr := x.attr, size := x.size }, s1)

/-- What a fetch comes to. -/
inductive Fetched (α : Type) where
  | ok (v : α)
  | trap (t : Trap)
  | wait (w : Wait)
  /-- host memory to which the device has no access: a replayable fault whose page the host is asked for (R389) -/
  | page (rq : AtsReq) (t : Trap)
  deriving DecidableEq, Repr

/-- The model's name of a code line asked of another chip. -/
def lineCodeTag (chip line : Nat) : Nat := 2 ^ 100 + chip * 2 ^ 70 + line

/-- One word of an instruction whose word 0 is at `pc`. -/
def fetchWord (s : State) (uid tid core asid : Nat) (pc : W64) (i : Nat) : Fetched W32 × State :=
  let a := pc + BitVec.ofNat 64 (4 * i)
  match fetchSite s asid a with
  | (.error (.trap t), s1) => (.trap { t with widx := i }, s1)
  | (.error (.ats rq), s1) => if atsKnown s1 rq then (.page rq { cause := .fetchFault, addr := a, rpl := true, widx := i }, s1) else (.wait (.ats rq), askAts s1 rq false)
  | (.ok site, s1) =>
    if site.chip == chipId s1 then
      if poisoned s1 site.key 4 then (.trap (uncorrectable s1 a site), s1)
      else (.ok (BitVec.ofNat 32 (bytesNat (readKey s1 site.key 4))), chargeLines s1 asid site.key 4)
    else
      let pos := site.key % 128
      match askRemote s1 uid tid core asid a false (lineCodeTag site.chip (site.key / 128)) site 1 (site.key - pos) [] with
      | .ok (bs, s2) =>
        if bs.length < pos + 4 then (.trap (uncorrectable s2 a site), s2)
        else (.ok (BitVec.ofNat 32 (bytesNat ((bs.drop pos).take 4))), s2)
      | .error (.hold s2 w) => (.wait w, s2)
      | .error (.trap s2 t) => (.trap t, s2)
      | .error _ => (.wait .fabric, s1)

/-- Words i to i + n − 1; the first that cannot be had stops. -/
def fetchWords (uid tid core asid : Nat) (pc : W64) : Nat → Nat → List W32 → State → Fetched (List W32) × State
  | _, 0, acc, s => (.ok acc, s)
  | i, n + 1, acc, s =>
    match fetchWord s uid tid core asid pc i with
    | (.ok w, s1) => fetchWords uid tid core asid pc (i + 1) n (acc ++ [w]) s1
    | (.trap t, s1) => (.trap t, s1)
    | (.wait w, s1) => (.wait w, s1)
    | (.page rq t, s1) => (.page rq t, s1)

/-- The instruction's words lie in two 64 KiB granules. -/
def straddles (pc : W64) (n : Nat) : Bool := pc.toNat % 65536 + 4 * n > 65536

/-- All words of the instruction at a PC: word 0, then as many as its LEN gives (R56, R74). -/
def fetchAll (s : State) (uid tid core asid : Nat) (pc : W64) : Fetched (List W32) × State :=
  match fetchWord s uid tid core asid pc 0 with
  | (.trap t, s1) => (.trap { t with noWord := true }, s1)
  | (.wait w, s1) => (.wait w, s1)
  | (.page rq t, s1) => (.page rq { t with noWord := true }, s1)
  | (.ok w0, s1) =>
    let n := wordLen w0
    match fetchWords uid tid core asid pc 1 (n - 1) [w0] { s1 with ir := w0 } with
    | (.trap t, s2) => (.trap { t with str := t.cause == .fetchFault && straddles pc n }, s2)
    | (.page rq t, s2) => (.page rq { t with str := straddles pc n }, s2)
    | r => r

/-! ## The instruction cache (R73, R75) -/

def cachedSlot (s : State) (core asid : Nat) (pc : W64) : Option ISlot :=
  (getCore s core).icache.find? (fun e => e.asid == asid && e.pc == pc)

/-- An instruction enters the cache, which holds 10,240. -/
def fillSlot (s : State) (core asid : Nat) (pc : W64) (ws : List W32) : State :=
  modCore s core (fun c => { c with
    icache := ({ asid := asid, pc := pc, words := ws } :: c.icache.filter (fun e => !(e.asid == asid && e.pc == pc))).take Config.icacheSlots })

/-- The word that memory on this chip now holds; none where it cannot be fetched here. -/
def peekWord (s : State) (asid : Nat) (a : W64) : Option W32 :=
  match fetchSite s asid a with
  | (.ok site, _) =>
    if site.chip == chipId s && !poisoned s site.key 4 then some (BitVec.ofNat 32 (bytesNat (readKey s site.key 4))) else none
  | _ => none

/-- The words of a cached instruction are those that memory holds. -/
def slotFresh (s : State) (asid : Nat) (e : ISlot) : Bool :=
  ((List.range e.words.length).zip e.words).all (fun p => peekWord s asid (e.pc + BitVec.ofNat 64 (4 * p.1)) == some p.2)

/-- Word 0 at a PC as a record of a thread that stands there gives it. -/
def wordAt (s : State) (core asid : Nat) (pc : W64) : W32 :=
  match (cachedSlot s core asid pc).bind (fun e => e.words.head?) with
  | some w => w
  | none => (peekWord s asid pc).getD 0

/-- The words that the core issues at a PC: the cached copy while it is what memory holds, and either copy afterwards (R75). -/
def instrWords (s : State) (uid tid core asid : Nat) (pc : W64) : Fetched (List W32) × State :=
  let load := fun (st : State) => match fetchAll st uid tid core asid pc with
    | (.ok ws, s1) => (.ok ws, fillSlot s1 core asid pc ws)
    | r => r
  match cachedSlot s core asid pc with
  | none => load s
  | some e =>
    let use := fun (st : State) => (Fetched.ok e.words, { st with ir := e.words.headD 0 })
    if slotFresh s asid e then use s
    else if Config.fetchCached s.freeCtr then use (nextFree s)
    else load (nextFree s)

/-! ## Decode -/

/-- The landing check at an instruction that does not decode, which is no `land` (R108). -/
def landingMissed (th : Thread) : Option W64 :=
  match th.landing with
  | some (a, target) => if target == th.pc then some a else none
  | none => none

/-- What stops a thread at words that are no instruction: the landing check, or ILLEGAL_OPC (R78, R108). -/
def illegalTrap (th : Thread) : Trap :=
  match landingMissed th with
  | some a => { cause := .badTarget, addr := a, lnd := true }
  | none => trapOf .illegalOpc

/-- A trap that no instruction in hand raises is taken with the word at the thread's PC. -/
def trapAt (s : State) (uid tid : Nat) (tr : Trap) : State :=
  match getTeam s uid with
  | none => s
  | some t =>
    match getThread t tid with
    | none => s
    | some th => takeTrap { s with ir := wordAt s (teamCore t) t.asid th.pc } uid tid tr

end Sys2Proof.Machine
end

