-- ==== Sys2Proof/Machine/Ckpt.lean ====
section
/-! DEFINITION. What the ports and the checkpoint have begun and a later cycle ends: root invalidations (R393), ATS invalidations
(R389), and the module checkpoint (R409 to R411). -/

namespace Sys2Proof.Machine

open Sys2Proof

/-! ## Invalidations -/

def rootAsid (s : State) : Nat := ((s.ctxs.find? (fun c => c.level == 0)).map (·.asid)).getD 0

/-- S0INVGO reads 0 again once every access of the root's subtree is performed. -/
def s0Sweep (s : State) : State :=
  if !s.host.s0invgo then s
  else
    let ids := subtree s (rootAsid s)
    let s1 := settleAccesses s ids
    if accessesOut s1 ids then s1 else { s1 with host := { s1.host with s0invgo := false } }

/-- Contexts whose requests carry the function and PASID of a request (R351). -/
def requesters (s : State) (rq : AtsReq) : List Nat :=
  (s.ctxs.filter (fun c => requester s c.asid == (rq.fn, rq.pasid))).map (·.asid)

/-- Lines of the pages that an engine has read from host memory of another chip are discarded. -/
def dropHostLines (s : State) (ids : List Nat) (rq : AtsReq) (pages : Nat) : State :=
  let hits := fun (tag : Nat) =>
    let pa := tag % 2 ^ 69 * 128
    paHost pa && decide (rq.page ≤ pa % 2 ^ 46 / 4096 ∧ pa % 2 ^ 46 / 4096 < rq.page + pages)
  let clean := fun (o : Op) => match o with
    | .copy c => Op.copy { c with slices := c.slices.map (fun (sl : Slice) => { sl with lines := sl.lines.filter (fun l => !hits l.2.1) }) }
    | .coll c => Op.coll { c with lines := c.lines.filter (fun l => !hits l.1) }
    | x => x
  { s with cores := s.cores.map (fun c => { c with tokens := c.tokens.map (fun (tk : Token) =>
      if ids.contains tk.asid then { tk with op := clean tk.op } else tk) }) }

/-- An Invalidate Request ends when no access of its requesters is unperformed (R389). -/
def invalidateStep (s : State) (q : AtsReq × Nat) : State :=
  let ids := requesters s q.1
  let s1 := dropHostLines (settleAccesses s ids) ids q.1 q.2
  if accessesOut s1 ids then s1
  else { s1 with host := { s1.host with invs := s1.host.invs.erase q, out := s1.host.out ++ [.invalidateDone q.1] } }

def invalidateSweep (s : State) : State := s.host.invs.foldl invalidateStep s

/-! ## The module checkpoint (R410) -/

/-- Bytes that a scope covers, on this chip: HBM and SRAM, and at SCOPE 0 the expanders. -/
def inScope (scope1 : Bool) (key : Nat) : Bool :=
  isSliceKey key || (bitsAt key 51 51 == 0 && (bitsAt key 46 44 == 0 || (!scope1 && decide (bitsAt key 46 44 ≤ 4))))

/-- Every port or expander of a scope's tier is enabled and trained. -/
def tierUp (s : State) (scope1 : Bool) : Bool :=
  (if scope1 then cfgBits s 163 160 == 0xF else cfgBits s 169 164 == 0x3F) && !s.care.lostTier.any (fun p => p.1 == scope1)

/-- The tier of a scope is there and large enough. -/
def tierThere (s : State) (scope1 : Bool) : Bool :=
  tierUp s scope1 && decide (s.care.ckBase.toNat < 2 ^ 44) && Config.tierFits scope1 s.care.ckBase

def endCheckpoint (s : State) (st : Nat) (cause : BitVec 8) : State :=
  { s with care := { s.care with ckGo := false, ckSt := st, ckCause := cause } }

/-- A command that has begun is not complete. -/
def commandsLeft (s : State) : Bool := s.teams.any (fun t => t.threads.any (fun th => th.st == .waiting .command || th.st == .waiting .turn))

/-- Step 1 is complete: every context is frozen and has stopped. -/
def moduleStopped (s : State) : Bool := !commandsLeft s && allStopped s (s.ctxs.map (·.asid))

/-- The 256-byte header: MAGIC, the scope, the length and a digest of the tree image, in the order in which R410 lists them (log 24). -/
def checkpointHeader (scope1 : Bool) (len : Nat) (image : List Byte) : List Byte :=
  natBytes 4 0x50434B4D ++ natBytes 4 scope1.toNat ++ natBytes 8 len ++ digest image ++ List.replicate 176 0

/-- The length that a checkpoint's header gives. -/
def headerLen (c : Checkpoint) : Nat := bytesNat ((c.header.drop 8).take 8)

/-- A header matches its scope and its tree image. -/
def headerHolds (c : Checkpoint) : Bool :=
  c.header == checkpointHeader c.scope (headerLen c) c.image

/-- The image at a base of a scope's tier goes: a save that does not come to its header leaves none (R411). -/
def eraseImage (s : State) (scope1 : Bool) (base : W64) : State :=
  { s with care := { s.care with checkpoints := s.care.checkpoints.filter (fun c => !(c.scope == scope1 && c.base == base)) } }

/-- The part of an image of `len` bytes that each port of its tier holds, in units of 4 KiB. -/
def portShare (scope1 : Bool) (len : Nat) : Nat :=
  let ports := if scope1 then 4 else 6
  (len / 4096 + ports - 1) / ports * 4096

/-- A checkpoint lies, in part, where another one of `len` bytes is written. -/
def overlaid (c : Checkpoint) (scope1 : Bool) (base : W64) (len : Nat) : Bool :=
  c.scope == scope1 && decide (c.base.toNat < base.toNat + max 4096 (portShare scope1 len)
    ∧ base.toNat < c.base.toNat + max 4096 (portShare scope1 (headerLen c)))

/-- Steps 2 to 4 of a save. -/
def writeCheckpoint (s : State) : State :=
  let scope1 := s.care.ckScope
  let units := Config.checkpointUnits s.freeCtr % 2 ^ 48
  let tree := snapshot s (s.ctxs.map (·.asid))
  let image := imageFile s 0 tree
  let ck : Checkpoint :=
    { scope := scope1, base := s.care.ckAt, header := checkpointHeader scope1 (4096 * units) image, image := image, tree := tree,
      mem := s.mem.filter (fun c => inScope scope1 c.1), poison := s.poison.filter (fun l => inScope scope1 (l * 128)),
      owners := s.owners.filter (fun p => inScope scope1 (p.1 * 128)), mirrors := s.mirrors }
  let rest := s.care.checkpoints.filter (fun c => !overlaid c scope1 s.care.ckAt (4096 * units))
  endCheckpoint (nextFree { s with care := { s.care with
    checkpoints := ck :: rest, ckDone := units } }) 2 0

def findCheckpoint (s : State) : Option Checkpoint :=
  s.care.checkpoints.find? (fun c => c.scope == s.care.ckScope && c.base == s.care.ckAt && headerHolds c)

/-- The canonical union of two memories whose keys differ. -/
def memUnion (a b : Memory) : Memory := memPut a b

/-- A core as a restored tree finds it: nothing on its way, the tokens of the image. -/
def restoredCore (c : CoreSt) (toks : List (Nat × Token)) : CoreSt :=
  { id := c.id, gens := c.gens, retic := c.retic, streams := c.streams, tokens := (toks.filter (fun p => p.1 == c.id)).map (·.2) }

/-- Memories and the tree written back; every context is left frozen. -/
def readCheckpoint (s : State) (ck : Checkpoint) : State :=
  let tree := ck.tree
  let named := (s.cores.map (·.id)) ++ (tree.tokens.map (·.1)).filter (fun k => !(s.cores.any (fun c => c.id == k)))
  let root := fun (c : Ctx) => if c.level == 0 && !c.freezes.contains moduleIssuer then { c with freezes := c.freezes ++ [moduleIssuer] } else c
  let top := (tree.teams.map (·.uid) ++ tree.grids.map (·.uid)).foldl max 0
  let live := tree.ctxs.map (fun (c : Ctx) => (c.asid, (tagEntry s c.asid).1, true))
  let dead := (s.fab.tags.filter (fun t => !live.any (fun x => x.1 == t.1))).map (fun t => (t.1, t.2.1, false))
  { s with
    mem := memUnion (s.mem.filter (fun c => !inScope ck.scope c.1)) ck.mem
    poison := ck.poison ++ s.poison.filter (fun l => !inScope ck.scope (l * 128))
    owners := ck.owners ++ s.owners.filter (fun p => !inScope ck.scope (p.1 * 128))
    mirrors := ck.mirrors
    ctxs := tree.ctxs.map (fun c => { root c with deficit := 0, starve := 0 })
    teams := tree.teams
    grids := tree.grids
    cores := named.map (fun k => restoredCore (getCore s k) tree.tokens)
    coll := []
    granules := []
    carry := []
    asidGen := (s.ctxs.map (·.asid) ++ tree.ctxs.map (·.asid)).eraseDups.foldl (fun l a => putKey l a ((generation s a + 1) % 2 ^ 24)) s.asidGen
    fab := { s.fab with tags := live ++ dead, have_ := [], haveWait := [], prisms := [], local_ := [], hub := [] }
    sched := { s.sched with ring := [] }
    nextUid := max s.nextUid (top + 1)
    issue := [] }

/-- A checkpoint operation that runs goes on: once every context has stopped, its bytes are written or read. -/
def checkpointStep (s : State) : State :=
  if s.care.ckSt != 1 || !moduleStopped s then s
  else if s.care.ckOp == 0 then writeCheckpoint s
  else
    match findCheckpoint s with
    | none => endCheckpoint s 3 2
    | some ck =>
      let s1 := readCheckpoint s ck
      endCheckpoint (nextFree { s1 with care := { s1.care with ckDone := Config.checkpointUnits s1.freeCtr % 2 ^ 48 } }) 2 0

/-- All of these, at the end of a cycle. -/
def careSweep (s : State) : State := checkpointStep (invalidateSweep (s0Sweep s))

end Sys2Proof.Machine
end

