-- ==== Sys2Proof/Machine/Control.lean ====
section
/-! DEFINITION. Control transfers, convergence, retirement, yield, pause, nop and traps: opcodes 0x50 to 0x5F (R107 to R119). -/

namespace Sys2Proof.Machine

open Sys2Proof

/-! ## Targets and the return stack -/

/-- The PC-relative target of `bra` and `call` (R107). -/
def relTarget (o : Long) (pc : W64) : W64 :=
  match o.tail with
  | .bi i => pc + 4 * i.signExtend 64
  | _ => pc + o.off

def badTarget (a : W64) : Trap := { cause := .badTarget, addr := a }

/-- Hardware entries of a return stack (R110). -/
def stackHw : Nat := 8

/-- A push (R110): the oldest hardware entry moves to the spill area; none when both are full. -/
def pushReturn (calld : Nat) (th : Thread) (a : W64) : Option Thread :=
  if th.stack.length < stackHw then some { th with stack := a :: th.stack }
  else if th.spill.length < calld then
    some { th with stack := a :: th.stack.take (stackHw - 1), spill := th.stack.drop (stackHw - 1) ++ th.spill }
  else none

/-- A pop (R110); an empty hardware part is refilled from the spill area. -/
def popReturn (th : Thread) : Option (W64 × Thread) :=
  match th.stack, th.spill with
  | a :: r, _ => some (a, { th with stack := r })
  | [], a :: r => some (a, { th with spill := r })
  | [], [] => none

/-- A call's push and transfer. -/
def callTo (i : Instr) (s : State) (uid tid : Nat) (c : Cur) (target : W64) (f : Thread → Thread) : Act :=
  match (getTeam s uid).bind (fun t => getThread t tid) with
  | none => .left s
  | some th =>
    match pushReturn c.team.calld th (nextPc i c.th) with
    | none => .trap s { cause := .stackOverflow, aux := c.team.calld }
    | some th1 => .jump (modThread s uid tid (fun _ => f th1)) target

/-- Step 3 of R108: the landing flag, where sr.ctl.LANDCHK asks for it. -/
def setLanding (c : Cur) (target : W64) (th : Thread) : Thread :=
  if landChk c.team c.th then { th with landing := some (c.th.pc, target) } else th

/-! ## Instructions -/

/-- `bra` (R107). -/
def execBra (o : Long) (s : State) : Host.Outcome State Fault Refusal :=
  run (.bra o) {} (fun s _ _ c =>
    let a := relTarget o c.th.pc
    if isCanonical a then .jump s a else .trap s (badTarget a)) s

/-- `call` (R107). -/
def execCall (o : Long) (s : State) : Host.Outcome State Fault Refusal :=
  run (.call o) {} (fun s uid tid c =>
    let a := relTarget o c.th.pc
    if isCanonical a then callTo (.call o) s uid tid c a id else .trap s (badTarget a)) s

/-- `brx` (R108). -/
def execBrx (o : Long) (s : State) : Host.Outcome State Fault Refusal :=
  run (.brx o) (sigR (useRaw 2 (srcA o))) (fun s uid tid c =>
    let a := opd64 c (srcA o)
    if isCanonical a && a.toNat % 4 == 0 then .jump (modThread s uid tid (setLanding c a)) a
    else .trap s (badTarget a)) s

/-- `callx` (R108). -/
def execCallx (o : Long) (s : State) : Host.Outcome State Fault Refusal :=
  run (.callx o) (sigR (useRaw 2 (srcA o))) (fun s uid tid c =>
    let a := opd64 c (srcA o)
    if isCanonical a && a.toNat % 4 == 0 then callTo (.callx o) s uid tid c a (setLanding c a)
    else .trap s (badTarget a)) s

/-- `land` (R109). -/
def execLand (o : Short) (s : State) : Host.Outcome State Fault Refusal :=
  run (.land o) {} (fun s uid tid _ => .done (modThread s uid tid (fun th => { th with landing := none }))) s

/-- `ret` (R110). -/
def execRet (o : Short) (s : State) : Host.Outcome State Fault Refusal :=
  run (.ret o) {} (fun s uid tid _ =>
    match ((getTeam s uid).bind (fun t => getThread t tid)).bind popReturn with
    | none => .trap s { cause := .badTarget }
    | some (a, th) => .jump (modThread s uid tid (fun _ => th)) a) s

/-- The case values of `switch` (R111). -/
def switchCase (o : Long) (k : Nat) : Int :=
  match o.form with
  | .l => toSigned 8 (o.lit.toNat / 2 ^ (8 * k))
  | _ => toSigned 16 o.imm.toNat + k

/-- The arm of a value: 0, or one more than the first equal case. -/
def switchArm (o : Long) (x : Int) : Nat :=
  let n := o.modb.toNat % 8 + 1
  match (List.range n).find? (fun k => switchCase o k == x) with
  | some k => k + 1
  | none => 0

/-- `switch` (R111). -/
def execSwitch (o : Long) (s : State) : Host.Outcome State Fault Refusal :=
  run (.switch o) (sigR (useTyped 0x00 (srcA o))) (fun s _ _ c =>
    let words := 2 ^ (o.modb.toNat / 8 + 1)
    .jump s (nextPc (.switch o) c.th + BitVec.ofNat 64 (4 * words * switchArm o (opdInt c 0x00 (srcA o))))) s

/-- Live threads of a gang. -/
def gangLive (t : Team) (g : Nat) : List (Nat × Thread) :=
  ((List.range t.threads.length).zip t.threads).filter (fun p => p.2.gang == g && liveOut p.2)

/-- The wait of a `reconv` can complete (R112). -/
def reconvReady (t : Team) (tid : Nat) (th : Thread) : Bool :=
  (gangLive t th.gang).all (fun p => p.1 == tid || (p.2.st == .waiting .reconv && p.2.pc == th.pc))

/-- `reconv` (R112). -/
def execReconv (o : Short) (s : State) : Host.Outcome State Fault Refusal :=
  run (.reconv o) {} (fun s uid tid c =>
    match getTeam s uid with
    | none => .left s
    | some t =>
      if !reconvReady t tid c.th then .hold s .reconv
      else
        let mem := gangLive t c.th.gang
        let s1 := mem.foldl (fun st p => retireAt st uid p.1 (.reconv o) {} true p.2 (nextPc (.reconv o) p.2)) s
        .left (modTeam s1 uid (fun t => { t with
          nextCohort := t.nextCohort + 1,
          threads := t.threads.map (fun x =>
            if x.gang == c.th.gang && liveOut x then { x with cohort := t.nextCohort, path := [] } else x) }))) s

/-- A thread's end at `exit` or `tail` (R113): it parks there, and the gang may retire. -/
def exitThread (s : State) (uid tid : Nat) (tail : Bool) : State :=
  let s1 := modThread s uid tid (fun th =>
    { th with st := .exited tail, issued := th.issued + 1, waited := 0, stall := 0, drain := false, begun := none, released := false,
              since := s.cycle })
  match (getTeam s1 uid).bind (fun t => getThread t tid) with
  | none => s1
  | some th => tryRetireGang (tryAll s1 uid) uid th.gang

/-- `exit` (R113). -/
def execExit (o : Short) (s : State) : Host.Outcome State Fault Refusal :=
  run (.exit o) {} (fun s uid tid _ => .left (exitThread s uid tid false)) s

/-- `tail` (R113). -/
def execTail (o : Short) (s : State) : Host.Outcome State Fault Refusal :=
  run (.tail o) {} (fun s uid tid _ => .left (exitThread s uid tid true)) s

/-- sr.prq.PRQ as an instruction observes it: the state at the end of the previous cycle (R26). -/
def prqSeen (s : State) (t : Team) : Bool := (getCore s (teamCore t)).prqSeen.contains t.asid

/-- A save that writes only tagged registers: restore gives the others 0 and NONE (R114). -/
def yieldRegs (th : Thread) : Thread :=
  { th with regs := th.regs.map (fun r => if r.tag == .none then noReg else r) }

/-- `yield` (R114). -/
def execYield (o : Short) (s : State) : Host.Outcome State Fault Refusal :=
  run (.yield o) {} (fun s uid tid c =>
    if !prqSeen s c.team then .done s
    else .done (modThread s uid tid (fun th => { yieldRegs (settled th) with saved := true }))) s

/-- `pause` (R115): the end of its own cycle takes one off, so that the 64 cycles after it remain. -/
def execPause (o : Short) (s : State) : Host.Outcome State Fault Refusal :=
  run (.pause o) {} (fun s uid tid _ => .done (modThread s uid tid (fun th => { th with pauseLeft := 65 }))) s

/-- `nop` (R116). -/
def execNopA (o : Short) (s : State) : Host.Outcome State Fault Refusal := run (.nopA o) {} (fun s _ _ _ => .done s) s
def execNop (o : Long) (s : State) : Host.Outcome State Fault Refusal := run (.nop o) {} (fun s _ _ _ => .done s) s

/-- `trap` (R117). -/
def execTrap (o : Short) (s : State) : Host.Outcome State Fault Refusal :=
  run (.trap o) {} (fun s _ _ _ => .trap s { cause := .trapInstr, imm8 := o.s.toNat }) s

/-- `bkpt` (R117). -/
def execBkpt (o : Short) (s : State) : Host.Outcome State Fault Refusal :=
  run (.bkpt o) {} (fun s _ _ _ => .trap s { cause := .breakpoint, imm8 := o.s.toNat }) s

/-- `hret` (R119). -/
def execHret (o : Short) (s : State) : Host.Outcome State Fault Refusal :=
  run (.hret o) {} (fun s uid tid c =>
    match returnHandler s uid tid c with
    | .jump s1 pc =>
      let again := frameBits s c.team tid 671 664 == 0 && byReticle c.th.frc
      .left (modThread (retireAt s1 uid tid (.hret o) {} true c.th pc) uid tid (fun th => { th with pass := again }))
    | x => x) s

end Sys2Proof.Machine
end

