-- ==== Sys2Proof/Machine/Cycle.lean ====
section
/-! DEFINITION. What a cycle brings: waits that end (R171, R233), ages and clocks, energy and core time (R320, R412 to R415), everything
that goes on by itself (R244 to R249, R281, R301, R302, R316, R349), and the events of time (R69, R156, R242, R257, R349). -/

namespace Sys2Proof.Machine

open Sys2Proof

/-! ## Waits (R171) -/

/-- The sync word on this chip at a packet address still has the generation. -/
def syncStill (s : State) (a : Nat) (gen : W32) : Bool :=
  a / 2 ^ 35 % 16 == chipId s
    && (syncOf (bytesNat (readKey s (sliceKey (a / 2 ^ 28 % 128) (a % 2 ^ 28)) 16))).gen == gen.toNat

/-- A thread has a request to another chip out. -/
def asksOut (s : State) (core uid tid : Nat) : Bool :=
  (getCore s core).outst.any (fun o => match o.asker with
    | .thread u i _ => u == uid && i == tid
    | _ => false)

/-- The wait of a thread can end: its instruction executes again. -/
def waitOver (s : State) (t : Team) (tid : Nat) (th : Thread) (w : Wait) : Bool :=
  let core := teamCore t
  match w with
  | .gang => (rendezvous t tid th).isSome
  | .reconv => reconvReady t tid th
  | .bar nb ph => th.freed || (getBar t nb).ph != ph
  | .swwait a gen => !syncStill s a gen
  | .room => tokenRoom s t
  | .tkwait h => ((findToken s t.asid h).map (fun p => terminal p.2)).getD true
  | .join what h => joinReady s t what h
  | .hqpop => (popNext s t.asid t.uid).isSome
  | .fabric => !asksOut s core t.uid tid
  | .swfar => !asksOut s core t.uid tid
  | .release => !th.rel.any (fun r => !r.own || relLive s core r)
  | .path peer => pathTo s core peer || pathLost th
  | .tile => (List.range t.tiles.length).any (fun i => !tileBusy s t i)
  | .ats rq => atsKnown s rq
  | .command => true
  | .turn => true

/-- A thread of a command goes on in a frozen context too (R225). -/
def inHand (th : Thread) : Bool := th.st == .waiting .command || th.st == .waiting .turn

/-- The thread may issue (R234, R347): its team is on a core, its context is not frozen, and it is READY with its stall count
elapsed, or its wait can end. -/
def mayIssue (s : State) (t : Team) (tid : Nat) (th : Thread) : Bool :=
  teamResident t && !th.saved && (!frozen s t.asid || inHand th) && !revoking s t.asid &&
  match th.st with
  | .ready => th.stall == 0 && !(th.drain && !th.pending.isEmpty)
  | .waiting w => waitOver s t tid th w
  | _ => false

/-! ## Clocks and ages -/

/-- A wait that another thread, an engine or a device ends, and whose end makes the thread READY (R171, R233); a thread in a command
stays in it. -/
def readyAgain (s : State) (t : Team) (tid : Nat) (th : Thread) : Bool :=
  match th.st with
  | .waiting w => !inHand th && waitOver s t tid th w
  | _ => false

/-- A thread's counters after a cycle (R115, R234, R235, R242): one whose wait is over is READY and ages. -/
def tickThread (s : State) (t : Team) (tid : Nat) (th : Thread) : Thread :=
  if th.saved then th
  else
    let p := th.pauseLeft - 1
    match th.st with
    | .ready =>
      if th.drain && !th.pending.isEmpty then { th with pauseLeft := p }
      else if th.stall > 0 then { th with stall := th.stall - 1, pauseLeft := p, drain := false }
      else { th with age := th.age + 1, pauseLeft := p, drain := false }
    | .waiting _ =>
      if readyAgain s t tid th then
        { th with age := th.age + 1, released := true, pauseLeft := p, waited := if th.st == .waiting .swfar then th.waited + 1 else th.waited }
      else { th with waited := th.waited + 1, age := 0, released := false, pauseLeft := p }
    | _ => { th with pauseLeft := p }

def tickTeam (s : State) (t : Team) : Team :=
  if teamResident t then
    { t with threads := ((List.range t.threads.length).zip t.threads).map (fun p => tickThread s t p.1 p.2) }
  else t

/-- A token ages while it runs or could start (R288); a write-combining entry ages (R156). -/
def tickCore (s : State) (c : CoreSt) : CoreSt :=
  { c with
    tokens := c.tokens.map (fun (tk : Token) =>
      if tk.st == .running || ableToStart s c.id tk then { tk with age := tk.age + 1 } else tk)
    wcb := c.wcb.map (fun (e : WcbEntry) => { e with age := e.age + 1 }) }

/-- The cycle and nanosecond counters (R229): a cycle lasts 1,000 / fclk ns. In each millisecond a port may note a dropped packet once
(R392). -/
def tickTime (s : State) : State :=
  let f := max 1 s.care.fclk
  let t := s.ns + (s.nsRest + 1000) / f
  { s with cycle := s.cycle + 1, ns := t, nsRest := (s.nsRest + 1000) % f,
           fab := if t / 1000000 == s.ns / 1000000 then s.fab else { s.fab with dropNoted := [] } }

/-! ## Core time and static energy (R320, R415) -/

/-- Thread slots that a team holds: those of its gangs that have not retired. -/
def slotsOf (t : Team) : Nat := ((t.gangs.filter (fun g => !g.done)).map (·.width)).sum

/-- Thread slots in use: core, context, slots. -/
def slotUse (s : State) : List (Nat × Nat × Nat) :=
  (s.teams.filter teamResident).foldl (fun l t =>
    let k := teamCore t
    if l.any (fun x => x.1 == k && x.2.1 == t.asid) then
      l.map (fun x => if x.1 == k && x.2.1 == t.asid then (x.1, x.2.1, x.2.2 + slotsOf t) else x)
    else if slotsOf t == 0 then l
    else (k, t.asid, slotsOf t) :: l) []

/-- Occupied slots of a core. -/
def coreSlots (l : List (Nat × Nat × Nat)) (core : Nat) : Nat := ((l.filter (fun x => x.1 == core)).map (fun x => x.2.2)).sum

/-- SW of the configuration record. -/
def staticWeight (s : State) : Nat := cfgBits s 319 304

/-- The charges of one cycle: each context's share of its cores, the rest of SW to the root, and what the cycle's events caused. -/
def chargeCycle (s : State) : State :=
  let l := slotUse s
  let sw := staticWeight s
  let one := fun (x : Nat × Nat × Nat) => sw * x.2.2 / 8192
  let rest := Config.numCores * sw - (l.map one).sum
  { s with ctxs := s.ctxs.map (fun (c : Ctx) =>
      let mine := l.filter (fun x => x.2.1 == c.asid)
      let time := (mine.map (fun x => 256 * x.2.2 / coreSlots l x.1)).sum
      let c1 := addEnergy c (c.due + (mine.map one).sum + (if c.level == 0 then rest else 0))
      { c1 with due := 0, charged := c.charged + time, deficit := clampDeficit (c.deficit - (time : Int)) }) }

/-- Contexts that wait with D > 0 for a team to pass the check (R321). -/
def tickStarve (s : State) : State :=
  { s with ctxs := s.ctxs.map (fun (c : Ctx) =>
      { c with starve := if decide (c.deficit > 0) && ctxActive s c then c.starve + 1 else 0 }) }

/-! ## What goes on by itself -/

def eachToken (s : State) (f : State → Nat → Token → State) : State :=
  (allTokens s).foldl (fun st p => match getToken st p.1 p.2.slot with
    | some tk => f st p.1 tk
    | none => st) s

/-- A paused operation is marked; one that goes on again sends what was left unacknowledged (R301, R302). -/
def pauseStep (s : State) (core : Nat) (tk : Token) : State :=
  if tk.st != .running || classOfOp tk.op == .matrix then s
  else
    let held := tokenHeld s core tk
    if held && !tk.paused && stopped s core tk then setToken s core { tk with paused := true }
    else if !held && tk.paused then
      let s1 := setToken s core { tk with paused := false }
      match collOf tk with
      | some c => if c.kind == 6 then shuffleResend s1 core tk c else s1
      | none => s1
    else s

/-- An operation at a boundary: it splits, is cancelled, or goes on asking for its flips. -/
def boundaryStep (s : State) (core : Nat) (tk : Token) : State :=
  if tk.flipping then askFlips s core tk
  else if classOfOp tk.op == .matrix then splitPoint s core tk
  else if tk.st == .running && !inFlight s core tk.slot then cancelBoundary s core tk.slot
  else s

/-- Tokens: failed dependencies, operations at a boundary, pauses. -/
def tokenSweep (s : State) : State :=
  eachToken (eachToken (eachToken s (fun st core tk => failDeps st core tk.slot)) boundaryStep) pauseStep

/-- What waited behind a release part that the thread has left behind takes place: a store, or an acquire part (R146). -/
def finishRelease (s : State) (t : Team) (tid : Nat) (th : Thread) (r : Release) : State :=
  let s1 := modThread s t.uid tid (fun x => { x with rel := none })
  let s2 := match r.acquire with
    | some sc => acquirePart s1 (teamCore t) t.asid sc
    | none => s1
  match r.store with
  | none => s2
  | some b =>
    match writeSite (flipRead s2 t.uid tid t.asid b.ea b.site b.scope) t.uid tid { team := t, th := th } b.ea b.site b.data (storeHow b.order) b.carry with
    | .ok s3 => s3
    | .error (.hold s3 _) => modThread s3 t.uid tid (fun x => { x with rel := some { r with acquire := none } })
    | .error _ => s2

/-- A release part goes one step further: entries drain where there is room, one whose acknowledgements have come ends, and one that is
given up ends its instruction (R398). -/
def releaseStep (s : State) (t : Team) (tid : Nat) (th : Thread) (r : Release) : State :=
  let core := teamCore t
  if r.lost then
    if canRun th then
      trapAt (nextFree (modThread s t.uid tid (fun x => { x with rel := none, pc := r.pc }))) t.uid tid
        { cause := .dataFault, addr := Config.lostAddr s.freeCtr, aux := 1 }
    else s
  else
    let s1 := ((getCore s core).wcb.filter (fun e => r.ids.contains e.id)).foldl (fun st e => drainEntry st core e) s
    if r.own || relLive s1 core r then s1 else finishRelease s1 t tid th r

def releaseSweep (s : State) : State :=
  s.teams.foldl (fun st t => (List.range t.threads.length).foldl (fun st tid =>
    match (getTeam st t.uid).bind (fun x => (getThread x tid).map (fun th => (x, th))) with
    | some (x, th) => if th.st == .gone then st else (th.rel.map (releaseStep st x tid th)).getD st
    | none => st) st) s

/-- Gangs whose threads have all departed and whose stores are performed retire. -/
def retireSweep (s : State) : State :=
  s.teams.foldl (fun st t => (List.range t.gangs.length).foldl (fun st g => tryRetireGang st t.uid g) st) s

/-- Teams that end do so before a save is decided (R239, R249). -/
def endSweep (s : State) : State :=
  s.teams.foldl (fun st t => match getTeam st t.uid with
    | some x => if teamOver st x then endTeam st x else st
    | none => st) s

/-- Pre-emptions and evictions go on. -/
def saveSweep (s : State) : State :=
  let s1 := ((s.cores.filter (fun c => !c.prq.isEmpty)).map (·.id)).foldl preemptStep s
  ((s1.teams.filter (fun t => t.evicted && teamResident t)).map (fun t => (teamCore t, t.uid))).foldl (fun st p => evictStep st p.1 p.2) s1

/-- Range dispatches that are over. -/
def rangeSweep (s : State) : State :=
  (s.grids.filter (fun g => match g.origin with
    | .range _ => true
    | _ => false)).foldl closeGrid s

/-- Launch records that have spilled are written to the overflow area, in a form that the spec leaves open (R326). -/
def spillOne (s : State) (c : Ctx) (g : Grid) : State :=
  if g.spilt || c.cxr.lovn == 0 then s
  else
    let s1 := setGrid s { g with spilt := true }
    (ctxWrite (nextFree s1) (recordSpace c) (c.cxr.lova + BitVec.ofNat 64 (128 * (g.uid % c.cxr.lovn)))
      ((Config.imageBytes s1.freeCtr).take 128)).2

def spillSweep (s : State) : State :=
  s.ctxs.foldl (fun st c => (c.lovQ.filterMap (getGrid st)).foldl (fun st g => spillOne st c g) st) s

/-- sr.prq as the next cycle shows it (R26). -/
def notePrq (s : State) : State :=
  { s with cores := s.cores.map (fun (c : CoreSt) => { c with prqSeen := c.prq.map (·.asid) }) }

/-- The leaf controllers have taken what they were sent, and answered: the permits are back (R318). -/
def returnPermits (s : State) : State := { s with sched := { s.sched with links := [] } }

/-- CYCLE_CHARGE (R320, R412, R415): the end of a cycle. -/
def cycleEnd (s : State) : State :=
  let s1 := chargeCycle s
  let s2 := { s1 with cores := s1.cores.map (tickCore s1) }
  let s3 := runQueues (rangeSweep (spillSweep (endSweep (retireSweep (releaseSweep (haveSweep (cancelAllSplits (tokenSweep s2))))))))
  let s4 := advanceRevokes (saveSweep { s3 with teams := s3.teams.map (tickTeam s3) })
  tickTime (notePrq (tickStarve (syncRing (linkSweep (careSweep s4)))))

def execCycleCharge (s : State) : Host.Outcome State Fault Refusal := .next { returnPermits (cycleEnd s) with part := 0 }

/-! ## Events of time -/

/-- PENDING_WRITE_COMPLETION (R69, R72): what the thread's variable-latency instructions have written is there. -/
def execPendingWriteCompletion (team tid : Nat) (s : State) : Host.Outcome State Fault Refusal :=
  match (getTeam s team).bind (fun t => getThread t tid) with
  | none => .fault .notEnabled
  | some th =>
    if th.pending.isEmpty && th.st != .stalled then .fault .notEnabled
    else
      .next (modThread s team tid (fun x =>
        { x with pending := [], drain := false, st := if x.st == .stalled then .ready else x.st, age := 0 }))

/-- ACCESS_PERFORMED (R257): a held store takes place at its home, after those held before it that touch its bytes. -/
def execAccessPerformed (core idx : Nat) (s : State) : Host.Outcome State Fault Refusal :=
  let c := getCore s core
  match c.held[idx]? with
  | none => .fault .notEnabled
  | some h =>
    if (c.held.take idx).any (fun e => e.data.any (fun p => h.data.any (fun q => p.1 == q.1))) then .fault .notEnabled
    else .next (performStore (setCore s { c with held := c.held.eraseIdx idx }) h)

/-- A plain load that has yet to issue may already have read a line of a MIR page (R149): the line as it stands is kept, of a page that
is left open. -/
def earlyRead (team tid : Nat) (s : State) : Host.Outcome State Fault Refusal :=
  match (getTeam s team).bind (fun t => (getThread t tid).map (fun th => (t, th))) with
  | none => .fault .notEnabled
  | some (t, th) =>
    let a := Config.pick s.freeCtr % 2 ^ 57
    match walk s false (chainOf s t.asid) (a - a % 128) with
    | .error _ => .fault .notEnabled
    | .ok x =>
      if th.st != .ready || !x.attr.getLsbD 4 || x.attr.getLsbD 3 || !x.attr.getLsbD 0 || !paExists s x.pa || paChip x.pa != chipId s
          || poisoned s x.pa 128 || th.rel.isSome then .fault .notEnabled
      else
        let l : NearLine := { asid := t.asid, line := mirLine s x.pa, data := readKey s x.pa 128,
                              carry := s.carry.filter (fun c => keyOverlaps c.key x.pa 128) }
        .next (modThread (nextFree s) team tid (fun y => { y with early := l :: y.early.filter (fun e => e.line != l.line) }))

/-- A write of a CXL peer to external pool memory (R277): what it writes and where is left open. A line that a home cache holds keeps
the device's view until it leaves the cache. -/
def peerWrite (s : State) : Host.Outcome State Fault Refusal :=
  let w := Config.peerWrite s.freeCtr
  let a := w.1
  let n := w.2.length
  let s1 := nextFree s
  if n == 0 || a % 128 + n > 128 || !isPoolKey a || paChip a != chipId s || !paExists s a then .fault .notEnabled
  else
    let patch := fun (bs : List Byte) => (keyed (a % 128) w.2).foldl (fun d p => d.set p.1 p.2) bs
    match s.pool.find? (fun l => l.line == a / 128) with
    | some l => .next { s1 with pool := replaceIf (fun x => x.line == l.line) { l with data := patch l.data } s.pool }
    | none =>
      if Config.poolHeld s.freeCtr then
        .next { s1 with pool := { line := a / 128, data := patch (readKey s (a / 128 * 128) 128) } :: s.pool }
      else .next (writeKey s1 a w.2)

/-- A home cache evicts a line of pool memory: a dirty line is written back, a clean one leaves the pool's bytes. -/
def poolEvict (n : Nat) (s : State) : Host.Outcome State Fault Refusal :=
  match s.pool[n]? with
  | none => .fault .notEnabled
  | some l =>
    let s1 := { s with pool := s.pool.eraseIdx n }
    .next (if l.dirty then s1 else writeKey s1 (l.line * 128) l.data)

/-- The ageing limit of a write-combining entry (R156). -/
def wcbLimit (s : State) (e : WcbEntry) : Nat := ((getCtx s e.asid).map (fun c => c.cxr.wcbage)).getD 0

/-- WCB_AGEING_DRAIN (R156). -/
def execWcbAgeingDrain (core entry : Nat) (s : State) : Host.Outcome State Fault Refusal :=
  match (getCore s core).wcb[entry]? with
  | none => .fault .notEnabled
  | some e => if e.age ≥ wcbLimit s e then .next (drainEntry s core e) else .fault .notEnabled

/-- The wait that the barrier watchdog counts: AUX of R385. -/
def watchedWait (w : Wait) : Option Nat :=
  match w with
  | .bar nb _ => some nb
  | .swwait _ _ => some 16
  | .swfar => some 16
  | .reconv => some 32
  | _ => none

/-- A thread's wait has lasted sr.bwd cycles (R178, R242). -/
def stallDue (s : State) (t : Team) (tid : Nat) (th : Thread) : Option Nat :=
  match th.st with
  | .waiting w =>
    if teamResident t && !th.saved && t.bwd != 0 && decide (th.waited ≥ t.bwd.toNat) && !waitOver s t tid th w then watchedWait w else none
  | _ => none

/-- BARRIER_STALL (R242). -/
def execBarrierStall (team tid : Nat) (s : State) : Host.Outcome State Fault Refusal :=
  match getTeam s team with
  | none => .fault .notEnabled
  | some t =>
    match getThread t tid with
    | none => .fault .notEnabled
    | some th =>
      match stallDue s t tid th with
      | none => .fault .notEnabled
      | some k => .next (trapAt s team tid { cause := .barrierStall, aux := k + t.bwd.toNat * 2 ^ 32 })

/-- The drain deadline of a revoke: the child's PDL (R349). -/
def drainDue (s : State) (c : Ctx) : Bool :=
  decide (s.cycle ≥ c.revokeAt + c.cxr.pdl.toNat)
    && (allTokens s).any (fun p => (subtree s c.asid).contains p.2.asid && !terminal p.2)

/-- REVOKE_DRAIN_DEADLINE (R349). -/
def execRevokeDrainDeadline (asid : Nat) (s : State) : Host.Outcome State Fault Refusal :=
  match (revokeTops s).find? (fun c => c.asid == asid) with
  | none => .fault .notEnabled
  | some c => if drainDue s c then .next (advanceRevoke s c true) else .fault .notEnabled

end Sys2Proof.Machine
end

