-- ==== Sys2Proof/Machine/Fabric.lean ====
section
/-! DEFINITION. The events of the fabric: flits received (R354, R355, R360), packets performed at this chip (R357, R362, R363, R366),
links that fail and return (R352, R364), and the limits of 1 ms (R361, R398). -/

namespace Sys2Proof.Machine

open Sys2Proof

/-! ## Flits -/

def minusOn (l : List (Nat × Nat)) (ch n : Nat) : List (Nat × Nat) := putKey l ch (usedOn l ch - n)
def plusOn (l : List (Nat × Nat)) (ch n : Nat) : List (Nat × Nat) := putKey l ch (usedOn l ch + n)

/-- What the framing of a flit returns: acknowledged packets leave the replay buffer, permits come back or are granted, and the peer's
demand (R355, R360). -/
def takeFraming (lp : LinkPort) (f : Flit) : LinkPort :=
  { lp with
    replay := lp.replay.filter (fun r => decide ((f.ack - r.1).toNat ≥ 512))
    acked := if (f.ack - lp.acked).toNat < 512 then f.ack else lp.acked
    want := f.want
    used := f.back.foldl (fun l p => minusOn l p.1 p.2) lp.used
    shared := f.grant.foldl (fun l p => plusOn l p.1 p.2) lp.shared }

/-- The header is one that ingress accepts (R356). -/
def headerOk (p : Packet) : Bool := decide (p.kind.toNat < 12) && p.rsv == 0 && (!p.win || p.kind == 0 || p.kind == 1 || p.kind == 3)

/-- The peer asks for replay: what it has not acknowledged is sent again from the buffer, with the permits that it has. A request for the
same flit that follows eight replays of it ends the link (R355). -/
def serveReplay (s : State) (lp : LinkPort) (f : Flit) : State :=
  if !f.again then setPort s { lp with asked := none }
  else
    let n := match lp.asked with
      | some (q, k) => if q == f.ack then k + 1 else 1
      | none => 1
    let s1 := setPort s { lp with asked := some (f.ack, n) }
    if n > 8 then failLink s1 lp.num
    else { s1 with fab := { s1.fab with replayed := s1.fab.replayed ++ lp.replay.map (fun r => (lp.num, r.1, r.2)) } }

/-- A dropped reply releases its reservation (R361, R366). -/
def dropReply (s : State) (p : Packet) : State :=
  if p.kind == 2 || p.kind == 4 then
    match answered s p.dcore.toNat p.schip.toNat p.seq with
    | some r => r.2
    | none => s
  else s

/-- A bad header: the permits return, and a notice of kind 7 at most once a millisecond on a port (R356, R392). -/
def dropHeader (s : State) (port peer : Nat) (p : Packet) : State :=
  let owe := fun (st : State) => match getPort st port with
    | some lp => setPort st { lp with owed := plusOn lp.owed p.chan.toNat (flitsOf p) }
    | none => st
  let s1 := dropReply (owe s) p
  if s1.fab.dropNoted.contains port then s1
  else linkNotice { s1 with fab := { s1.fab with dropNoted := port :: s1.fab.dropNoted } } 7 port peer none

/-- A packet takes its flits of the port's pool (R358). -/
def intoPool (s : State) (port : Nat) (p : Packet) : State :=
  match getPort s port with
  | none => s
  | some lp =>
    let s1 := setPort s { lp with pool := plusOn lp.pool p.chan.toNat (flitsOf p) }
    { s1 with fab := { s1.fab with arrived := s1.fab.arrived ++ [(port, p)] } }

/-- A link has failed, with what waited in its Prism (R355, R364). -/
def lostLink (s : State) (port : Nat) : State := movePrism (failLink s port) port

/-- FLIT_RECEIVE (R354, R355, R360): a flit is accepted in its order, or replay is asked for. -/
def execFlitReceive (port : Nat) (f : Flit) (s : State) : Host.Outcome State Fault Refusal :=
  match getPort s port with
  | none => .fault .notEnabled
  | some lp =>
    if !lp.up || lp.disabled then .fault .notEnabled
    else if !f.crcOk || f.seq != lp.rxNext then
      let again := !f.crcOk && lp.askReplay && f.seq == lp.rxNext
      let s1 := setPort s { lp with askReplay := true, fails := if again then lp.fails + 1 else lp.fails }
      .next (if again && lp.fails + 1 ≥ 8 then lostLink s1 port else s1)
    else
      let lp1 : LinkPort := { takeFraming lp f with rxNext := lp.rxNext + 1, fails := 0, askReplay := false }
      let s1 := movePrism (pump (serveReplay s lp1 f) port) port
      .next (match f.pkt with
        | none => s1
        | some p => if headerOk p then intoPool s1 port p else dropHeader s1 port lp.peer p)

/-! ## Links -/

/-- LOSS_OF_LOCK (R355). -/
def execLossOfLock (port : Nat) (s : State) : Host.Outcome State Fault Refusal :=
  match getPort s port with
  | none => .fault .notEnabled
  | some lp => if lp.up then .next (lostLink s port) else .fault .notEnabled

/-- LINK_RETRAIN (R352, R364): a port whose peer is not the one of the port map is disabled. -/
def execLinkRetrain (port peer : Nat) (s : State) : Host.Outcome State Fault Refusal :=
  match getPort s port with
  | none => .fault .notEnabled
  | some lp =>
    if lp.up then .fault .notEnabled
    else if lp.peer == peer then .next (retrainLink (setPort s { lp with disabled := false }) port peer)
    else .next (linkNotice (setPort s { lp with disabled := true }) 6 port peer none)

/-! ## Ingress (R363, R366) -/

/-- A packet leaves the pool of its port, and its permits return. -/
def leavePool (s : State) (port : Nat) (p : Packet) : State :=
  match getPort s port with
  | none => s
  | some lp =>
    let n := flitsOf p
    setPort s { lp with pool := minusOn lp.pool p.chan.toNat n, owed := plusOn lp.owed p.chan.toNat n }

/-- A packet from a link: dropped by its tag, forwarded on its second hop, or taken by `here`. -/
def fromLink (kind port : Nat) (p : Packet) (s : State) (here : State → State) : Host.Outcome State Fault Refusal :=
  if (getPort s port).isNone || p.kind.toNat != kind || p.len.toNat != p.data.length || p.len.toNat > 256 || !headerOk p then
    .fault .notEnabled
  else
    let s1 := leavePool s port p
    if !tagLive s1 p.ftag then .next (dropReply s1 p)
    else if p.dchip.toNat != chipId s1 then .next (if p.rly then s1 else relayOn s1 p.score.toNat p.dchip.toNat p)
    else .next (here s1)

/-! ## Requests at their home (R357, R362) -/

/-- The reply that a request of this stream and SEQ got, if it was one of the last 2,048 performed. -/
def performedBefore (s : State) (p : Packet) : Option Packet :=
  (s.fab.seen.find? (fun e => e.1 == p.schip.toNat && e.2.1 == p.score.toNat && e.2.2.1 == p.seq)).map (fun e => e.2.2.2)

/-- The filter with one more request performed. -/
def notePerformed (s : State) (p r : Packet) : State :=
  let mine := fun (e : Nat × Nat × BitVec 12 × Packet) => e.1 == p.schip.toNat && e.2.1 == p.score.toNat
  let own := (s.fab.seen.filter mine).take 2047
  let rest := s.fab.seen.filter (fun e => !mine e)
  { s with fab := { s.fab with seen := (p.schip.toNat, p.score.toNat, p.seq, r) :: own ++ rest } }

/-- A request performed once and answered; a duplicate is answered again. -/
def serveRequest (p : Packet) (kind : Nat) (work : State → List Byte × State) (s : State) : State :=
  match performedBefore s p with
  | some r => sendToward s p.dcore.toNat p.schip.toNat r
  | none =>
    let w := work s
    let r := replyPacket w.2 p kind w.1
    sendToward (notePerformed w.2 p r) p.dcore.toNat p.schip.toNat r

/-- The key of the address of a WR, RD or AT; none where this chip is not its home. -/
def packetKey (s : State) (p : Packet) : Option Nat :=
  let a := p.addr.toNat
  if p.win then
    if a / 2 ^ 35 % 16 == chipId s && decide (a % 2 ^ 28 < Config.sliceBytes) then some (sliceKey (a / 2 ^ 28 % 128) (a % 2 ^ 28)) else none
  else if paExists s a && paChip a == chipId s then some (frameKey s a)
  else none

/-- Bytes of a write by offset from its address: those that its mask enables. -/
def writeBytes (p : Packet) : List (Nat × Byte) :=
  if p.be then
    let mask := bytesNat (p.data.take 16)
    ((List.range 128).zip (p.data.drop 16)).filter (fun q => mask.testBit q.1)
  else (List.range p.data.length).zip p.data

/-- A remote write at its home. -/
def writeHere (p : Packet) (s : State) : List Byte × State :=
  match packetKey s p with
  | none => ([], s)
  | some k =>
    let data := (writeBytes p).map (fun q => (k + q.1, q.2))
    ([], homePut (data.foldl (fun st q => dropCarried st q.1 1) s) (tagAsid p.ftag) data)

/-- A remote read at its home: the bytes from ADDR to the end of its line; none where they are poisoned. -/
def readHere (p : Packet) (s : State) : List Byte × State :=
  match packetKey s p with
  | none => ([], s)
  | some k =>
    let n := 128 - k % 128
    if poisoned s k n then ([], s) else (readKey s k n, chargeLines s (tagAsid p.ftag) k n)

/-- An atomic, sync-word operation or flip at its home: the old value; none where it is poisoned. -/
def atomicHere (p : Packet) (s : State) : List Byte × State :=
  match packetKey s p, decodeOp p.data with
  | some _, some .mflip =>
    let r := homeFlip s (p.addr.toNat / 65536)
    (natBytes 1 r.1.toNat, r.2)
  | some k, some op =>
    let n := homeOpSize op
    if poisoned s k n then ([], s)
    else
      let r := applyHome s (tagAsid p.ftag) k op
      (natBytes n r.1, r.2)
  | _, _ => ([], s)

/-- WR_PACKET (R357). -/
def execWrPacket (port : Nat) (p : Packet) (s : State) : Host.Outcome State Fault Refusal :=
  fromLink 0 port p s (serveRequest p 5 (writeHere p))

/-- RD_PACKET (R357). -/
def execRdPacket (port : Nat) (p : Packet) (s : State) : Host.Outcome State Fault Refusal :=
  fromLink 1 port p s (serveRequest p 2 (readHere p))

/-- AT_PACKET (R357). -/
def execAtPacket (port : Nat) (p : Packet) (s : State) : Host.Outcome State Fault Refusal :=
  fromLink 3 port p s (serveRequest p 4 (atomicHere p))

/-! ## Answers at the requesting core (R357) -/

/-- A line that the scheduler asked for; one without bytes is a failing read. -/
def hubAnswer (s : State) (asid tag : Nat) (data : List Byte) : State :=
  { s with fab := { s.fab with hub := (asid, tag, if data.length < 128 then [] else data) :: s.fab.hub } }

/-- What waits for a request takes its answer. -/
def giveAnswer (s : State) (core : Nat) (o : Outst) (data : List Byte) : State :=
  match o.asker with
  | .none => s
  | .thread uid tid tag => modThread s uid tid (fun th => { th with reply := th.reply ++ [(tag, data)] })
  | .sector slot i j => engineAnswer s core slot i j o (if o.pkt.kind == 1 then some data else none)
  | .flip slot f => flipAnswer s core slot f
  | .hub asid tag => hubAnswer s asid tag data
  | .prefetch asid _ =>
    let line := o.pkt.addr.toNat / 128
    if data.length < 128 || (nearLine s core asid line).isSome then s else nearFill s core asid line (data.take 128)

/-- A reply taken by the request it answers; one that answers none is dropped. -/
def takeAnswer (request : Nat) (p : Packet) (s : State) : State :=
  match answered s p.dcore.toNat p.schip.toNat p.seq with
  | some r => if r.1.pkt.kind.toNat == request then giveAnswer r.2 p.dcore.toNat r.1 p.data else s
  | none => s

/-- RR_PACKET (R357). -/
def execRrPacket (port : Nat) (p : Packet) (s : State) : Host.Outcome State Fault Refusal :=
  fromLink 2 port p s (takeAnswer 1 p)

/-- AR_PACKET (R357). -/
def execArPacket (port : Nat) (p : Packet) (s : State) : Host.Outcome State Fault Refusal :=
  fromLink 4 port p s (takeAnswer 3 p)

/-- An acknowledgement of a hub, with SEQ 0 and core 0, ends an announcement of the core to that chip, where one is awaited (R356, R368):
an acknowledged write to the home of core 0 with SEQ 0 cannot be told from it, and the next acknowledgement then ends the write. Any other
ends the write that it answers. -/
def takeAck (p : Packet) (s : State) : State :=
  let mine := fun (h : BitVec 16 × W32 × Nat × Nat) => h.1 == p.ftag && h.2.2 == (p.schip.toNat, p.dcore.toNat)
  if p.seq == 0 && p.score == 0 && s.fab.haveWait.any mine then
    { s with fab := { s.fab with haveWait := s.fab.haveWait.eraseP mine } }
  else
    match answered s p.dcore.toNat p.schip.toNat p.seq with
    | some r => if r.1.pkt.kind == 0 then giveAnswer r.2 p.dcore.toNat r.1 p.data else s
    | none => s

/-- ACK_PACKET (R275, R357, R368). -/
def execAckPacket (port : Nat) (p : Packet) (s : State) : Host.Outcome State Fault Refusal :=
  fromLink 5 port p s (takeAck p)

/-! ## Shuffles (R368, R369, R374, R375) -/

/-- A packet within the chip, taken from where it stands; one that a paused rank is to take is discarded (R301). -/
def fromHub (kind : Nat) (p : Packet) (s : State) (work : State → State) : Host.Outcome State Fault Refusal :=
  if p.kind.toNat == kind && s.fab.local_.contains p && !rankWaits s p.dcore.toNat p then
    let s1 := { s with fab := { s.fab with local_ := s.fab.local_.erase p } }
    .next (if (kind == 7 || kind == 8) && rankPaused s p.dcore.toNat p then s1 else work s1)
  else .fault .notEnabled

/-- Ports from 15 up stand for packets on their way within the chip; from 256 up for a decode slot of core `port − 256`. -/
def onChip (port : Nat) : Bool := port ≥ 15

/-- CSB_PACKET (R369, R374): one copy for each destination core. -/
def execCsbPacket (port : Nat) (p : Packet) (s : State) : Host.Outcome State Fault Refusal :=
  if onChip port then
    let core := port - 256
    if (getCore s core).decode.contains p && !rankWaits s core p then .next (decodeSlot s core p) else .fault .notEnabled
  else if p.dchip.toNat == chipId s && ((pktComps p).map (·.dcore)).any (fun k => decide ((getCore s k).decode.length ≥ Config.decodeSlots)) then .fault .notEnabled
  else fromLink 6 port p s (fun st => intoCores st ((pktComps p).map (·.dcore)) p)

/-- A segment from a link at the Prism of its die, which may code it with others (R369). -/
def farSegment (s : State) (p : Packet) : State :=
  let deg := Config.farDeg s.freeCtr
  prismPush (nextFree s) (15 + dieOf p.dcore.toNat) { pkt := p, deg := deg.getD 0, coded := deg.isNone, resend := false }

/-- USB_PACKET (R369, R374): a segment from a link goes through the Prism of its die. -/
def execUsbPacket (port : Nat) (p : Packet) (s : State) : Host.Outcome State Fault Refusal :=
  if onChip port then fromHub 7 p s (fun st => uncodedSegment st p)
  else fromLink 7 port p s (fun st => farSegment st p)

/-- RSD_PACKET (R375). -/
def execRsdPacket (port : Nat) (p : Packet) (s : State) : Host.Outcome State Fault Refusal :=
  if onChip port then fromHub 8 p s (fun st => serveResend st p)
  else fromLink 8 port p s (fun st => if rankPaused st p.dcore.toNat p then st else serveResend st p)

/-- HAVE_PACKET (R368). -/
def execHavePacket (port : Nat) (p : Packet) (s : State) : Host.Outcome State Fault Refusal :=
  if onChip port then fromHub 9 p s (fun st => takeHave st p) else fromLink 9 port p s (fun st => takeHave st p)

/-- SACK_PACKET (R375). -/
def execSackPacket (port : Nat) (p : Packet) (s : State) : Host.Outcome State Fault Refusal :=
  if onChip port then fromHub 10 p s (fun st => takeSack st p) else fromLink 10 port p s (fun st => takeSack st p)

/-- A command to place a team of another chip's grid here: it waits for its place as a grid of this one team (R323, R425, log 54). -/
def placeHere (s : State) (p : Packet) : State :=
  let uid := bytesNat ((p.data.drop 1).take 8)
  let lin := bytesNat ((p.data.drop 9).take 8)
  let r := Config.farRecord p.schip.toNat uid
  if (getCtx s (tagAsid p.ftag)).isNone || (firstOffset (lrcRules true r.1)).isSome then s
  else
    let g : Grid := { uid := s.nextUid, handle := 0, asid := tagAsid p.ftag, lrc := lrcOf r.1 r.2, depth := bytesNat ((p.data.drop 17).take 1),
                      origin := .far p.schip.toNat uid, parent := none, next := lin, total := lin + 1, ended := lin }
    { s with grids := s.grids ++ [g], nextUid := s.nextUid + 1 }

/-- A team that stood on another chip has ended. -/
def endedThere (s : State) (p : Packet) : State :=
  let lin := bytesNat ((p.data.drop 9).take 8)
  match getGrid s (bytesNat ((p.data.drop 1).take 8)) with
  | none => s
  | some g =>
    if !g.away.contains (lin, p.schip.toNat) then s
    else
      let g1 := { g with ended := g.ended + 1, hurt := g.hurt || (p.data.drop 17).take 1 == [1], away := g.away.erase (lin, p.schip.toNat) }
      runQueues (closeGrid (setGrid s g1) g1)

/-- CTL_PACKET (R357): a command between the firmwares of two chips, which carries no program data. One without payload forwards the
ring of a queue (R425, log 18); the first byte of another says what it is. -/
def execCtlPacket (port : Nat) (p : Packet) (s : State) : Host.Outcome State Fault Refusal :=
  fromLink 11 port p s (fun st =>
    if p.data.isEmpty then
      let asid := tagAsid p.ftag
      if (getCtx st asid).any (fun c => ownsQueue c p.addr.toNat) then ringHere st asid p.addr.toNat [] else st
    else if p.data.head? == some placeCode && p.data.length == 18 then placeHere st p
    else if p.data.head? == some endCode && p.data.length == 18 then endedThere st p
    else { st with fab := { st.fab with commands := st.fab.commands ++ [p] } })

/-- A packet that has arrived, by its KIND. -/
def runPacket (port : Nat) (p : Packet) (s : State) : Host.Outcome State Fault Refusal :=
  match p.kind.toNat with
  | 0 => execWrPacket port p s
  | 1 => execRdPacket port p s
  | 2 => execRrPacket port p s
  | 3 => execAtPacket port p s
  | 4 => execArPacket port p s
  | 5 => execAckPacket port p s
  | 6 => execCsbPacket port p s
  | 7 => execUsbPacket port p s
  | 8 => execRsdPacket port p s
  | 9 => execHavePacket port p s
  | 10 => execSackPacket port p s
  | _ => execCtlPacket port p s

/-! ## Limits of 1 ms -/

def oneMs : Nat := 1000000

/-- REPLY_RESERVATION_TIMEOUT (R361): the request of a revoked tag no longer holds reply space. -/
def execReplyReservationTimeout (core seq : Nat) (s : State) : Host.Outcome State Fault Refusal :=
  let c := getCore s core
  match c.outst.find? (fun o => o.dead && o.seq.toNat == seq && decide (s.ns ≥ o.since + oneMs)) with
  | none => .fault .notEnabled
  | some o => .next (setCore s { c with outst := c.outst.erase o })

/-- A request that has been held 1 ms without a path (R398). -/
def heldTooLong (s : State) (core peer : Nat) (o : Outst) : Bool :=
  o.peer == peer && !o.sent && decide (s.ns ≥ o.since + oneMs) && !pathTo s core peer

/-- A thread that has waited 1 ms for a path. -/
def waitedTooLong (s : State) (t : Team) (peer : Nat) (th : Thread) : Bool :=
  teamResident t && th.st == .waiting (.path peer) && decide (th.waited * 1000 ≥ oneMs * s.care.fclk) && !pathTo s (teamCore t) peer

/-- The access of a thread is given up when its instruction executes again. -/
def markLost (th : Thread) : Thread := { th with reply := th.reply ++ [(lostTag, [])] }

/-- The part of an operation whose request is given up ends with a record that names the address of the request as the operation gives it
(R291, R398). -/
def giveUpPart (s : State) (core : Nat) (tk : Token) (i j : Nat) (o : Outst) : State :=
  let p := partPieces s tk i j
  let wr := o.pkt.kind == 0
  let names := fun (x : W64 × Nat) => match engineSite s core tk wr x.1 x.2 wr with
    | (.ok site, _) => siteTag site == lineTag o.peer o.pkt.win o.pkt.addr.toNat
    | _ => false
  let a := ((if wr then p.2 else p.1).find? names).map (·.1)
  let unit := match tk.op with
    | .copy c => ((c.slices[i]?).map (fun (sl : Slice) => sl.gang)).getD 0
    | _ => blockedUnit s tk 0 (a.getD 0)
  let r : TokRec := { recordFor s core tk .dataFault with
    wr := wr, addr := a.getD 0, unit := BitVec.ofNat 16 unit, pool := piecesPool s tk.asid (p.1 ++ p.2) }
  match collOf tk with
  | some _ => collFail s core tk.slot j r
  | none => endToken s core tk.slot .faulted (some r)

/-- What an access that is given up ends. -/
def giveUp (s : State) (core : Nat) (o : Outst) : State :=
  match o.asker with
  | .none => s
  | .prefetch _ _ => s
  | .hub asid tag => hubAnswer s asid tag []
  | .thread uid tid _ => modThread s uid tid markLost
  | .sector slot i j =>
    match getToken s core slot with
    | none => s
    | some tk => if tk.st == .running then giveUpPart s core tk i j o else noteMore s core slot
  | .flip slot f =>
    match getToken s core slot with
    | none => s
    | some tk =>
      let at_ := (destGranules tk.op).find? (fun g => mirFrameOf s tk.asid (BitVec.ofNat 64 (g * 65536)) == some f)
      let r : TokRec := { recordFor s core tk .dataFault with wr := true, addr := BitVec.ofNat 64 (at_.getD 0 * 65536) }
      if tk.flipping && tk.st == .running then endToken s core slot .faulted (some r) else s

/-- Release parts on the core that wait for acknowledgements which cannot arrive: their instructions end at the end of the cycle. -/
def giveUpRelease (s : State) (core : Nat) (ids : List Nat) : State :=
  let lost := fun (th : Thread) => th.st != .gone && th.rel.any (fun r => r.ids.any ids.contains)
  { s with teams := s.teams.map (fun t =>
      if teamCore t == core && t.threads.any lost then
        { t with threads := t.threads.map (fun th => if lost th then { th with rel := th.rel.map (fun r => { r with lost := true }) } else th) }
      else t) }

/-- The accesses of one core toward a chip that have no path. -/
def giveUpCore (s : State) (peer core : Nat) : State :=
  let late := (getCore s core).outst.filter (heldTooLong s core peer)
  let s1 := modCore s core (fun c => { c with outst := c.outst.filter (fun o => !late.contains o) })
  let s2 := late.foldl (fun st o => giveUp st core o) s1
  giveUpRelease s2 core (late.map (·.id))

/-- PATH_HOLD_TIMEOUT (R398). -/
def execPathHoldTimeout (peer : Nat) (s : State) : Host.Outcome State Fault Refusal :=
  let held := (s.cores.filter (fun c => c.outst.any (heldTooLong s c.id peer))).map (·.id)
  let waits := s.teams.any (fun t => t.threads.any (waitedTooLong s t peer))
  if held.isEmpty && !waits then .fault .notEnabled
  else
    let s1 := { s with teams := s.teams.map (fun t =>
      { t with threads := t.threads.map (fun th => if waitedTooLong s t peer th then markLost th else th) }) }
    .next (held.foldl (fun st c => giveUpCore st peer c) s1)

end Sys2Proof.Machine
end

