-- ==== Sys2Proof/Machine/Host.lean ====
section
/-! DEFINITION. What arrives through the control ports and from the host: doorbells (R315), translations and page requests (R389),
answers and the notice ring (R393), resets of a function (R351), accesses to device memory (R276), semaphores and the flash window
(R404), and writes of plain registers (R399, R403, R409, R412). -/

namespace Sys2Proof.Machine

open Sys2Proof

/-! ## Doorbells (R315) -/

/-- The context behind a PCIe function: the root for the physical function, 0, or the bound child (R351). -/
def functionContext (s : State) (fn : Nat) : Option Ctx :=
  if fn == 0 then s.ctxs.find? (fun c => c.level == 0) else s.ctxs.find? (fun c => c.level == 1 && c.live && c.cxr.vf == fn)

/-- DBELL (R315). -/
def execDbell (fn : Nat) (data : W32) (s : State) : Host.Outcome State Fault Refusal :=
  let q := data.toNat % 2 ^ 16
  .next (match functionContext s fn with
    | none => s
    | some c => if ownsQueue c q then ringQueue s c.asid q [] else s)

/-! ## Translations and Page Request Groups (R389, R390) -/

def setAts (s : State) (l : List (AtsReq × Bool × Bool)) : State := { s with host := { s.host with ats := l } }

/-- ATS_TRANSLATION_COMPLETION (R389): a translation that was asked for, with the accesses it allows. -/
def execAtsTranslationCompletion (rq : AtsReq) (rd wr : Bool) (s : State) : Host.Outcome State Fault Refusal :=
  let asked := fun (m : HostMsg) => match m with
    | .atsRequest q _ => q == rq
    | _ => false
  if !s.host.out.any asked then .fault .notEnabled
  else
    let s1 := setAts s ((rq, rd, wr) :: s.host.ats.filter (fun e => e.1 != rq))
    .next { s1 with host := { s1.host with out := s1.host.out.filter (fun m => !asked m) } }

/-- The first of n bytes from an address that is translated by the request. -/
def rangeMeets (s : State) (asid : Nat) (rq : AtsReq) (a : W64) (n : Nat) : Option W64 :=
  (List.range (n / 4096 + 2)).findSome? (fun i =>
    let b := a + BitVec.ofNat 64 (min (4096 * i) (n - 1))
    let meets := decide (0 < n) && !isWindow b && (match walk s false (chainOf s asid) (b.toNat % 2 ^ 57) with
      | .ok x => paHost x.pa && atsFor s asid x.pa == rq
      | .error _ => false)
    if meets then some (if i == 0 then a else BitVec.ofNat 64 (b.toNat / 4096 * 4096)) else none)

/-- The parts of an operation that wait for the page of a request: number, address, and whether it is a write. -/
def partsWait (s : State) (tk : Token) (rq : AtsReq) : List (Nat × W64 × Bool) :=
  let first := fun (wr : Bool) (l : List (W64 × Nat)) =>
    (l.findSome? (fun p => rangeMeets s tk.asid rq p.1 p.2)).map (fun a => (a, wr))
  (partsUnder tk pageWait).filterMap (fun x =>
    let p := partPieces s tk x.1 x.2
    ((first false p.1).orElse (fun _ => first true p.2)).map (fun a => (x.2, a)))

/-- A Success response: every waiting access replays, and translates afresh. -/
def pageServed (s : State) (asid : Nat) (rq : AtsReq) : State :=
  let s1 := setAts s (s.host.ats.filter (fun e => e.1 != rq))
  { s1 with
    teams := s1.teams.map (fun t => if t.asid != asid then t else
      { t with threads := t.threads.map (fun th => if th.st == .parked (.page rq) then { th with st := .ready, age := 0 } else th) })
    cores := s1.cores.map (fun c => { c with tokens := c.tokens.map (fun (tk : Token) =>
      if tk.asid == asid && !terminal tk then { tk with op := unblock pageWait tk.op } else tk) })
    ctxs := s1.ctxs.map (fun c => if c.asid != asid then c else
      { c with qpkts := c.qpkts.map (fun p => if p.stuck == some pageWait then { p with stuck := none } else p) }) }

/-- Threads that wait for the page take a new record: DATA_FAULT with SVF (R390). -/
def pageThreads (s : State) (asid : Nat) (rq : AtsReq) : State :=
  s.teams.foldl (fun st t =>
    if t.asid != asid then st
    else
      (List.range t.threads.length).foldl (fun st tid =>
        match (getTeam st t.uid).bind (fun x => getThread x tid) with
        | some th =>
          if th.st == .parked (.page rq) then 
            trapAt st t.uid tid { cause := .dataFault, addr := th.frc.addr, wr := th.frc.wr, aux := 2, unissued := true }
          else st
        | none => st) st) s

/-- Tokens that wait for the page end FAULTED with RPL 1 (R390). -/
def pageTokens (s : State) (asid : Nat) (rq : AtsReq) : State :=
  (allTokens s).foldl (fun st p =>
    if p.2.asid != asid || terminal p.2 then st
    else
      match partsWait s p.2 rq with
      | [] => st
      | x :: l =>
        let r := unservedRecord st p.1 p.2 (blockedUnit st p.2 pageWait x.2.1)
        endByAnswer st p.1 p.2 ((x :: l).map (·.1)) (some { r with addr := x.2.1, wr := x.2.2, pool := true })) s

/-- A queue whose read waits for the page becomes unreadable (R317). -/
def pageQueues (s : State) (asid : Nat) (rq : AtsReq) : State :=
  match getCtx s asid with
  | none => s
  | some c =>
    let waits := fun (q : Nat) => match execQueueRead asid q s with
      | .next t => t.host.prgs.any (fun g => g.asid == asid && g.rq == rq)
      | _ => false
    ((c.queues.filter (fun q => q.rung)).map (·.num)).foldl (fun st q => if waits q then malformed st asid q 0 0 else st) s

/-- A response of failure ends the service (R390). -/
def pageFailed (s : State) (asid : Nat) (rq : AtsReq) : State :=
  let s1 := pageQueues (pageTokens (pageThreads s asid rq) asid rq) asid rq
  let s2 := modCtx s1 asid (fun c => { c with qpkts := c.qpkts.map (fun p =>
    if p.stuck == some pageWait && (rangeMeets s1 asid rq p.csig 8).isSome then { p with stuck := none, failed := true } else p) })
  setAts s2 (s2.host.ats.filter (fun e => e.1 != rq))

/-- The next group of a function that waited leaves, while fewer than 64 are outstanding. -/
def sendGroup (s : State) (fn : Nat) : State :=
  if prgsOut s fn ≥ 64 then s
  else
    match s.host.prgs.find? (fun g => g.fn == fn && !g.sent) with
    | none => s
    | some g =>
      { s with host := { s.host with
        prgs := replaceIf (fun x => x.fn == g.fn && x.index == g.index) { g with sent := true } s.host.prgs
        out := s.host.out ++ [.pageRequest g.fn g.index g.rq g.rd g.wr] } }

/-- PAGE_REQUEST_RESPONSE (R389, R390, R402): a response that answers no group is dropped. -/
def execPageRequestResponse (fn index : Nat) (code : PrgCode) (s : State) : Host.Outcome State Fault Refusal :=
  match s.host.prgs.find? (fun g => g.fn == fn && g.index == index && g.sent) with
  | none => .next s
  | some g =>
    let s1 := { s with host := { s.host with prgs := s.host.prgs.filter (fun x => !(x.fn == fn && x.index == index)) } }
    .next (sendGroup (if code == .success then pageServed s1 g.asid g.rq else pageFailed s1 g.asid g.rq) fn)

/-- ATS_INVALIDATE_REQUEST (R389). -/
def execAtsInvalidateRequest (rq : AtsReq) (pages : Nat) (s : State) : Host.Outcome State Fault Refusal :=
  let old := fun (e : AtsReq) => e.fn == rq.fn && e.pasid == rq.pasid && decide (rq.page ≤ e.page ∧ e.page < rq.page + pages)
  let s1 := setAts s (s.host.ats.filter (fun e => !old e.1))
  .next (invalidateStep { s1 with host := { s1.host with invs := s1.host.invs ++ [(rq, pages)] } } (rq, pages))

/-! ## Notices and service registers (R390, R393) -/

/-- NRESP (R393): ACTION 3 and an unknown ID are ignored. -/
def execNresp (_ : Port) (data : W64) (s : State) : Host.Outcome State Fault Refusal :=
  let id : W32 := data.setWidth 32
  let action := bitsAt data.toNat 33 32
  match s.host.asked.find? (fun q => q.id == id) with
  | none => .next s
  | some q =>
    if action == 3 then .next s
    else
      let s1 := { s with host := { s.host with asked := s.host.asked.filter (fun x => x.id != id) } }
      .next (answer s1 q.about (.notice id) id action q.addr 0 q.wr).2

/-- S0INVGO (R393): a write of 1 invalidates for the root over S0INVA and S0INVL. -/
def execS0invgo (_ : Port) (data : W32) (s : State) : Host.Outcome State Fault Refusal :=
  if !data.getLsbD 0 then .next s
  else
    let n := s.host.s0invl.toNat
    if n == 0 then .next s
    else .next (s0Sweep (invalidate { s with host := { s.host with s0invgo := true } } (rootAsid s) s.host.s0inva.toNat n))

/-- NRCTL (R393): LOG outside 7 to 16 keeps EN at 0; any write clears LOST. -/
def execNrctl (port : Port) (data : W32) (s : State) : Host.Outcome State Fault Refusal :=
  let log := bitsAt data.toNat 4 0
  let en := data.getLsbD 31 && decide (7 ≤ log ∧ log ≤ 16)
  let r := portRegs s port
  let s1 := setPortRegs s port { r with en := en, log := log, lost := 0 }
  .next (if en then flushWaiting (r.waiting.length) s1 port else s1)

/-- NOTICE_RING_TAIL (R392, R393). -/
def execNoticeRingTail (port : Port) (data : W32) (s : State) : Host.Outcome State Fault Refusal :=
  let r := portRegs s port
  let s1 := setPortRegs s port { r with tail := data }
  .next (if r.en then flushWaiting (r.waiting.length) s1 port else s1)

/-- FUNCTION_LEVEL_RESET (R351): the bound child is revoked by the root. -/
def execFunctionLevelReset (vf : Nat) (s : State) : Host.Outcome State Fault Refusal :=
  .next (match (if vf == 0 then none else functionContext s vf) with
    | none => s
    | some c => beginRevoke (modCtx s c.asid (fun x => { x with cxr := { x.cxr with vf := 0 } })) c.asid)

/-! ## Host accesses to device memory (R276) -/

/-- Bytes written by the host: no context owns them, and none is charged (R396, R413). -/
def hostPut (s : State) (key : Nat) (bs : List Byte) : State :=
  noteWrite (dropCarried (writeKey (poolNote s key bs.length) key (storedBytes s key bs)) key bs.length) 0 key bs.length

/-- Device memory from an address in pieces within one 64 KiB frame: what each reaches (R271), and its length. -/
def hostPieces (s : State) : Nat → Nat → Nat → List (Nat × Nat)
  | 0, _, _ => []
  | f + 1, pa, n =>
    let k := min n (65536 - pa % 65536)
    if n == 0 then [] else (frameKey s pa, k) :: hostPieces s f (pa + k) (n - k)

def hostKeys (s : State) (pa n : Nat) : List (Nat × Nat) := hostPieces s (n / 65536 + 2) pa n

/-- Bytes put into pieces in order. -/
def hostPutAll : List (Nat × Nat) → List Byte → State → State
  | [], _, s => s
  | p :: r, bs, s => hostPutAll r (bs.drop p.2) (hostPut s p.1 (bs.take p.2))

def sendHost (s : State) (m : HostMsg) : State := { s with host := { s.host with out := s.host.out ++ [m] } }

/-- n bytes that exist as device memory of this chip. -/
def hostReach (s : State) (pa n : Nat) : Bool :=
  !paHost pa && paChip pa == chipId s && paExists s pa && paExists s (pa + n - 1)

def hostRead (s : State) (keys : List (Nat × Nat)) (pa : Nat) : State :=
  if keys.any (fun p => poisoned s p.1 p.2) then sendHost s (.poisoned pa)
  else sendHost s (.readData (keys.flatMap (fun p => readKey s p.1 p.2)))

def sliceReach (core off n : Nat) : Bool := decide (core < Config.numCores ∧ off + n ≤ Config.sliceBytes)

/-- HOST_MEMORY_ACCESS (R276, R372). -/
def execHostMemoryAccess (acc : HostAccess) (s : State) : Host.Outcome State Fault Refusal :=
  match acc with
  | .read pa len => if len == 0 || !hostReach s pa len then .fault .notEnabled else .next (hostRead s (hostKeys s pa len) pa)
  | .write pa data => if data.isEmpty || !hostReach s pa data.length then .fault .notEnabled else .next (hostPutAll (hostKeys s pa data.length) data s)
  | .readSlice core off len =>
    if len == 0 || !sliceReach core off len then .fault .notEnabled else .next (hostRead s [(sliceKey core off, len)] 0)
  | .writeSlice core off data =>
    if data.isEmpty || !sliceReach core off data.length then .fault .notEnabled else .next (hostPut s (sliceKey core off) data)
  | .fetchAdd pa v =>
    if pa % 8 != 0 || !hostReach s pa 8 then .fault .notEnabled
    else
      let key := frameKey s pa
      if poisoned s key 8 then .next (sendHost s (.poisoned pa))
      else
        let old := readKey s key 8
        .next (sendHost (hostPut s key (natBytes 8 ((bytesNat old + v.toNat) % 2 ^ 64))) (.readData old))

/-! ## Semaphores and the flash window (R404) -/

/-- The port that owns a semaphore. -/
def semOwner (s : State) (n : Nat) : Option Port := (s.host.sems.find? (fun p => p.1 == n)).map (fun p => p.2.1)

def setSem (s : State) (n : Nat) (v : Option (Port × Nat)) : State :=
  let rest := s.host.sems.filter (fun p => p.1 != n)
  { s with host := { s.host with sems := match v with
      | some x => (n, x.1, x.2) :: rest
      | none => rest } }

/-- SEMAPHORE_TAKE (R404): the lease ends at a nanosecond; 0 is no end. -/
def execSemaphoreTake (port : Port) (n lease : Nat) (s : State) : Host.Outcome State Fault Refusal :=
  if n ≥ 32 then .fault .notEnabled
  else
    let ms := min (lease % 2 ^ 20) 1000000
    match semOwner s n with
    | some o => if o == port then .next (setSem s n (some (port, if ms == 0 then 0 else s.ns + ms * 1000000))) else .next s
    | none => .next (setSem s n (some (port, if ms == 0 then 0 else s.ns + ms * 1000000)))

/-- SEMAPHORE_RELEASE (R404). -/
def execSemaphoreRelease (port : Port) (n : Nat) (s : State) : Host.Outcome State Fault Refusal :=
  if n ≥ 32 then .fault .notEnabled
  else .next (if semOwner s n == some port then setSem s n none else s)

/-- SEMAPHORE_LEASE_EXPIRY (R404). -/
def execSemaphoreLeaseExpiry (n : Nat) (s : State) : Host.Outcome State Fault Refusal :=
  match s.host.sems.find? (fun p => p.1 == n) with
  | none => .fault .notEnabled
  | some p => if p.2.2 != 0 && decide (s.ns ≥ p.2.2) then .next (setSem s n none) else .fault .notEnabled

/-- Bytes written into an object; what lies between its end and the offset is an erased byte. -/
def flashBytes (old : List Byte) (off : Nat) (data : List Byte) : List Byte :=
  (List.range (max old.length (off + data.length))).map (fun i =>
    if off ≤ i && i < off + data.length then data.getD (i - off) 0 else old.getD i (Config.flashByte i))

/-- FLASH_WINDOW_WRITE (R404): ignored unless the port owns semaphore 0. -/
def execFlashWindowWrite (port : Port) (obj : FlashObj) (off : Nat) (data : List Byte) (s : State) : Host.Outcome State Fault Refusal :=
  .next (if semOwner s 0 != some port then s
    else { s with care := match obj with
      | .firmware => { s.care with firmware := flashBytes s.care.firmware off data }
      | .owner => { s.care with owner := flashBytes s.care.owner off data }
      | .config => { s.care with record := flashBytes s.care.record off data } })

/-! ## Plain registers -/

/-- The comparator with one of its registers written (R399). -/
def writeComparator (c : Comparator) (off : Nat) (data : W64) : Comparator :=
  let d := data.toNat
  if off == 0 then { c with caddr := data }
  else if off == 8 then
    { c with en := d.testBit 31, act := d.testBit 30, rd := d.testBit 29, wr := d.testBit 28, anyc := d.testBit 27,
             szl := BitVec.ofNat 6 (bitsAt d 26 21), asid := BitVec.ofNat 14 (bitsAt d 13 0) }
  else if off == 0x20 || off == 0x28 || off == 0x30 || off == 0x38 then
    let i := (off - 0x20) / 8 * 64
    let m := c.lmask.toNat
    { c with lmask := BitVec.ofNat 256 (m - bitsAt m (i + 63) i * 2 ^ i + d * 2 ^ i) }
  else c

/-- A 64-bit word of the root's record (R335); its fields apply at once, as those of a new child do. -/
def writeRootWord (s : State) (i : Nat) (data : W64) : State :=
  modCtx s (rootAsid s) (fun (c : Ctx) =>
    let n := cxrNat c.cxr
    { c with cxr := cxrOf (n - bitsAt n (64 * i + 63) (64 * i) * 2 ^ (64 * i) + data.toNat * 2 ^ (64 * i)) })

/-- The word of the root's record at an offset that no other register has. -/
def rootWordAt (off : Nat) : Option Nat := if off < 0x500 then none else (Config.rootWord off).filter (· < 24)

def readRootWord (s : State) (i : Nat) : W64 :=
  BitVec.ofNat 64 (((getCtx s (rootAsid s)).map (fun c => bitsAt (cxrNat c.cxr) (64 * i + 63) (64 * i))).getD 0)

/-- REGISTER_WRITE (R393, R399, R403, R409, R412): the other offsets are read only or not used, and keep their values. -/
def execRegisterWrite (port : Port) (off : Nat) (data : W64) (s : State) : Host.Outcome State Fault Refusal :=
  let r := portRegs s port
  let mine := semOwner s 1 == some port
  let h := s.host
  .next (
    if off == 0x100 then setPortRegs s port { r with nrbase := data }
    else if off == 0x120 then { s with host := { h with s0inva := data } }
    else if off == 0x128 then { s with host := { h with s0invl := data } }
    else if off == 0x300 then { s with host := { h with easid := data.setWidth 14 } }
    else if off == 0x210 then
      (if mine && s.care.ckSt != 1 && !data.getLsbD 31 then
        { s with care := { s.care with ckOp := BitVec.ofNat 2 (bitsAt data.toNat 30 29), ckScope := data.getLsbD 28 } }
      else s)
    else if off == 0x218 then (if mine then { s with care := { s.care with ckBase := data } } else s)
    else if 0x10000 ≤ off && off < 0x10000 + 0x400 * 128 then
      let core := (off - 0x10000) / 0x400
      let n := (off - 0x10000) % 0x400 / 0x40
      if n ≥ Config.comparators then s
      else modCore s core (fun c => { c with retic := putKey c.retic n (writeComparator ((getKey c.retic n).getD {}) (off % 0x40) data) })
    else match rootWordAt off with
      | some i => writeRootWord s i data
      | none => s)

/-! ## What a read of a register returns (R351, R393, R399, R403, R404, R407, R409, R412, R416)

A write-only field, a reserved one and an offset that holds no register read as zero (R9). A read changes nothing. -/

/-- A 64-bit register of comparator n of a core (R399). -/
def readComparator (c : Comparator) (off : Nat) : W64 :=
  match off with
  | 0x00 => c.caddr
  | 0x08 => BitVec.ofNat 64 (c.en.toNat * 2 ^ 31 + c.act.toNat * 2 ^ 30 + c.rd.toNat * 2 ^ 29 + c.wr.toNat * 2 ^ 28
      + c.anyc.toNat * 2 ^ 27 + c.szl.toNat * 2 ^ 21 + c.asid.toNat)
  | 0x20 | 0x28 | 0x30 | 0x38 => BitVec.ofNat 64 (bitsAt c.lmask.toNat ((off - 0x20) * 8 + 63) ((off - 0x20) * 8))
  | _ => 0

/-- Semaphore n: its owner, and the milliseconds that remain of its lease, rounded down (log 17). -/
def readSemaphore (s : State) (n : Nat) : W64 :=
  match s.host.sems.find? (fun p => p.1 == n) with
  | none => 0
  | some (_, p, till) =>
    BitVec.ofNat 64 ((if p == .a then 1 else 2) * 2 ^ 32 + (till - s.ns) / 1000000 % 2 ^ 20)

/-- A register at an offset of BAR0 of a control port's physical function; one of 32 bits in bits 31:0. -/
def readRegister (s : State) (port : Port) (off : Nat) : W64 :=
  let r := portRegs s port
  let k := s.care
  if 0x400 ≤ off && off < 0x500 then (if off % 8 == 0 then readSemaphore s ((off - 0x400) / 8) else 0)
  else if 0x10000 ≤ off && off < 0x10000 + 0x400 * 128 then
    let n := (off - 0x10000) % 0x400 / 0x40
    if n ≥ Config.comparators then 0
    else readComparator ((getKey (getCore s ((off - 0x10000) / 0x400)).retic n).getD {}) (off % 0x40)
  else match off with
    | 0x100 => r.nrbase
    | 0x108 => BitVec.ofNat 64 (r.en.toNat * 2 ^ 31 + r.log % 32)
    | 0x10C => r.head.setWidth 64
    | 0x110 => r.tail.setWidth 64
    | 0x114 => r.lost.setWidth 64
    | 0x120 => s.host.s0inva
    | 0x128 => s.host.s0invl
    | 0x130 => BitVec.ofNat 64 s.host.s0invgo.toNat
    | 0x200 => BitVec.ofNat 64 ((k.phase == .pinhole).toNat * 2 ^ 31 + k.att % 16 * 2 ^ 24 + k.last % 256 * 2 ^ 16 + k.srce % 16)
    | 0x210 => BitVec.ofNat 64 (k.ckGo.toNat * 2 ^ 31 + k.ckOp.toNat * 2 ^ 29 + k.ckScope.toNat * 2 ^ 28)
    | 0x218 => k.ckBase
    | 0x220 => BitVec.ofNat 64 (k.ckDone % 2 ^ 48 * 2 ^ 16 + k.ckCause.toNat * 2 ^ 8 + k.ckSt % 4)
    | 0x280 => BitVec.ofNat 64 (k.pwr % 2 ^ 16 * 2 ^ 32 + k.fclk % 2 ^ 12 * 2 ^ 20 + k.tj % 2 ^ 8 * 2 ^ 8 + k.thr.toNat)
    | 0x300 => s.host.easid.setWidth 64
    | 0x308 => energyWord s s.host.easid.toNat
    | _ => match rootWordAt off with
      | some i => readRootWord s i
      | none => 0

/-- A register at an offset of BAR0 of virtual function `vf` (R351): the binding at 0; DBELL is write-only. -/
def readVf (s : State) (vf off : Nat) : W64 :=
  match (if off == 0 && vf != 0 then functionContext s vf else none) with
  | none => 0
  | some c => BitVec.ofNat 64 (2 ^ 31 + c.level % 8 * 2 ^ 14 + c.asid % 2 ^ 14)

end Sys2Proof.Machine
end

