-- ==== Sys2Proof/Machine/Attest.lean ====
section
/-! DEFINITION. Identity and attestation (R405, R408): the signed objects of module flash, the device's keys and certificate chain, and
its SPDM 1.3 responses. -/

namespace Sys2Proof.Machine

open Sys2Proof

/-! ## Signed objects (R405) -/

/-- An object that ends in its 114-byte signature verifies against a public key. -/
def signedBy (key obj : List Byte) : Bool :=
  decide (obj.length ≥ 114) && edVerify key (obj.take (obj.length - 114)) (obj.drop (obj.length - 114))

/-- A valid owner certificate. -/
def ownerHolds (c : Care) : Bool := signedBy Config.rootKey c.owner

/-- The fields of a record lie in their ranges (R406). -/
def recordFieldsOk (rec : List Byte) : Bool :=
  let n := bytesNat (rec.take 256)
  bitsAt n 31 0 == 0x47464352 && bitsAt n 2047 320 == 0 && bitsAt n 175 170 == 0
    && decide (600 ≤ bitsAt n 143 132 ∧ bitsAt n 143 132 ≤ 3600)
    && (bitsAt n 55 52 == 0 || decide (bitsAt n 55 52 ≥ 7))

/-- The record verifies against the root key or the key that a valid owner certificate names. -/
def recordOk (c : Care) : Bool :=
  let rec_ := c.record.take 370
  decide (c.record.length ≥ 370) && recordFieldsOk c.record
    && (signedBy Config.rootKey rec_ || (ownerHolds c && signedBy (Config.ownerKey c.owner) rec_))

/-! ## Keys and measurements (R408) -/

/-- The private key that never leaves the hub. -/
def identityKey : List Byte := shake256 57 Config.pufResponse

/-- Measurements 1 to 4. -/
def measurements (c : Care) : List (List Byte) :=
  [ Config.romVersion, digest c.firmware, digest (c.record.take 256) ++ natBytes 2 (bitsAt (bytesNat (c.record.take 256)) 47 32),
    if c.owner.isEmpty then List.replicate 64 0 else digest c.owner ]

/-- Measurement 5: PINHOLE, ATT and LAST. -/
def modeMeasure (pinhole : Bool) (c : Care) : List Byte := [BitVec.ofNat 8 pinhole.toNat, BitVec.ofNat 8 c.att, BitVec.ofNat 8 c.last]

/-- The alias key of the measurements that the start fixed. -/
def aliasKey (s : State) : List Byte := shake256 57 (identityKey ++ (s.care.measures.take 4).flatten)

/-- The certificate of the alias key, which the identity key signs. -/
def aliasCert (s : State) : List Byte :=
  let body := Config.aliasForm (edPublic (aliasKey s)) (s.care.measures.take 4)
  body ++ edSign identityKey body

/-- The chain of slot 0 as SPDM lays it out: length, the root's digest, and root, DeviceID and alias. -/
def certChain (s : State) : List Byte :=
  let certs := Config.rootCert ++ Config.deviceCert ++ aliasCert s
  natBytes 2 (68 + certs.length) ++ [0, 0] ++ digest Config.rootCert ++ certs

/-! ## SPDM 1.3 responses (log 9) -/

/-- A message of SPDM 1.3: version, code, two parameters and the rest. -/
def spdm (code p1 p2 : Nat) (rest : List Byte) : List Byte := [0x13, BitVec.ofNat 8 code, BitVec.ofNat 8 p1, BitVec.ofNat 8 p2] ++ rest

/-- ERROR: 1 InvalidRequest, 4 UnexpectedRequest. -/
def spdmError (code : Nat) : List Byte := spdm 0x7F code 0 []

/-- A response over a port's mailbox under the alias key's signature, which also covers what the request brought. -/
def respond (s : State) (port : Port) (asked body : List Byte) : Host.Outcome State Fault Refusal :=
  if s.care.phase == .running || s.care.phase == .pinhole then
    .next (sendHost s (.spdm port (body ++ edSign (aliasKey s) (asked ++ body))))
  else .fault .notEnabled

/-- A response that needs agreed algorithms and slot 0. -/
def respondSlot (s : State) (port : Port) (slot : Nat) (asked body : List Byte) : Host.Outcome State Fault Refusal :=
  respond s port asked (if !s.care.spdm.contains port then spdmError 4 else if slot != 0 then spdmError 1 else body)

/-- GET_VERSION: the one entry 1.3; agreed algorithms lapse. -/
def execGetVersion (port : Port) (s : State) : Host.Outcome State Fault Refusal :=
  respond { s with care := { s.care with spdm := s.care.spdm.filter (· != port) } } port []
    ([0x10, 0x04, 0, 0] ++ [0, 1] ++ natBytes 2 0x1300)

/-- GET_CAPABILITIES: certificates, challenges and signed measurements. -/
def execGetCapabilities (port : Port) (s : State) : Host.Outcome State Fault Refusal :=
  respond s port [] (spdm 0x61 0 0 ([0, Config.spdmExponent, 0, 0] ++ natBytes 4 0x16 ++ natBytes 4 Config.spdmSize.toNat ++ natBytes 4 Config.spdmSize.toNat))

/-- ALGORITHMS: Ed448 where it is asked for, and SHAKE256 as an extended digest where it is. -/
def algorithms (sig hash : Bool) : List Byte :=
  spdm 0x63 0 0 (natBytes 2 (36 + 4 * hash.toNat) ++ [1, 0] ++ natBytes 4 1 ++ natBytes 4 (if sig then 0x800 else 0) ++ natBytes 4 0
    ++ List.replicate 12 0 ++ [0, BitVec.ofNat 8 hash.toNat, 0, 0] ++ (if hash then natBytes 4 Config.shakeName.toNat else []))

/-- NEGOTIATE_ALGORITHMS: Ed448 and SHAKE256, each named 0, and no other. -/
def execNegotiateAlgorithms (port : Port) (sig hash : Nat) (s : State) : Host.Outcome State Fault Refusal :=
  let agreed := if sig == 0 && hash == 0 then
    { s with care := { s.care with spdm := if s.care.spdm.contains port then s.care.spdm else port :: s.care.spdm } } else s
  respond agreed port [] (algorithms (sig == 0) (hash == 0))

/-- GET_DIGESTS: slot 0 alone. -/
def execGetDigests (port : Port) (s : State) : Host.Outcome State Fault Refusal :=
  respondSlot s port 0 [] (spdm 0x01 1 1 (digest (certChain s)))

/-- GET_CERTIFICATE: a portion of the chain and how much remains. -/
def execGetCertificate (port : Port) (slot off len : Nat) (s : State) : Host.Outcome State Fault Refusal :=
  let part := ((certChain s).drop off).take len
  respondSlot s port slot [] (if off < (certChain s).length
    then spdm 0x02 0 0 (natBytes 2 part.length ++ natBytes 2 ((certChain s).length - off - part.length) ++ part) else spdmError 1)

/-- The device's own nonce. -/
def spdmNonce (s : State) : List Byte := natBytes 32 (Config.spdmNonce s.freeCtr).toNat

/-- CHALLENGE_AUTH: the chain's digest and a nonce, signed with the requester's. -/
def execChallenge (port : Port) (slot : Nat) (nonce : List Byte) (s : State) : Host.Outcome State Fault Refusal :=
  respondSlot (nextFree s) port slot nonce (spdm 0x03 0 1 (digest (certChain s) ++ spdmNonce s ++ List.replicate 10 0))

/-- The type byte of a measurement in the layout of DMTF: immutable ROM, firmware, configuration, owner's configuration, mode. -/
def measureType (index : Nat) : Byte := [0x80#8, 0x01#8, 0x83#8, 0x03#8, 0x85#8].getD (index - 1) 0

/-- One measurement block: index, specification, size, and type, size and value. -/
def measureBlock (index : Nat) (v : List Byte) : List Byte :=
  [BitVec.ofNat 8 index, 1] ++ natBytes 2 (v.length + 3) ++ [measureType index] ++ natBytes 2 v.length ++ v

/-- MEASUREMENTS of index 0 (their number), 1 to 5, or 0xFF (all). -/
def measureBody (m : List (List Byte)) (index : Nat) (nonce : List Byte) : List Byte :=
  let blocks := (m.mapIdx (fun k v => (k + 1, v))).filter (fun p => index == 0xFF || p.1 == index)
  let record := blocks.flatMap (fun p => measureBlock p.1 p.2)
  if index != 0 && blocks.isEmpty then spdmError 1
  else spdm 0x60 (if index == 0 then m.length else 0) 0 ([BitVec.ofNat 8 blocks.length] ++ natBytes 3 record.length ++ record ++ nonce
    ++ List.replicate 10 0)

/-- GET_MEASUREMENTS. -/
def execGetMeasurements (port : Port) (index : Nat) (nonce : List Byte) (s : State) : Host.Outcome State Fault Refusal :=
  respondSlot (nextFree s) port 0 nonce (measureBody s.care.measures index (spdmNonce s))

end Sys2Proof.Machine
end

