-- ==== Sys2Proof/Machine/Care.lean ====
section
/-! DEFINITION. The life of the module (R403 to R416): start and its failures, resets, Pinhole mode, the checkpoint
registers, power and temperature, and errors found by the scrubber (R396, R397). -/

namespace Sys2Proof.Machine

open Sys2Proof

/-! ## Resets (R407) -/

/-- Memory that a reset of the module leaves: all but its SRAM. -/
def keptMemory (s : State) : Memory := s.mem.filter (fun c => !isSliceKey c.1)
/-- Memory that a loss of power leaves: what lies behind the CXL ports and in the host. -/
def farMemory (s : State) : Memory := s.mem.filter (fun c => !isSliceKey c.1 && c.1.testBit 51)

/-- The retained domain and the flash outlast a reset. -/
def retained (s : State) : Care :=
  { att := s.care.att, last := s.care.last, srce := s.care.srce, firmware := s.care.firmware, owner := s.care.owner,
    record := s.care.record, checkpoints := s.care.checkpoints }

/-- A reset of the module: the state before a start, with its source. -/
def moduleReset (s : State) (srce : Nat) : State :=
  { State.reset with
    mem := keptMemory s, poison := s.poison.filter (fun l => !isSliceKey (l * 128)), owners := s.owners
    care := { retained s with srce := srce }, freeCtr := s.freeCtr }

/-- Power goes: what it kept is lost. `standby` keeps the retained domain. -/
def powerOff (s : State) (standby : Bool) : State :=
  { State.reset with
    mem := farMemory s, poison := s.poison.filter (fun l => (l * 128).testBit 51), owners := s.owners.filter (fun p => (p.1 * 128).testBit 51)
    care := { retained s with
      phase := .off, srce := 0, att := if standby then s.care.att else 0, last := if standby then s.care.last else 0 }
    freeCtr := s.freeCtr }

/-! ## Start (R405, R407) -/

/-- The failure cause of steps 2 to 6, or none. -/
def startFault (c : Care) (r : StartInput) : Option Nat :=
  if !signedBy Config.rootKey c.firmware then some 1
  else if !c.owner.isEmpty && !ownerHolds c then some 3
  else if !recordOk c then some 2
  else if !r.memTrained then some 4
  else if !r.selfTest then some 5
  else none

/-- The root context (R331) over chips and cores. -/
def rootContext (span : Nat) (cores : BitVec 128) : Ctx :=
  { asid := 0, level := 0, parent := none,
    grant := { weight := 1, span := BitVec.ofNat 16 span, cset := cores, nqueue := 65536, sitq := Config.sitEntries },
    cxr := {}, left := 16383, feat := 0x3FFF, keyId := 0 }

def withRoot (s : State) (cores : BitVec 128) : State :=
  { s with ctxs := [rootContext ((fabricChips s).map (2 ^ ·)).sum cores], asidGen := [(0, 0)], fab := { s.fab with tags := [(0, 0, true)] } }

/-- Step 7: the ports that the port map uses, up where the peer that answers is the mapped one. -/
def trainPort (s : State) (peers : List (Option Nat)) (n : Nat) : State :=
  let peer := portPeer s n
  if peer == chipId s then s
  else
    let lp : LinkPort := { num := n, peer := peer }
    let put := fun (st : State) (l : LinkPort) => { st with fab := { st.fab with ports := st.fab.ports ++ [l] } }
    match peers.getD n none with
    | none => put s lp
    | some p => if p == peer then put s { lp with up := true } else linkNotice (put s { lp with disabled := true }) 6 n p none

/-- Steps 4 to 8 of a start that fails at none of them. -/
def startUp (s : State) (r : StartInput) : State :=
  let c := s.care
  let s1 := { State.reset with
    mem := keptMemory s, poison := s.poison.filter (fun l => !isSliceKey (l * 128)), owners := s.owners, freeCtr := s.freeCtr
    care := { c with phase := .running, config := c.record.take 256, measures := measurements c } }
  let s2 := withRoot ((List.range 15).foldl (fun st n => trainPort st r.peers n) s1) (~~~ 0)
  { s2 with care := { s2.care with att := 0, measures := s2.care.measures ++ [modeMeasure false s2.care] } }

/-- Pinhole mode: cluster 0 of die 0 and host memory. -/
def startPinhole (s : State) : State :=
  let c := s.care
  withRoot { State.reset with
    mem := keptMemory s, poison := s.poison, owners := s.owners, freeCtr := s.freeCtr
    care := { c with phase := .pinhole, config := [], measures := [[], [], [], [], modeMeasure true c] } } 0xF

def mayStart (s : State) : Bool := s.care.phase == .off || s.care.phase == .resetting

/-- START (R407). -/
def execStart (r : StartInput) (s : State) : Host.Outcome State Fault Refusal :=
  if !mayStart s then .fault .notEnabled
  else if s.care.att ≥ 3 then .next (startPinhole s)
  else
    let s1 := { s with care := { s.care with att := s.care.att + 1 } }
    .next (match startFault s1.care r with
      | some cause => moduleReset { s1 with care := { s1.care with last := cause } } s1.care.srce
      | none => startUp s1 r)

/-- WDOG (R407): the start that hangs has passed step 1. -/
def execWdog (s : State) : Host.Outcome State Fault Refusal :=
  if !mayStart s || s.care.att ≥ 3 then .fault .notEnabled
  else .next (moduleReset { s with care := { s.care with att := s.care.att + 1, last := 7 } } s.care.srce)

/-- BOOTCTL.CLR (R407). -/
def execBootctlClr (_ : Port) (s : State) : Host.Outcome State Fault Refusal := .next { s with care := { s.care with att := 0, last := 0 } }

/-- BOOTCTL.RST (R403, R407): of two writes in one cycle the port that lost the last tie wins. -/
def execBootctlRst (port : Port) (both : Bool) (s : State) : Host.Outcome State Fault Refusal :=
  let winner := if both then s.host.tieLost else port
  .next (moduleReset s (if winner == .a then 1 else 2))

/-- PCIE_FUNDAMENTAL_RESET (R407). -/
def execPcieFundamentalReset (s : State) : Host.Outcome State Fault Refusal :=
  if s.care.phase == .off then .fault .notEnabled else .next (moduleReset s 3)

/-- SIDEBAND_RESET (R407). -/
def execSidebandReset (s : State) : Host.Outcome State Fault Refusal :=
  if s.care.phase == .off then .fault .notEnabled else .next (moduleReset s 4)

/-- STANDBY_POWER_REMOVAL (R407). -/
def execStandbyPowerRemoval (s : State) : Host.Outcome State Fault Refusal := .next (powerOff s false)

/-- POWER_LOSS (R407, R411). -/
def execPowerLoss (standby : Bool) (s : State) : Host.Outcome State Fault Refusal := .next (powerOff s standby)

/-! ## Checkpoint registers (R409 to R411) -/

/-- A write of CKCTL with GO and an OP: it takes effect from the owner of semaphore 1, and not while an operation runs. -/
def checkpointGo (op : Nat) (port : Port) (data : W32) (s : State) (go : State → State) : Host.Outcome State Fault Refusal :=
  if !data.getLsbD 31 || bitsAt data.toNat 30 29 != op || !(s.care.phase == .running || s.care.phase == .pinhole) then .fault .notEnabled
  else if semOwner s 1 != some port || s.care.ckSt == 1 then .next s
  else
    .next (go { s with care := { s.care with
      ckGo := true, ckOp := BitVec.ofNat 2 op, ckScope := data.getLsbD 28, ckSt := 1, ckDone := 0, ckCause := 0, ckAt := s.care.ckBase } })

/-- Every context frozen from above (R347, R410). -/
def freezeAll (s : State) : State := freezeCtx s (rootAsid s) moduleIssuer

/-- CHECKPOINT_SAVE (R410): the target is checked before anything is frozen. -/
def execCheckpointSave (port : Port) (data : W32) (s : State) : Host.Outcome State Fault Refusal :=
  checkpointGo 0 port data s (fun st =>
    if tierThere st st.care.ckScope then checkpointStep (freezeAll (eraseImage st st.care.ckScope st.care.ckAt)) else endCheckpoint st 3 1)

/-- CHECKPOINT_RESTORE (R409, R410): a tier or an image that is absent changes nothing; else it waits until every context has stopped. -/
def execCheckpointRestore (port : Port) (data : W32) (s : State) : Host.Outcome State Fault Refusal :=
  checkpointGo 1 port data s (fun st =>
    if !tierUp st st.care.ckScope then endCheckpoint st 3 1 else if (findCheckpoint st).isNone then endCheckpoint st 3 2 else checkpointStep (freezeAll st))

/-- CHECKPOINT_THAW (R409, R410). -/
def execCheckpointThaw (port : Port) (data : W32) (s : State) : Host.Outcome State Fault Refusal :=
  checkpointGo 2 port data s (fun st =>
    endCheckpoint { st with ctxs := st.ctxs.map (fun c => { c with freezes := c.freezes.filter (· != moduleIssuer) }) } 2 0)

/-- TIER_PORT_LOST (R411): a checkpoint operation on that tier fails; the module stays frozen. -/
def execTierPortLost (expander : Bool) (n : Nat) (s : State) : Host.Outcome State Fault Refusal :=
  if n ≥ (if expander then 4 else 6) then .fault .notEnabled
  else
    let s1 := { s with care := { s.care with lostTier := if s.care.lostTier.contains (expander, n) then s.care.lostTier
      else (expander, n) :: s.care.lostTier } }
    .next (if s1.care.ckSt == 1 && s1.care.ckScope == expander then endCheckpoint s1 3 0xFF else s1)

/-! ## Power and temperature (R416) -/

def plimOf (s : State) : Nat := cfgBits s 143 132

/-- POWER_LIMIT_INTERVAL (R416). -/
def execPowerLimitInterval (watts celsius : Nat) (s : State) : Host.Outcome State Fault Refusal :=
  if s.care.phase != .running then .fault .notEnabled
  else
    let past := decide (watts > plimOf s)
    let hot := decide (celsius > 100)
    let power := past || (s.care.thr.getLsbD 0 && decide (100 * watts ≥ 95 * plimOf s))
    let f := s.care.fclk
    let f1 := if past || hot then max 1000 (f - 100) else if decide (100 * watts < 95 * plimOf s) then min 2700 (f + 100) else f
    .next { s with care := { s.care with
      pwr := watts, tj := celsius, fclk := f1, thr := BitVec.ofNat 2 (power.toNat + 2 * hot.toNat) } }

/-- THERMAL_TRIP (R416): power is removed, and the next start reports it. -/
def execThermalTrip (s : State) : Host.Outcome State Fault Refusal :=
  if s.care.phase == .off then .fault .notEnabled
  else
    let s1 := powerOff s true
    .next { s1 with care := { s1.care with srce := 5, last := 6 } }

/-! ## The scrubber (R396, R397) -/

/-- The context that holds a grant of a core, nearest first. -/
def grantHolder (s : State) (core g : Nat) : Nat :=
  ((sortBy (fun (a b : Ctx) => decide (b.level ≤ a.level)) (s.ctxs.filter (fun c => (heldGrants s [c.asid]).contains (core, g)))).head?.map (·.asid)).getD 0

/-- The contexts with a team on a core. -/
def residents (s : State) (core : Nat) : List Nat := ((s.teams.filter (fun t => t.home == .core core)).map (·.asid)).eraseDups

/-- An error in an array that holds a resident context's values. -/
def arrayError (s : State) (core kind : Nat) : State :=
  let p := pickFrom s (residents s core)
  let owner := p.1.getD 0
  containOwner p.2 owner (owner * 2 ^ 52 + kind * 2 ^ 66) core

/-- SCRUB (R396, R397): a single-bit error is corrected unseen; another is contained. -/
def execScrub (at_ : ErrPlace) (bad : Bool) (s : State) : Host.Outcome State Fault Refusal :=
  if !bad then .next s
  else
    let poisonLine := fun (l : Nat) => { s with poison := if s.poison.contains l then s.poison else l :: s.poison }
    match at_ with
    | .line pa =>
      if !hostReach s pa 1 then .fault .notEnabled
      else
        let l := pa / 128
        let owner := ownerOf s l
        .next (containOwner (poisonLine l) owner (l * 128 + owner * 2 ^ 52) (paCore pa))
    | .slice core off =>
      if !sliceReach core off 1 then .fault .notEnabled
      else
        let owner := grantHolder s core (off / 65536)
        .next (containOwner (poisonLine (sliceKey core off / 128)) owner (owner * 2 ^ 52 + 2 ^ 66) core)
    | .regfile core => .next (arrayError s core 2)
    | .accum core => .next (arrayError s core 3)
    | .cleanLine _ => .next s

end Sys2Proof.Machine
end

