-- ==== Sys2Proof/Machine/Float.lean ====
section
/-! DEFINITION. Floating-point arithmetic, comparison, division, roots, transcendentals, rounding, classes and scaling: opcodes
0x60 to 0x8D (R120 to R131), with the seed of stochastic rounding (R40, R141). -/

namespace Sys2Proof.Machine

open Sys2Proof

/-! ## Elements and the seed -/

/-- The element format of a floating-point type, and how many elements a value has. -/
def floatFmt (t : BitVec 6) : Fmt :=
  match t.toNat with
  | 0x11 => fmtF64
  | 0x12 => fmtF16
  | 0x13 => fmtBF16
  | 0x14 => fmtE4M3
  | 0x15 => fmtE5M2
  | 0x16 => fmtE2M1
  | _ => fmtF32

def floatCount (t : BitVec 6) : Nat :=
  match t.toNat with
  | 0x12 | 0x13 => 2
  | 0x14 | 0x15 => 4
  | 0x16 => 8
  | _ => 1

/-- Elements of an operand, element 0 first. -/
def floatElems (c : Cur) (t : BitVec 6) (o : Opd) : List Nat :=
  elements (fmtWidth (floatFmt t)) (floatCount t) (opdNat c (ty64 t) o)

/-- Elements packed into a result of the type. -/
def floatResult (t : BitVec 6) (d : Nat) (es : List Nat) : List (Nat × Reg) :=
  resultAs t d (BitVec.ofNat 64 (packElements (fmtWidth (floatFmt t)) es))

/-- Random bits of element e: drawn from sr.seed under `.rsr` only (R40). -/
def randomBits (mode : Nat) (c : Cur) (e : Nat) : Nat := if mode == 4 then seedBits c.th.seed e else 0

/-- sr.seed after the instruction (R40). -/
def seedAfter (mode : Nat) (c : Cur) : Option W64 := if mode == 4 then some (c.th.seed + 1) else none

/-- Writes of registers with the seed's advance. -/
def outSeed (mode : Nat) (c : Cur) (regs : List (Nat × Reg)) : Writes := { regs := regs, seed := seedAfter mode c }

/-- NC, MODB bit 0 of the fused forms (R120). -/
def negC (o : Long) : Bool := o.modb.getLsbD 0

/-! ## Arithmetic (R122 to R124) -/

/-- An element operation: format, rounding mode, random bits, saturation, operands. -/
abbrev ElemOp := Fmt → Nat → Nat → Bool → Nat → Nat → Nat

def subElem : ElemOp := fun f mode r sat a b => addElem f mode r sat a (flipSign f true b)
def minElem : ElemOp := fun f _ _ _ a b => minmaxElem f false a b
def maxElem : ElemOp := fun f _ _ _ a b => minmaxElem f true a b

def floatA (i : Instr) (o : Short) (f : ElemOp) (s : State) : Host.Outcome State Fault Refusal :=
  runAlu i (sigR (useTyped 0x10 (.v o.d.toNat) ++ useTyped 0x10 (.v o.s.toNat) ++ useDst o.d.toNat 1)) (fun c =>
    outR (resultAs 0x10 o.d.toNat
      (BitVec.ofNat 64 (f fmtF32 0 0 false (opdNat c false (.v o.d.toNat)) (opdNat c false (.v o.s.toNat)))))) s

/-- The long forms of R122, element by element. -/
def floatLong (i : Instr) (o : Long) (f : ElemOp) (s : State) : Host.Outcome State Fault Refusal :=
  let fmt := floatFmt o.sub
  let b := srcB o o.sub
  runAlu i (sigR (useTyped o.sub (srcA o) ++ useTyped o.sub b ++ useDst o.dst.toNat (tyRegs o.sub))) (fun c =>
    let xs := (floatElems c o.sub (srcA o)).map (flipSign fmt o.na)
    let ys := (floatElems c o.sub b).map (flipSign fmt o.nb)
    outSeed o.rnd c (floatResult o.sub o.dst.toNat ((List.range xs.length).map (fun e =>
      f fmt o.rnd (randomBits o.rnd c e) o.sat (xs.getD e 0) (ys.getD e 0))))) s

/-- The fused forms. -/
def floatFma (i : Instr) (o : Long) (s : State) : Host.Outcome State Fault Refusal :=
  let fmt := floatFmt o.sub
  let b := srcB o o.sub
  runAlu i (sigR (useTyped o.sub (srcA o) ++ useTyped o.sub b ++ useTyped o.sub (srcC o)
      ++ useDst o.dst.toNat (tyRegs o.sub))) (fun c =>
    let xs := (floatElems c o.sub (srcA o)).map (flipSign fmt o.na)
    let ys := (floatElems c o.sub b).map (flipSign fmt o.nb)
    let zs := (floatElems c o.sub (srcC o)).map (flipSign fmt (negC o))
    outSeed o.rnd c (floatResult o.sub o.dst.toNat ((List.range xs.length).map (fun e =>
      fmaElem fmt o.rnd (randomBits o.rnd c e) o.sat (xs.getD e 0) (ys.getD e 0) (zs.getD e 0))))) s

def execFaddA (o : Short) (s : State) : Host.Outcome State Fault Refusal := floatA (.faddA o) o addElem s
def execFadd (o : Long) (s : State) : Host.Outcome State Fault Refusal := floatLong (.fadd o) o addElem s
def execFsubA (o : Short) (s : State) : Host.Outcome State Fault Refusal := floatA (.fsubA o) o subElem s
def execFsub (o : Long) (s : State) : Host.Outcome State Fault Refusal := floatLong (.fsub o) o subElem s
def execFmulA (o : Short) (s : State) : Host.Outcome State Fault Refusal := floatA (.fmulA o) o mulElem s
def execFmul (o : Long) (s : State) : Host.Outcome State Fault Refusal := floatLong (.fmul o) o mulElem s
def execFfma (o : Long) (s : State) : Host.Outcome State Fault Refusal := floatFma (.ffma o) o s
def execFminA (o : Short) (s : State) : Host.Outcome State Fault Refusal := floatA (.fminA o) o minElem s
def execFmin (o : Long) (s : State) : Host.Outcome State Fault Refusal := floatLong (.fmin o) o minElem s
def execFmaxA (o : Short) (s : State) : Host.Outcome State Fault Refusal := floatA (.fmaxA o) o maxElem s
def execFmax (o : Long) (s : State) : Host.Outcome State Fault Refusal := floatLong (.fmax o) o maxElem s
def execDadd (o : Long) (s : State) : Host.Outcome State Fault Refusal := floatLong (.dadd o) o addElem s
def execDmul (o : Long) (s : State) : Host.Outcome State Fault Refusal := floatLong (.dmul o) o mulElem s
def execDfma (o : Long) (s : State) : Host.Outcome State Fault Refusal := floatFma (.dfma o) o s
def execDmin (o : Long) (s : State) : Host.Outcome State Fault Refusal := floatLong (.dmin o) o minElem s
def execDmax (o : Long) (s : State) : Host.Outcome State Fault Refusal := floatLong (.dmax o) o maxElem s
def execHadd2 (o : Long) (s : State) : Host.Outcome State Fault Refusal := floatLong (.hadd2 o) o addElem s
def execHmul2 (o : Long) (s : State) : Host.Outcome State Fault Refusal := floatLong (.hmul2 o) o mulElem s
def execHfma2 (o : Long) (s : State) : Host.Outcome State Fault Refusal := floatFma (.hfma2 o) o s
def execHmin2 (o : Long) (s : State) : Host.Outcome State Fault Refusal := floatLong (.hmin2 o) o minElem s
def execHmax2 (o : Long) (s : State) : Host.Outcome State Fault Refusal := floatLong (.hmax2 o) o maxElem s

/-! ## Comparisons (R125) -/

/-- *pe*, the predicate of element 1 of `hset2`. -/
def setPe (o : Long) : Nat := o.dst.toNat / 64 % 8

def floatSet (i : Instr) (o : Long) (s : State) : Host.Outcome State Fault Refusal :=
  let fmt := floatFmt o.sub
  let b := srcB o o.sub
  let pds := if floatCount o.sub == 2 then [setPd o, setPe o] else [setPd o]
  runAlu i (sigP (useTyped o.sub (srcA o) ++ useTyped o.sub b) (combReads o) pds) (fun c =>
    let xs := (floatElems c o.sub (srcA o)).map (flipSign fmt o.na)
    let ys := (floatElems c o.sub b).map (flipSign fmt o.nb)
    { preds := ((List.range pds.length).zip pds).map (fun p =>
        (p.2, combined o c.th.preds (compareElem fmt (setCode o) (xs.getD p.1 0) (ys.getD p.1 0)))) }) s

def execFset (o : Long) (s : State) : Host.Outcome State Fault Refusal := floatSet (.fset o) o s
def execDset (o : Long) (s : State) : Host.Outcome State Fault Refusal := floatSet (.dset o) o s
def execHset2 (o : Long) (s : State) : Host.Outcome State Fault Refusal := floatSet (.hset2 o) o s

/-! ## One operand (R126 to R130) -/

/-- A one-operand operation: format, rounding mode, saturation, operand. -/
abbrev ElemFn := Fmt → Nat → Bool → Nat → Nat

def oneCode (f : Fmt) : Nat := f.bias * 2 ^ f.mbits
def rcpFn : ElemFn := fun f mode sat a => divElem f mode sat (oneCode f) a
def sqrtFn : ElemFn := fun f mode _ a => sqrtElem f mode a
def rndFn : ElemFn := fun f mode _ a => integralElem f mode a
def frcFn : ElemFn := fun _ _ _ a => fractionElem a
def pickFn (f : W32 → W32) : ElemFn := fun _ _ _ a => (f (BitVec.ofNat 32 a)).toNat

def floatA1 (i : Instr) (o : Short) (f : ElemFn) (s : State) : Host.Outcome State Fault Refusal :=
  runAlu i (sigR (useTyped 0x10 (.v o.s.toNat) ++ useDst o.d.toNat 1)) (fun c =>
    outR (resultAs 0x10 o.d.toNat (BitVec.ofNat 64 (f fmtF32 0 false (opdNat c false (.v o.s.toNat)))))) s

def floatLong1 (i : Instr) (o : Long) (f : ElemFn) (s : State) : Host.Outcome State Fault Refusal :=
  let fmt := floatFmt o.sub
  runAlu i (sigR (useTyped o.sub (srcA o) ++ useDst o.dst.toNat (tyRegs o.sub))) (fun c =>
    let x := flipSign fmt o.na (opdNat c (ty64 o.sub) (srcA o))
    outR (resultAs o.sub o.dst.toNat (BitVec.ofNat 64 (f fmt o.rnd o.sat x)))) s

def divOp : ElemOp := fun f mode _ sat a b => divElem f mode sat a b

def execFrcpA (o : Short) (s : State) : Host.Outcome State Fault Refusal := floatA1 (.frcpA o) o rcpFn s
def execFrcp (o : Long) (s : State) : Host.Outcome State Fault Refusal := floatLong1 (.frcp o) o rcpFn s
def execFrsqA (o : Short) (s : State) : Host.Outcome State Fault Refusal := floatA1 (.frsqA o) o (pickFn frsqElem) s
def execFrsq (o : Long) (s : State) : Host.Outcome State Fault Refusal := floatLong1 (.frsq o) o (pickFn frsqElem) s
def execFsqrtA (o : Short) (s : State) : Host.Outcome State Fault Refusal := floatA1 (.fsqrtA o) o sqrtFn s
def execFsqrt (o : Long) (s : State) : Host.Outcome State Fault Refusal := floatLong1 (.fsqrt o) o sqrtFn s
def execFdivA (o : Short) (s : State) : Host.Outcome State Fault Refusal := floatA (.fdivA o) o divOp s
def execFdiv (o : Long) (s : State) : Host.Outcome State Fault Refusal := floatLong (.fdiv o) o divOp s
def execFex2A (o : Short) (s : State) : Host.Outcome State Fault Refusal := floatA1 (.fex2A o) o (pickFn fex2Elem) s
def execFex2 (o : Long) (s : State) : Host.Outcome State Fault Refusal := floatLong1 (.fex2 o) o (pickFn fex2Elem) s
def execFlg2A (o : Short) (s : State) : Host.Outcome State Fault Refusal := floatA1 (.flg2A o) o (pickFn flg2Elem) s
def execFlg2 (o : Long) (s : State) : Host.Outcome State Fault Refusal := floatLong1 (.flg2 o) o (pickFn flg2Elem) s
def execFsinA (o : Short) (s : State) : Host.Outcome State Fault Refusal := floatA1 (.fsinA o) o (pickFn fsinElem) s
def execFsin (o : Long) (s : State) : Host.Outcome State Fault Refusal := floatLong1 (.fsin o) o (pickFn fsinElem) s
def execFcosA (o : Short) (s : State) : Host.Outcome State Fault Refusal := floatA1 (.fcosA o) o (pickFn fcosElem) s
def execFcos (o : Long) (s : State) : Host.Outcome State Fault Refusal := floatLong1 (.fcos o) o (pickFn fcosElem) s
def execDdiv (o : Long) (s : State) : Host.Outcome State Fault Refusal := floatLong (.ddiv o) o divOp s
def execDsqrt (o : Long) (s : State) : Host.Outcome State Fault Refusal := floatLong1 (.dsqrt o) o sqrtFn s
def execFrndA (o : Short) (s : State) : Host.Outcome State Fault Refusal := floatA1 (.frndA o) o rndFn s
def execFrnd (o : Long) (s : State) : Host.Outcome State Fault Refusal := floatLong1 (.frnd o) o rndFn s
def execDfrnd (o : Long) (s : State) : Host.Outcome State Fault Refusal := floatLong1 (.dfrnd o) o rndFn s
def execFfrcA (o : Short) (s : State) : Host.Outcome State Fault Refusal := floatA1 (.ffrcA o) o frcFn s
def execFfrc (o : Long) (s : State) : Host.Outcome State Fault Refusal := floatLong1 (.ffrc o) o frcFn s

/-- `fclass` (R130). -/
def execFclassA (o : Short) (s : State) : Host.Outcome State Fault Refusal :=
  runAlu (.fclassA o) (sigR (useTyped 0x10 (.v o.s.toNat) ++ useDst o.d.toNat 1)) (fun c =>
    outR (result32 o.d.toNat (BitVec.ofNat 32 (classMask (opdNat c false (.v o.s.toNat)))) .b32)) s

def execFclass (o : Long) (s : State) : Host.Outcome State Fault Refusal :=
  runAlu (.fclass o) (sigR (useTyped 0x10 (srcA o) ++ useDst o.dst.toNat 1)) (fun c =>
    outR (result32 o.dst.toNat (BitVec.ofNat 32 (classMask (opdNat c false (srcA o)))) .b32)) s

/-! ## Scaling and quantising (R131) -/

/-- The exponent operand: SB, a signed 32-bit integer, or IMM16 sign-extended. -/
def scaleOpd (o : Long) : Opd := srcB o 0x00

/-- n, held to a range beyond which every F32 result is the same; fscale's n is otherwise as given. -/
def scaleExp (c : Cur) (o : Long) : Int := clampInt (-2000) 2000 (opdInt c 0x00 (scaleOpd o))

/-- E: n clamped to the range of R53. -/
def gridExp (c : Cur) (o : Long) : Int := clampInt (-126) 127 (opdInt c 0x00 (scaleOpd o))

/-- The third source of the C form. -/
def scaleThird (o : Long) : Option Opd :=
  match o.form with
  | .c => some (srcC o)
  | _ => none

/-- `fscale` (R131). -/
def execFscale (o : Long) (s : State) : Host.Outcome State Fault Refusal :=
  let third := scaleThird o
  runAlu (.fscale o) (sigR (useTyped 0x10 (srcA o) ++ useTyped 0x00 (scaleOpd o)
      ++ (match third with | some x => useTyped 0x10 x | none => []) ++ useDst o.dst.toNat 1)) (fun c =>
    let a := flipSign fmtF32 o.na (opdNat c false (srcA o))
    let v := scaleElem o.rnd (randomBits o.rnd c 0) o.sat a (scaleExp c o) (third.map (opdNat c false))
    outSeed o.rnd c (resultAs 0x10 o.dst.toNat (BitVec.ofNat 64 v))) s

/-- `fqnt` (R131). -/
def execFqnt (o : Long) (s : State) : Host.Outcome State Fault Refusal :=
  let third := scaleThird o
  runAlu (.fqnt o) (sigR (useTyped 0x10 (srcA o) ++ useTyped 0x00 (scaleOpd o)
      ++ (match third with | some x => useTyped 0x02 x | none => []) ++ useDst o.dst.toNat 2)) (fun c =>
    let a := flipSign fmtF32 o.na (opdNat c false (srcA o))
    let q := quantise o.rnd (randomBits o.rnd c 0) a (gridExp c o)
    let z := match third with
      | some x => q + opdInt c 0x02 x
      | none => q
    outSeed o.rnd c (resultAs 0x02 o.dst.toNat (intResult 0x02 o.sat z))) s

/-- `fdeq` (R131). -/
def execFdeq (o : Long) (s : State) : Host.Outcome State Fault Refusal :=
  let third := scaleThird o
  runAlu (.fdeq o) (sigR (useTyped 0x02 (srcA o) ++ useTyped 0x00 (scaleOpd o)
      ++ (match third with | some x => useTyped 0x02 x | none => []) ++ useDst o.dst.toNat 1)) (fun c =>
    let a := opdInt c 0x02 (srcA o)
    let z := match third with
      | some x => a + opdInt c 0x02 x
      | none => a
    outSeed o.rnd c (resultAs 0x10 o.dst.toNat
      (BitVec.ofNat 64 (dequantise o.rnd (randomBits o.rnd c 0) o.sat z (gridExp c o))))) s

end Sys2Proof.Machine
end

