-- ==== Sys2Proof/Machine/Logic.lean ====
section
/-! DEFINITION. Logic, shifts, bit counts, bit fields, byte permutation, selection, moves and address forming: opcodes 0x10 to
0x2B (R90 to R97). -/

namespace Sys2Proof.Machine

open Sys2Proof

/-! ## Untyped logic (R28, R90) -/

/-- Register j of an untyped result: the operation on register j of each source, tagged as R28 says. -/
def rawReg (c : Cur) (srcs : List Opd) (f : List W32 → W32) (j : Nat) : Reg :=
  let rs := srcs.map (fun o => opdReg c o j)
  { val := f (rs.map (·.val)), tag := untypedTag (rs.map (·.tag)) }

/-- An untyped result of n registers. -/
def rawResult (c : Cur) (d n : Nat) (srcs : List Opd) (f : List W32 → W32) : List (Nat × Reg) :=
  (List.range n).map (fun j => (d + j, rawReg c srcs f j))

/-- A bitwise operation folded over its sources from the left. -/
def fold1 (f : W32 → W32 → W32) (l : List W32) : W32 :=
  match l with
  | [] => 0
  | a :: r => r.foldl f a

def logicA (i : Instr) (o : Short) (f : W32 → W32 → W32) (s : State) : Host.Outcome State Fault Refusal :=
  runAlu i (sigR (useRaw 1 (.v o.d.toNat) ++ useRaw 1 (.v o.s.toNat) ++ useDst o.d.toNat 1)) (fun c =>
    (outR (rawResult c o.d.toNat 1 [.v o.d.toNat, .v o.s.toNat] (fold1 f)))) s

def logicLong (i : Instr) (o : Long) (f : W32 → W32 → W32) (s : State) : Host.Outcome State Fault Refusal :=
  let n := tyRegs o.sub
  let srcs := [srcA o, srcB o o.sub] ++ (if o.tri then [srcC o] else [])
  runAlu i (sigR (srcs.flatMap (useRaw n) ++ useDst o.dst.toNat n)) (fun c =>
    (outR (rawResult c o.dst.toNat n srcs (fold1 f)))) s

def andNot (a b : W32) : W32 := a &&& ~~~ b

def execAndA (o : Short) (s : State) : Host.Outcome State Fault Refusal := logicA (.andA o) o (· &&& ·) s
def execAnd (o : Long) (s : State) : Host.Outcome State Fault Refusal := logicLong (.and o) o (· &&& ·) s
def execOrA (o : Short) (s : State) : Host.Outcome State Fault Refusal := logicA (.orA o) o (· ||| ·) s
def execOr (o : Long) (s : State) : Host.Outcome State Fault Refusal := logicLong (.or o) o (· ||| ·) s
def execXorA (o : Short) (s : State) : Host.Outcome State Fault Refusal := logicA (.xorA o) o (· ^^^ ·) s
def execXor (o : Long) (s : State) : Host.Outcome State Fault Refusal := logicLong (.xor o) o (· ^^^ ·) s
def execAndnA (o : Short) (s : State) : Host.Outcome State Fault Refusal := logicA (.andnA o) o andNot s
def execAndn (o : Long) (s : State) : Host.Outcome State Fault Refusal := logicLong (.andn o) o andNot s

/-- The 32-bit form of an untyped copy of SRC through an operation. -/
def rawA1 (i : Instr) (o : Short) (f : W32 → W32) (s : State) : Host.Outcome State Fault Refusal :=
  runAlu i (sigR (useRaw 1 (.v o.s.toNat) ++ useDst o.d.toNat 1)) (fun c =>
    (outR (rawResult c o.d.toNat 1 [.v o.s.toNat] (fun l => f (l.headD 0))))) s

/-- The long form, over n registers. -/
def rawLong1 (i : Instr) (o : Long) (n : Nat) (f : W32 → W32) (s : State) : Host.Outcome State Fault Refusal :=
  runAlu i (sigR (useRaw n (srcA o) ++ useDst o.dst.toNat n)) (fun c =>
    (outR (rawResult c o.dst.toNat n [srcA o] (fun l => f (l.headD 0))))) s

def execNotA (o : Short) (s : State) : Host.Outcome State Fault Refusal := rawA1 (.notA o) o (~~~ ·) s
def execNot (o : Long) (s : State) : Host.Outcome State Fault Refusal := rawLong1 (.not o) o (tyRegs o.sub) (~~~ ·) s

/-! ## Shifts (R91) -/

def shlBits (w a n : Nat) : Nat := if n < w then a * 2 ^ n % 2 ^ w else 0
def shrBits (w a n : Nat) : Nat := if n < w then a / 2 ^ n else 0
def sarBits (w a n : Nat) : Nat := wrapTo w (toSigned w a / (2 : Int) ^ min n (w - 1))
def rolBits (w a n : Nat) : Nat :=
  let k := n % w
  (a * 2 ^ k + a / 2 ^ (w - k)) % 2 ^ w
def rorBits (w a n : Nat) : Nat := rolBits w a (w - n % w)

def shiftAi (i : Instr) (o : Short) (f : Nat → Nat → Nat → Nat) (s : State) : Host.Outcome State Fault Refusal :=
  runAlu i (sigAi o) (fun c =>
    (outR (resultAs 0x0A o.d.toNat (BitVec.ofNat 64 (f 32 (opd32 c (.v o.d.toNat)).toNat o.s.toNat))))) s

/-- The count of a shift: SB as an unsigned 32-bit value, or IMM16 [7:0] (R91). -/
def shiftCount (o : Long) : Opd :=
  match o.tail with
  | .bi i => .imm ((i.extractLsb' 0 8).setWidth 64)
  | _ => regOpd o.kb o.sb

/-- The long forms: the C form adds SC after the shift. -/
def shiftLong (i : Instr) (o : Long) (f : Nat → Nat → Nat → Nat) (s : State) : Host.Outcome State Fault Refusal :=
  let add := o.form == .c
  runAlu i (sigR (useTyped o.sub (srcA o) ++ useOpd (shiftCount o) 1 [.b32]
      ++ (if add then useTyped o.sub (srcC o) else []) ++ useDst o.dst.toNat (tyRegs o.sub))) (fun c =>
    let x := f (tyWidth o.sub) (opdNat c (ty64 o.sub) (srcA o)) (opd32 c (shiftCount o)).toNat
    let y := if add then x + opdNat c (ty64 o.sub) (srcC o) else x
    (outR (resultAs o.sub o.dst.toNat (BitVec.ofNat 64 y)))) s

def execShlAi (o : Short) (s : State) : Host.Outcome State Fault Refusal := shiftAi (.shlAi o) o shlBits s
def execShl (o : Long) (s : State) : Host.Outcome State Fault Refusal := shiftLong (.shl o) o shlBits s
def execShrAi (o : Short) (s : State) : Host.Outcome State Fault Refusal := shiftAi (.shrAi o) o shrBits s
def execShr (o : Long) (s : State) : Host.Outcome State Fault Refusal := shiftLong (.shr o) o shrBits s
def execSarAi (o : Short) (s : State) : Host.Outcome State Fault Refusal := shiftAi (.sarAi o) o sarBits s
def execSar (o : Long) (s : State) : Host.Outcome State Fault Refusal := shiftLong (.sar o) o sarBits s
def execRolAi (o : Short) (s : State) : Host.Outcome State Fault Refusal := shiftAi (.rolAi o) o rolBits s
def execRol (o : Long) (s : State) : Host.Outcome State Fault Refusal := shiftLong (.rol o) o rolBits s
def execRorAi (o : Short) (s : State) : Host.Outcome State Fault Refusal := shiftAi (.rorAi o) o rorBits s
def execRor (o : Long) (s : State) : Host.Outcome State Fault Refusal := shiftLong (.ror o) o rorBits s

/-! ## Bit counts (R92) -/

/-- Bits of a w-bit value, bit 0 first. -/
def bitList (w a : Nat) : List Bool := (List.range w).map (fun i => a.testBit i)

def popcBits (w a : Nat) : Nat := ((bitList w a).filter id).length
def ctzBits (w a : Nat) : Nat := ((bitList w a).takeWhile (!·)).length
def clzBits (w a : Nat) : Nat := ((bitList w a).reverse.takeWhile (!·)).length
def brevBits (w a : Nat) : Nat := (bitList w a).foldl (fun n b => 2 * n + b.toNat) 0

def countA (i : Instr) (o : Short) (f : Nat → Nat → Nat) (s : State) : Host.Outcome State Fault Refusal :=
  runAlu i (sigA1 o) (fun c =>
    (outR (result32 o.d.toNat (BitVec.ofNat 32 (f 32 (opd32 c (.v o.s.toNat)).toNat)) .b32))) s

/-- The B form; `wide` results have the type's width, counts one register. -/
def countLong (i : Instr) (o : Long) (wide : Bool) (f : Nat → Nat → Nat) (s : State) : Host.Outcome State Fault Refusal :=
  runAlu i (sigR (useTyped o.sub (srcA o) ++ useDst o.dst.toNat (if wide then tyRegs o.sub else 1))) (fun c =>
    let v := f (tyWidth o.sub) (opdNat c (ty64 o.sub) (srcA o))
    (outR (resultAs (if wide then o.sub else 0x0A) o.dst.toNat (BitVec.ofNat 64 v)))) s

def execPopcA (o : Short) (s : State) : Host.Outcome State Fault Refusal := countA (.popcA o) o popcBits s
def execPopc (o : Long) (s : State) : Host.Outcome State Fault Refusal := countLong (.popc o) o false popcBits s
def execClzA (o : Short) (s : State) : Host.Outcome State Fault Refusal := countA (.clzA o) o clzBits s
def execClz (o : Long) (s : State) : Host.Outcome State Fault Refusal := countLong (.clz o) o false clzBits s
def execCtzA (o : Short) (s : State) : Host.Outcome State Fault Refusal := countA (.ctzA o) o ctzBits s
def execCtz (o : Long) (s : State) : Host.Outcome State Fault Refusal := countLong (.ctz o) o false ctzBits s
def execBrevA (o : Short) (s : State) : Host.Outcome State Fault Refusal := countA (.brevA o) o brevBits s
def execBrev (o : Long) (s : State) : Host.Outcome State Fault Refusal := countLong (.brev o) o true brevBits s

/-! ## Bit fields (R93) -/

/-- Position and length of a descriptor. -/
def fieldPos (d : Nat) : Nat := d % 256
def fieldLen (d : Nat) : Nat := d / 256 % 256

/-- The descriptor operand: SB, IMM16 zero-extended, or LIT. -/
def descOpd (o : Long) : Opd := srcB o 0x01

/-- The extraction of R93, of a value without bound. -/
def bfxValue (w : Nat) (signed : Bool) (a : Int) (pos len : Nat) : Int :=
  let l := min len w
  if l = 0 then 0
  else
    let f := (a / (2 : Int) ^ pos % (2 : Int) ^ l).toNat
    if signed then toSigned l f else (f : Int)

/-- The insertion of R93. -/
def bfiValue (w base value pos len : Nat) : Nat :=
  let l := min len w
  (List.range w).foldl (fun n k =>
    let b := if pos ≤ k && k < pos + l then value.testBit (k - pos) else base.testBit k
    n + b.toNat * 2 ^ k) 0

/-- `bfx` (R93). -/
def execBfx (o : Long) (s : State) : Host.Outcome State Fault Refusal :=
  runAlu (.bfx o) (sigR (useTyped o.sub (srcA o) ++ useOpd (descOpd o) 1 [.b32] ++ useDst o.dst.toNat (tyRegs o.sub)))
    (fun c =>
      let d := (opd32 c (descOpd o)).toNat
      let z := bfxValue (tyWidth o.sub) (tySigned o.sub) (opdInt c o.sub (srcA o)) (fieldPos d) (fieldLen d)
      (outR (resultAs o.sub o.dst.toNat (BitVec.ofInt 64 z)))) s

/-- The base of `bfi`: the old DST in the 64-bit forms, else SC. -/
def bfiBase (o : Long) : Opd :=
  match o.form with
  | .b | .bi => .v o.dst.toNat
  | _ => srcC o

/-- `bfi` (R93). -/
def execBfi (o : Long) (s : State) : Host.Outcome State Fault Refusal :=
  runAlu (.bfi o) (sigR (useTyped o.sub (srcA o) ++ useOpd (descOpd o) 1 [.b32] ++ useTyped o.sub (bfiBase o)
      ++ useDst o.dst.toNat (tyRegs o.sub))) (fun c =>
    let d := (opd32 c (descOpd o)).toNat
    let v := bfiValue (tyWidth o.sub) (opdNat c (ty64 o.sub) (bfiBase o)) (opdNat c (ty64 o.sub) (srcA o))
      (fieldPos d) (fieldLen d)
    (outR (resultAs o.sub o.dst.toNat (BitVec.ofNat 64 v)))) s

/-! ## Bytes, selection, moves -/

/-- One result byte of `prmt` (R94). -/
def prmtByte (x : W64) (nib : Nat) : Nat :=
  let b := x.toNat / 2 ^ (8 * (nib % 8)) % 256
  if nib / 8 % 2 == 0 then b else if b / 128 == 1 then 0xFF else 0

def prmtValue (x : W64) (sel : Nat) : Nat :=
  prmtByte x (sel % 16) + prmtByte x (sel / 16 % 16) * 2 ^ 8 + prmtByte x (sel / 256 % 16) * 2 ^ 16
    + prmtByte x (sel / 4096 % 16) * 2 ^ 24

/-- The operand b of `prmt`: the old DST, SB or LIT. -/
def prmtB (o : Long) : Opd :=
  match o.form with
  | .b | .bi => .v o.dst.toNat
  | _ => srcB o 0x0A

/-- The selector of `prmt`, where it is a register. -/
def prmtSelUse (o : Long) : List RegUse :=
  match o.form with
  | .b => useRaw 1 (regOpd o.kb o.sb)
  | _ => []

/-- `prmt` (R94). -/
def execPrmt (o : Long) (s : State) : Host.Outcome State Fault Refusal :=
  runAlu (.prmt o) (sigR (useRaw 1 (srcA o) ++ useRaw 1 (prmtB o) ++ prmtSelUse o ++ useDst o.dst.toNat 1)) (fun c =>
    let a := opdReg c (srcA o) 0
    let b := opdReg c (prmtB o) 0
    let sel := match o.form with
      | .b => (opd32 c (regOpd o.kb o.sb)).toNat % 2 ^ 16
      | _ => o.imm.toNat
    (outR (result32 o.dst.toNat (BitVec.ofNat 32 (prmtValue (cat64 a.val b.val) sel)) (untypedTag [a.tag, b.tag])))) s

/-- `sel` (R95). -/
def execSel (o : Long) (s : State) : Host.Outcome State Fault Refusal :=
  let n := tyRegs o.sub
  let b := srcB o o.sub
  let p := o.mod.toNat % 8
  runAlu (.sel o) (sigP (useRaw n (srcA o) ++ useRaw n b ++ useDst o.dst.toNat n) [p] []) (fun c =>
    let first := xor (readPred c.th.preds p) (o.mod.getLsbD 3)
    (outR (rawResult c o.dst.toNat n [srcA o, b] (fun l => if first then l.headD 0 else l.getD 1 0)))) s

def execMovA (o : Short) (s : State) : Host.Outcome State Fault Refusal := rawA1 (.movA o) o id s

/-- `mov` (R96). -/
def execMov (o : Long) (s : State) : Host.Outcome State Fault Refusal :=
  rawLong1 (.mov o) o (if o.sub == 0x0C then 4 else tyRegs o.sub) id s

/-- `movi` (R96), the 32-bit form. -/
def execMoviAi (o : Short) (s : State) : Host.Outcome State Fault Refusal :=
  runAlu (.moviAi o) (sigR (useDst o.d.toNat 1)) (fun _ => (outR (resultAs 0x00 o.d.toNat (imm8As true o.s)))) s

/-- `movi` (R96), the BI form. -/
def execMovi (o : Long) (s : State) : Host.Outcome State Fault Refusal :=
  runAlu (.movi o) (sigR (useDst o.dst.toNat (tyTags o.sub).length)) (fun _ =>
    (outR (resultAs o.sub o.dst.toNat (imm16As o.sub o.imm)))) s

/-- `movl` (R96). -/
def execMovl (o : Long) (s : State) : Host.Outcome State Fault Refusal :=
  runAlu (.movl o) (sigR (useDst o.dst.toNat (tyTags o.sub).length)) (fun _ =>
    (outR (resultAs o.sub o.dst.toNat o.lit))) s

/-- `lea` (R97). -/
def execLea (o : Long) (s : State) : Host.Outcome State Fault Refusal :=
  let x := srcB o o.sub
  runAlu (.lea o) (sigR (useRaw 2 (srcA o) ++ useTyped o.sub x ++ useDst o.dst.toNat 2)) (fun c =>
    let idx := opdInt c o.sub x
    let off := match o.form with
      | .b => idx * (2 : Int) ^ o.rnd
      | .bi => idx
      | _ => idx * (2 : Int) ^ o.rnd + toSigned 16 o.imm.toNat
    (outR (result64 o.dst.toNat (opd64 c (srcA o) + BitVec.ofInt 64 off) .b32))) s

/-! ## Predicate logic (R98) -/

/-- *pa*′ and *pb*′. -/
def predA (o : Long) (p : BitVec 7) : Bool := xor (readPred p (o.sa.toNat % 8)) (o.mod.getLsbD 0)
def predB (o : Long) (p : BitVec 7) : Bool := xor (readPred p (o.sb.toNat % 8)) (o.mod.getLsbD 1)

def predTwo (i : Instr) (o : Long) (f : Bool → Bool → Bool) (s : State) : Host.Outcome State Fault Refusal :=
  runAlu i { pr := [o.sa.toNat % 8, o.sb.toNat % 8], pw := [o.dst.toNat % 8] } (fun c =>
    { preds := [(o.dst.toNat % 8, f (predA o c.th.preds) (predB o c.th.preds))] }) s

def predOne (i : Instr) (o : Long) (f : Bool → Bool) (s : State) : Host.Outcome State Fault Refusal :=
  runAlu i { pr := [o.sa.toNat % 8], pw := [o.dst.toNat % 8] } (fun c =>
    { preds := [(o.dst.toNat % 8, f (predA o c.th.preds))] }) s

def execPand (o : Long) (s : State) : Host.Outcome State Fault Refusal := predTwo (.pand o) o (· && ·) s
def execPor (o : Long) (s : State) : Host.Outcome State Fault Refusal := predTwo (.por o) o (· || ·) s
def execPxor (o : Long) (s : State) : Host.Outcome State Fault Refusal := predTwo (.pxor o) o xor s
def execPnot (o : Long) (s : State) : Host.Outcome State Fault Refusal := predOne (.pnot o) o (!·) s
def execPmov (o : Long) (s : State) : Host.Outcome State Fault Refusal := predOne (.pmov o) o id s

def allPreds : List Nat := [0, 1, 2, 3, 4, 5, 6]

/-- `pmov.save` (R98). -/
def execPmovSave (o : Long) (s : State) : Host.Outcome State Fault Refusal :=
  runAlu (.pmovSave o) (sigP (useDst o.dst.toNat 1) allPreds []) (fun c =>
    (outR (result32 o.dst.toNat (predBits c.th.preds) .b32))) s

/-- `pmov.load` (R98). -/
def execPmovLoad (o : Long) (s : State) : Host.Outcome State Fault Refusal :=
  runAlu (.pmovLoad o) { regs := useRaw 1 (srcA o), pw := allPreds } (fun c =>
    { preds := allPreds.map (fun n => (n, (opd32 c (srcA o)).getLsbD n)) }) s

end Sys2Proof.Machine
end

