-- ==== Sys2Proof/Machine/Narrow.lean ====
section
/-! DEFINITION. Conversions, packing, tags, narrow dot products and the generator: opcodes 0x90 to 0x9B (R132 to R140). -/

namespace Sys2Proof.Machine

open Sys2Proof

/-! ## cvt (R132) -/

/-- A floating-point type of R66. -/
def tyFloat (t : BitVec 6) : Bool := decide (0x10 ≤ t.toNat)

/-- One scalar converted between types: the result in its own width. -/
def convertScalar (d t : BitVec 6) (mode r : Nat) (sat : Bool) (x : Nat) : Nat :=
  let wd := tyBits d
  match tyFloat t, tyFloat d with
  | true, true => convertFloat (floatFmt t) (floatFmt d) mode r sat x
  | true, false => wrapTo wd (floatToInt (floatFmt t) mode r wd (tySigned d) x)
  | false, true => intToFloat (floatFmt d) mode r sat (if tySigned t then toSigned (tyBits t) x else ((x % 2 ^ tyBits t : Nat) : Int))
  | false, false =>
    wrapTo wd (intToInt wd (tySigned d) sat (if tySigned t then toSigned (tyBits t) x else ((x % 2 ^ tyBits t : Nat) : Int)))

/-- An 8- or 16-bit integer result extended to 32 bits. -/
def widenResult (d : BitVec 6) (x : Nat) : Nat :=
  if tyFloat d then x
  else if tyBits d < 32 && tySigned d then wrapTo 32 (toSigned (tyBits d) x)
  else x

/-- `cvt` (R132). -/
def execCvt (o : Long) (s : State) : Host.Outcome State Fault Refusal :=
  let t : BitVec 6 := o.sb.setWidth 6
  runAlu (.cvt o) (sigR (useTyped t (srcA o) ++ useDst o.dst.toNat (tyTags o.sub).length)) (fun c =>
    let regs :=
      if floatCount t > 1 then
        let es := floatElems c t (srcA o)
        floatResult o.sub o.dst.toNat ((List.range es.length).map (fun e =>
          convertFloat (floatFmt t) (floatFmt o.sub) o.rnd (randomBits o.rnd c e) o.sat (es.getD e 0)))
      else
        let x := opdNat c (ty64 t) (srcA o)
        resultAs o.sub o.dst.toNat
          (BitVec.ofNat 64 (widenResult o.sub (convertScalar o.sub t o.rnd (randomBits o.rnd c 0) o.sat x)))
    outSeed o.rnd c regs) s

/-! ## pack and unpk (R133, R134) -/

/-- Packed tag, unpacked tag and element width of a packed format code. -/
def packTag (sub : BitVec 6) : Tag :=
  match sub.toNat with
  | 0 => .f16x2
  | 1 => .bf16x2
  | 2 => .e4m3x4
  | 3 => .e5m2x4
  | 4 => .e2m1x8
  | 5 => .i8x4
  | 6 => .i4x8
  | _ => .scl

def unpackedTag (sub : BitVec 6) : Tag := if sub == 5 || sub == 6 then .b32 else .f32

def packWidth (sub : BitVec 6) : Nat := 32 / packCount sub

def packFmt (sub : BitVec 6) : Fmt :=
  match sub.toNat with
  | 0 => fmtF16
  | 1 => fmtBF16
  | 2 => fmtE4M3
  | 3 => fmtE5M2
  | _ => fmtE2M1

/-- narrow of R134. -/
def narrowElem (sub : BitVec 6) (mode r : Nat) (sat : Bool) (x : Nat) : Nat :=
  match sub.toNat with
  | 5 => wrapTo 8 (intToInt 8 true sat (toSigned 32 x))
  | 6 => wrapTo 4 (intToInt 4 true sat (toSigned 32 x))
  | 7 => toE8M0 fmtF32 mode r sat x
  | _ => convertFloat fmtF32 (packFmt sub) mode r sat x

/-- widen of R134. -/
def widenElem (sub : BitVec 6) (x : Nat) : Nat :=
  match sub.toNat with
  | 5 => wrapTo 32 (toSigned 8 x)
  | 6 => wrapTo 32 (toSigned 4 x)
  | 7 => fromE8M0 fmtF32 x
  | _ => convertFloat (packFmt sub) fmtF32 0 0 false x

/-- The packed register's elements. -/
def packedElems (sub : BitVec 6) (v : W32) : List Nat := elements (packWidth sub) (packCount sub) v.toNat

/-- `pack` (R134); NA negates each F32 source (R120). -/
def execPack (o : Long) (s : State) : Host.Outcome State Fault Refusal :=
  let n := packCount o.sub
  let ut := unpackedTag o.sub
  let pt := packTag o.sub
  let d := o.dst.toNat
  match o.form with
  | .c =>
    let j := o.imm.toNat
    runAlu (.pack o) (sigR (useOpd (srcA o) 1 [ut] ++ useOpd (.v d) 1 [pt] ++ useDst d 1)) (fun c =>
      let x := narrowElem o.sub o.rnd (randomBits o.rnd c j) o.sat (flipSign fmtF32 o.na (opdNat c false (srcA o)))
      outSeed o.rnd c (result32 d (BitVec.ofNat 32
        (packElements (packWidth o.sub) ((packedElems o.sub (opd32 c (.v d))).set j x))) pt)) s
  | _ =>
    runAlu (.pack o) (sigR (useOpd (.v o.sa.toNat) n (List.replicate n ut) ++ useDst d 1)) (fun c =>
      let es := (List.range n).map (fun e =>
        narrowElem o.sub o.rnd (randomBits o.rnd c e) o.sat (flipSign fmtF32 o.na (opdReg c (.v o.sa.toNat) e).val.toNat))
      outSeed o.rnd c (result32 d (BitVec.ofNat 32 (packElements (packWidth o.sub) es)) pt)) s

/-- `unpk` (R134). -/
def execUnpk (o : Long) (s : State) : Host.Outcome State Fault Refusal :=
  let ut := unpackedTag o.sub
  let d := o.dst.toNat
  let one := fun (c : Cur) (e : Nat) =>
    ({ val := BitVec.ofNat 32 (widenElem o.sub ((packedElems o.sub (opd32 c (srcA o))).getD e 0)), tag := ut } : Reg)
  match o.form with
  | .bi =>
    runAlu (.unpk o) (sigR (useOpd (srcA o) 1 [packTag o.sub] ++ useDst d 1)) (fun c => outR [(d, one c o.imm.toNat)]) s
  | _ =>
    let n := packCount o.sub
    runAlu (.unpk o) (sigR (useOpd (srcA o) 1 [packTag o.sub] ++ useDst d n)) (fun c =>
      outR ((List.range n).map (fun e => (d + e, one c e)))) s

/-! ## Tags (R135) -/

/-- `tagset`. -/
def execTagset (o : Long) (s : State) : Host.Outcome State Fault Refusal :=
  runAlu (.tagset o) (sigR (useRaw 1 (srcA o) ++ useDst o.dst.toNat 1)) (fun c =>
    outR (result32 o.dst.toNat (opd32 c (srcA o)) (codeTag o.imm.toNat))) s

/-- `tagget`. -/
def execTagget (o : Long) (s : State) : Host.Outcome State Fault Refusal :=
  runAlu (.tagget o) (sigR (useRaw 1 (srcA o) ++ useDst o.dst.toNat 1)) (fun c =>
    outR (result32 o.dst.toNat (BitVec.ofNat 32 (tagCode (opdReg c (srcA o) 0).tag)) .b32)) s

/-! ## Dot products (R136, R137) -/

/-- Tag and decoding of an operand format of `dot4` (wide = 8 bits) or `dot8`. -/
def dotTag (eight : Bool) (code : Nat) : Tag :=
  if eight then (if code == 0 then .e2m1x8 else .i4x8)
  else match code with
    | 0 => .e4m3x4
    | 1 => .e5m2x4
    | _ => .i8x4

def dotFmt (eight : Bool) (code : Nat) : Fmt := if eight then fmtE2M1 else if code == 0 then fmtE4M3 else fmtE5M2

/-- The result of R137 for the float formats. -/
def dotFloat (mode r : Nat) (sat : Bool) (scale : Num) (fa fb : Fmt) (xs ys : List Nat) (c : Nat) : Nat :=
  let terms := (xs.zip ys).map (fun p => mulNum scale (mulNum (decodeNum fa p.1) (decodeNum fb p.2)))
  roundNum fmtF32 mode r sat (sumExact (decodeNum fmtF32 c :: terms))

/-- The exact integer sum. -/
def dotInt (w : Nat) (xs ys : List Nat) (c : Int) : Int :=
  (xs.zip ys).foldl (fun a p => a + toSigned w p.1 * toSigned w p.2) c

def dotLong (i : Instr) (o : Long) (eight : Bool) (s : State) : Host.Outcome State Fault Refusal :=
  let n := if eight then 8 else 4
  let w := 32 / n
  let ca := o.sub.toNat % 8
  let cb := o.sub.toNat / 8
  let int := if eight then ca == 1 else ca == 2
  let sce := o.modb.getLsbD 0
  let b := regOpd o.kb o.sb
  let vs := if sce then useOpd (.v o.imm.toNat) 1 [.scl] else []
  runAlu i (sigR (useOpd (srcA o) 1 [dotTag eight ca] ++ useOpd b 1 [dotTag eight cb]
      ++ useOpd (srcC o) 1 [if int then .b32 else .f32] ++ vs ++ useDst o.dst.toNat 1)) (fun c =>
    let xs := elements w n (opdNat c false (srcA o))
    let ys := elements w n (opdNat c false b)
    if int then
      outR (resultAs 0x00 o.dst.toNat (intResult 0x00 o.sat (dotInt w xs ys (opdInt c 0x00 (srcC o)))))
    else
      let byte := fun k => opdNat c false (.v o.imm.toNat) / 2 ^ (8 * k) % 256
      let scale := if sce then
          mulNum (decodeE8M0 (byte (o.modb.toNat / 2 % 4))) (decodeE8M0 (byte (o.modb.toNat / 8 % 4)))
        else .fin false 1 0
      outSeed o.rnd c (resultAs 0x10 o.dst.toNat (BitVec.ofNat 64
        (dotFloat o.rnd (randomBits o.rnd c 0) o.sat scale (dotFmt eight ca) (dotFmt eight cb) xs ys
          (opdNat c false (srcC o)))))) s

def execDot4 (o : Long) (s : State) : Host.Outcome State Fault Refusal := dotLong (.dot4 o) o false s
def execDot8 (o : Long) (s : State) : Host.Outcome State Fault Refusal := dotLong (.dot8 o) o true s

/-! ## Generator (R138, R140) -/

/-- `rngc` (R138). -/
def execRngc (o : Long) (s : State) : Host.Outcome State Fault Refusal :=
  let x := Opd.v o.sb.toNat
  runAlu (.rngc o) (sigR (useOpd (srcA o) 2 [.b32, .b32] ++ useOpd x 4 [.b32, .b32, .b32, .b32] ++ useDst o.dst.toNat 4))
    (fun c =>
      let w := fun j => (opdReg c x j).val
      let r := philox (opdReg c (srcA o) 0).val (opdReg c (srcA o) 1).val (w 0, w 1, w 2, w 3)
      outR (result32 o.dst.toNat r.1 .b32 ++ result32 (o.dst.toNat + 1) r.2.1 .b32
        ++ result32 (o.dst.toNat + 2) r.2.2.1 .b32 ++ result32 (o.dst.toNat + 3) r.2.2.2 .b32)) s

/-- `rngf` (R140). -/
def execRngf (o : Long) (s : State) : Host.Outcome State Fault Refusal :=
  let two := o.sub == 2
  let b := regOpd o.kb o.sb
  runAlu (.rngf o) (sigR (useTyped 0x0A (srcA o) ++ (if two then useTyped 0x0A b else []) ++ useDst o.dst.toNat 1)) (fun c =>
    let a := opd32 c (srcA o)
    let v := match o.sub.toNat with
      | 0 => BitVec.ofNat 32 (roundFin fmtF32 0 0 false false (unit24 a) (-24))
      | 1 => BitVec.ofNat 32 (roundFin fmtF32 0 0 false false (unit24 a + 1) (-24))
      | _ => nrmElem a (opd32 c b)
    outR (result32 o.dst.toNat v .f32)) s

end Sys2Proof.Machine
end

