-- ==== Sys2Proof/Machine/Dispatch.lean ====
section
/-! DEFINITION. The one dispatch: each instruction and event to its meaning. -/

namespace Sys2Proof.Machine

open Sys2Proof

def exec (i : Instr) (s : State) : Host.Outcome State Fault Refusal :=
  match i with
  | .iaddA o => Sys2Proof.Machine.execIaddA o s
  | .iadd o => Sys2Proof.Machine.execIadd o s
  | .isubA o => Sys2Proof.Machine.execIsubA o s
  | .isub o => Sys2Proof.Machine.execIsub o s
  | .iaddc o => Sys2Proof.Machine.execIaddc o s
  | .isubb o => Sys2Proof.Machine.execIsubb o s
  | .imulA o => Sys2Proof.Machine.execImulA o s
  | .imul o => Sys2Proof.Machine.execImul o s
  | .imulh o => Sys2Proof.Machine.execImulh o s
  | .imad o => Sys2Proof.Machine.execImad o s
  | .iminA o => Sys2Proof.Machine.execIminA o s
  | .imin o => Sys2Proof.Machine.execImin o s
  | .imaxA o => Sys2Proof.Machine.execImaxA o s
  | .imax o => Sys2Proof.Machine.execImax o s
  | .iabsA o => Sys2Proof.Machine.execIabsA o s
  | .iabs o => Sys2Proof.Machine.execIabs o s
  | .inegA o => Sys2Proof.Machine.execInegA o s
  | .ineg o => Sys2Proof.Machine.execIneg o s
  | .iset o => Sys2Proof.Machine.execIset o s
  | .andA o => Sys2Proof.Machine.execAndA o s
  | .and o => Sys2Proof.Machine.execAnd o s
  | .orA o => Sys2Proof.Machine.execOrA o s
  | .or o => Sys2Proof.Machine.execOr o s
  | .xorA o => Sys2Proof.Machine.execXorA o s
  | .xor o => Sys2Proof.Machine.execXor o s
  | .andnA o => Sys2Proof.Machine.execAndnA o s
  | .andn o => Sys2Proof.Machine.execAndn o s
  | .notA o => Sys2Proof.Machine.execNotA o s
  | .not o => Sys2Proof.Machine.execNot o s
  | .shlAi o => Sys2Proof.Machine.execShlAi o s
  | .shl o => Sys2Proof.Machine.execShl o s
  | .shrAi o => Sys2Proof.Machine.execShrAi o s
  | .shr o => Sys2Proof.Machine.execShr o s
  | .sarAi o => Sys2Proof.Machine.execSarAi o s
  | .sar o => Sys2Proof.Machine.execSar o s
  | .rolAi o => Sys2Proof.Machine.execRolAi o s
  | .rol o => Sys2Proof.Machine.execRol o s
  | .rorAi o => Sys2Proof.Machine.execRorAi o s
  | .ror o => Sys2Proof.Machine.execRor o s
  | .popcA o => Sys2Proof.Machine.execPopcA o s
  | .popc o => Sys2Proof.Machine.execPopc o s
  | .clzA o => Sys2Proof.Machine.execClzA o s
  | .clz o => Sys2Proof.Machine.execClz o s
  | .ctzA o => Sys2Proof.Machine.execCtzA o s
  | .ctz o => Sys2Proof.Machine.execCtz o s
  | .brevA o => Sys2Proof.Machine.execBrevA o s
  | .brev o => Sys2Proof.Machine.execBrev o s
  | .bfx o => Sys2Proof.Machine.execBfx o s
  | .bfi o => Sys2Proof.Machine.execBfi o s
  | .prmt o => Sys2Proof.Machine.execPrmt o s
  | .sel o => Sys2Proof.Machine.execSel o s
  | .movA o => Sys2Proof.Machine.execMovA o s
  | .mov o => Sys2Proof.Machine.execMov o s
  | .moviAi o => Sys2Proof.Machine.execMoviAi o s
  | .movi o => Sys2Proof.Machine.execMovi o s
  | .movl o => Sys2Proof.Machine.execMovl o s
  | .lea o => Sys2Proof.Machine.execLea o s
  | .pand o => Sys2Proof.Machine.execPand o s
  | .por o => Sys2Proof.Machine.execPor o s
  | .pxor o => Sys2Proof.Machine.execPxor o s
  | .pnot o => Sys2Proof.Machine.execPnot o s
  | .pmov o => Sys2Proof.Machine.execPmov o s
  | .pmovSave o => Sys2Proof.Machine.execPmovSave o s
  | .pmovLoad o => Sys2Proof.Machine.execPmovLoad o s
  | .vote o => Sys2Proof.Machine.execVote o s
  | .shfl o => Sys2Proof.Machine.execShfl o s
  | .gred o => Sys2Proof.Machine.execGred o s
  | .gscan o => Sys2Proof.Machine.execGscan o s
  | .matchG o => Sys2Proof.Machine.execMatchG o s
  | .elect o => Sys2Proof.Machine.execElect o s
  | .bra o => Sys2Proof.Machine.execBra o s
  | .brx o => Sys2Proof.Machine.execBrx o s
  | .land o => Sys2Proof.Machine.execLand o s
  | .call o => Sys2Proof.Machine.execCall o s
  | .callx o => Sys2Proof.Machine.execCallx o s
  | .ret o => Sys2Proof.Machine.execRet o s
  | .switch o => Sys2Proof.Machine.execSwitch o s
  | .reconv o => Sys2Proof.Machine.execReconv o s
  | .exit o => Sys2Proof.Machine.execExit o s
  | .tail o => Sys2Proof.Machine.execTail o s
  | .yield o => Sys2Proof.Machine.execYield o s
  | .pause o => Sys2Proof.Machine.execPause o s
  | .nopA o => Sys2Proof.Machine.execNopA o s
  | .nop o => Sys2Proof.Machine.execNop o s
  | .trap o => Sys2Proof.Machine.execTrap o s
  | .bkpt o => Sys2Proof.Machine.execBkpt o s
  | .hret o => Sys2Proof.Machine.execHret o s
  | .faddA o => Sys2Proof.Machine.execFaddA o s
  | .fadd o => Sys2Proof.Machine.execFadd o s
  | .fsubA o => Sys2Proof.Machine.execFsubA o s
  | .fsub o => Sys2Proof.Machine.execFsub o s
  | .fmulA o => Sys2Proof.Machine.execFmulA o s
  | .fmul o => Sys2Proof.Machine.execFmul o s
  | .ffma o => Sys2Proof.Machine.execFfma o s
  | .fminA o => Sys2Proof.Machine.execFminA o s
  | .fmin o => Sys2Proof.Machine.execFmin o s
  | .fmaxA o => Sys2Proof.Machine.execFmaxA o s
  | .fmax o => Sys2Proof.Machine.execFmax o s
  | .fset o => Sys2Proof.Machine.execFset o s
  | .frcpA o => Sys2Proof.Machine.execFrcpA o s
  | .frcp o => Sys2Proof.Machine.execFrcp o s
  | .frsqA o => Sys2Proof.Machine.execFrsqA o s
  | .frsq o => Sys2Proof.Machine.execFrsq o s
  | .fsqrtA o => Sys2Proof.Machine.execFsqrtA o s
  | .fsqrt o => Sys2Proof.Machine.execFsqrt o s
  | .fdivA o => Sys2Proof.Machine.execFdivA o s
  | .fdiv o => Sys2Proof.Machine.execFdiv o s
  | .fex2A o => Sys2Proof.Machine.execFex2A o s
  | .fex2 o => Sys2Proof.Machine.execFex2 o s
  | .flg2A o => Sys2Proof.Machine.execFlg2A o s
  | .flg2 o => Sys2Proof.Machine.execFlg2 o s
  | .fsinA o => Sys2Proof.Machine.execFsinA o s
  | .fsin o => Sys2Proof.Machine.execFsin o s
  | .fcosA o => Sys2Proof.Machine.execFcosA o s
  | .fcos o => Sys2Proof.Machine.execFcos o s
  | .frndA o => Sys2Proof.Machine.execFrndA o s
  | .frnd o => Sys2Proof.Machine.execFrnd o s
  | .ffrcA o => Sys2Proof.Machine.execFfrcA o s
  | .ffrc o => Sys2Proof.Machine.execFfrc o s
  | .fclassA o => Sys2Proof.Machine.execFclassA o s
  | .fclass o => Sys2Proof.Machine.execFclass o s
  | .fscale o => Sys2Proof.Machine.execFscale o s
  | .fqnt o => Sys2Proof.Machine.execFqnt o s
  | .fdeq o => Sys2Proof.Machine.execFdeq o s
  | .dadd o => Sys2Proof.Machine.execDadd o s
  | .dmul o => Sys2Proof.Machine.execDmul o s
  | .dfma o => Sys2Proof.Machine.execDfma o s
  | .dmin o => Sys2Proof.Machine.execDmin o s
  | .dmax o => Sys2Proof.Machine.execDmax o s
  | .dset o => Sys2Proof.Machine.execDset o s
  | .ddiv o => Sys2Proof.Machine.execDdiv o s
  | .dsqrt o => Sys2Proof.Machine.execDsqrt o s
  | .dfrnd o => Sys2Proof.Machine.execDfrnd o s
  | .hadd2 o => Sys2Proof.Machine.execHadd2 o s
  | .hmul2 o => Sys2Proof.Machine.execHmul2 o s
  | .hfma2 o => Sys2Proof.Machine.execHfma2 o s
  | .hmin2 o => Sys2Proof.Machine.execHmin2 o s
  | .hmax2 o => Sys2Proof.Machine.execHmax2 o s
  | .hset2 o => Sys2Proof.Machine.execHset2 o s
  | .cvt o => Sys2Proof.Machine.execCvt o s
  | .pack o => Sys2Proof.Machine.execPack o s
  | .unpk o => Sys2Proof.Machine.execUnpk o s
  | .tagset o => Sys2Proof.Machine.execTagset o s
  | .tagget o => Sys2Proof.Machine.execTagget o s
  | .dot4 o => Sys2Proof.Machine.execDot4 o s
  | .dot8 o => Sys2Proof.Machine.execDot8 o s
  | .rngc o => Sys2Proof.Machine.execRngc o s
  | .rngf o => Sys2Proof.Machine.execRngf o s
  | .ld o => Sys2Proof.Machine.execLd o s
  | .st o => Sys2Proof.Machine.execSt o s
  | .ldk o => Sys2Proof.Machine.execLdk o s
  | .pref o => Sys2Proof.Machine.execPref o s
  | .cchk o => Sys2Proof.Machine.execCchk o s
  | .stn4 o => Sys2Proof.Machine.execStn4 o s
  | .atom o => Sys2Proof.Machine.execAtom o s
  | .cas o => Sys2Proof.Machine.execCas o s
  | .fatom o => Sys2Proof.Machine.execFatom o s
  | .red o => Sys2Proof.Machine.execRed o s
  | .fence o => Sys2Proof.Machine.execFence o s
  | .flushIcache o => Sys2Proof.Machine.execFlushIcache o s
  | .flushNear o => Sys2Proof.Machine.execFlushNear o s
  | .flushWcb o => Sys2Proof.Machine.execFlushWcb o s
  | .swarm o => Sys2Proof.Machine.execSwarm o s
  | .swwait o => Sys2Proof.Machine.execSwwait o s
  | .swadd o => Sys2Proof.Machine.execSwadd o s
  | .swread o => Sys2Proof.Machine.execSwread o s
  | .barInit o => Sys2Proof.Machine.execBarInit o s
  | .barExp o => Sys2Proof.Machine.execBarExp o s
  | .barArv o => Sys2Proof.Machine.execBarArv o s
  | .barWait o => Sys2Proof.Machine.execBarWait o s
  | .barSync o => Sys2Proof.Machine.execBarSync o s
  | .barTest o => Sys2Proof.Machine.execBarTest o s
  | .mma o => Sys2Proof.Machine.execMma o s
  | .mmac o => Sys2Proof.Machine.execMmac o s
  | .accrd o => Sys2Proof.Machine.execAccrd o s
  | .accwr o => Sys2Proof.Machine.execAccwr o s
  | .accclr o => Sys2Proof.Machine.execAccclr o s
  | .accst o => Sys2Proof.Machine.execAccst o s
  | .copy o => Sys2Proof.Machine.execCopy o s
  | .copyt o => Sys2Proof.Machine.execCopyt o s
  | .coll o => Sys2Proof.Machine.execColl o s
  | .sireg o => Sys2Proof.Machine.execSireg o s
  | .sidrop o => Sys2Proof.Machine.execSidrop o s
  | .sidropAll o => Sys2Proof.Machine.execSidropAll o s
  | .tkwait o => Sys2Proof.Machine.execTkwait o s
  | .tktest o => Sys2Proof.Machine.execTktest o s
  | .tkcancel o => Sys2Proof.Machine.execTkcancel o s
  | .tkdetach o => Sys2Proof.Machine.execTkdetach o s
  | .tkadopt o => Sys2Proof.Machine.execTkadopt o s
  | .tkprio o => Sys2Proof.Machine.execTkprio o s
  | .tkdepAdd o => Sys2Proof.Machine.execTkdepAdd o s
  | .tkdepRel o => Sys2Proof.Machine.execTkdepRel o s
  | .tkinfo o => Sys2Proof.Machine.execTkinfo o s
  | .mflip o => Sys2Proof.Machine.execMflip o s
  | .launch o => Sys2Proof.Machine.execLaunch o s
  | .launchTry o => Sys2Proof.Machine.execLaunchTry o s
  | .join o => Sys2Proof.Machine.execJoin o s
  | .joinAll o => Sys2Proof.Machine.execJoinAll o s
  | .joinRng o => Sys2Proof.Machine.execJoinRng o s
  | .rtsub o => Sys2Proof.Machine.execRtsub o s
  | .rtget o => Sys2Proof.Machine.execRtget o s
  | .rtdone o => Sys2Proof.Machine.execRtdone o s
  | .qnote o => Sys2Proof.Machine.execQnote o s
  | .dvnew o => Sys2Proof.Machine.execDvnew o s
  | .dvgrant o => Sys2Proof.Machine.execDvgrant o s
  | .dvfeat o => Sys2Proof.Machine.execDvfeat o s
  | .dvfrz o => Sys2Proof.Machine.execDvfrz o s
  | .dvthaw o => Sys2Proof.Machine.execDvthaw o s
  | .dvckpt o => Sys2Proof.Machine.execDvckpt o s
  | .dvrevoke o => Sys2Proof.Machine.execDvrevoke o s
  | .dvinv o => Sys2Proof.Machine.execDvinv o s
  | .hqbind o => Sys2Proof.Machine.execHqbind o s
  | .hqbindOff o => Sys2Proof.Machine.execHqbindOff o s
  | .hqpop o => Sys2Proof.Machine.execHqpop o s
  | .hqpopWait o => Sys2Proof.Machine.execHqpopWait o s
  | .hqret o => Sys2Proof.Machine.execHqret o s
  | .rdsr o => Sys2Proof.Machine.execRdsr o s
  | .wrsr o => Sys2Proof.Machine.execWrsr o s
  | .rdcnt o => Sys2Proof.Machine.execRdcnt o s
  | .teamEnd team => Sys2Proof.Machine.execTeamEnd team s
  | .barrierStall team tid => Sys2Proof.Machine.execBarrierStall team tid s
  | .starvationPreemption asid => Sys2Proof.Machine.execStarvationPreemption asid s
  | .forcedSave core asid => Sys2Proof.Machine.execForcedSave core asid s
  | .teamPlacement grid => Sys2Proof.Machine.execTeamPlacement grid s
  | .teamRestore team => Sys2Proof.Machine.execTeamRestore team s
  | .schedulerRound => Sys2Proof.Machine.execSchedulerRound s
  | .wcbAgeingDrain core entry => Sys2Proof.Machine.execWcbAgeingDrain core entry s
  | .tokenStart core slot => Sys2Proof.Machine.execTokenStart core slot s
  | .kBlockEnd core slot => Sys2Proof.Machine.execKBlockEnd core slot s
  | .sectorAcknowledged core slot slice sector => Sys2Proof.Machine.execSectorAcknowledged core slot slice sector s
  | .collChunkEnd core slot remote => Sys2Proof.Machine.execCollChunkEnd core slot remote s
  | .shuffleSendPhase core slot => Sys2Proof.Machine.execShuffleSendPhase core slot s
  | .prismGroupTimeout port => Sys2Proof.Machine.execPrismGroupTimeout port s
  | .scrub at_ bad => Sys2Proof.Machine.execScrub at_ bad s
  | .flitReceive port f => Sys2Proof.Machine.execFlitReceive port f s
  | .lossOfLock port => Sys2Proof.Machine.execLossOfLock port s
  | .linkRetrain port peer => Sys2Proof.Machine.execLinkRetrain port peer s
  | .wrPacket port p => Sys2Proof.Machine.execWrPacket port p s
  | .rdPacket port p => Sys2Proof.Machine.execRdPacket port p s
  | .rrPacket port p => Sys2Proof.Machine.execRrPacket port p s
  | .atPacket port p => Sys2Proof.Machine.execAtPacket port p s
  | .arPacket port p => Sys2Proof.Machine.execArPacket port p s
  | .ackPacket port p => Sys2Proof.Machine.execAckPacket port p s
  | .csbPacket port p => Sys2Proof.Machine.execCsbPacket port p s
  | .usbPacket port p => Sys2Proof.Machine.execUsbPacket port p s
  | .rsdPacket port p => Sys2Proof.Machine.execRsdPacket port p s
  | .havePacket port p => Sys2Proof.Machine.execHavePacket port p s
  | .sackPacket port p => Sys2Proof.Machine.execSackPacket port p s
  | .ctlPacket port p => Sys2Proof.Machine.execCtlPacket port p s
  | .replyReservationTimeout core seq => Sys2Proof.Machine.execReplyReservationTimeout core seq s
  | .pathHoldTimeout peer => Sys2Proof.Machine.execPathHoldTimeout peer s
  | .dbell fn data => Sys2Proof.Machine.execDbell fn data s
  | .queueRead asid queue => Sys2Proof.Machine.execQueueRead asid queue s
  | .atsTranslationCompletion rq rd wr => Sys2Proof.Machine.execAtsTranslationCompletion rq rd wr s
  | .pageRequestResponse fn index code => Sys2Proof.Machine.execPageRequestResponse fn index code s
  | .atsInvalidateRequest rq pages => Sys2Proof.Machine.execAtsInvalidateRequest rq pages s
  | .nresp port data => Sys2Proof.Machine.execNresp port data s
  | .s0invgo port data => Sys2Proof.Machine.execS0invgo port data s
  | .nrctl port data => Sys2Proof.Machine.execNrctl port data s
  | .functionLevelReset vf => Sys2Proof.Machine.execFunctionLevelReset vf s
  | .hostMemoryAccess acc => Sys2Proof.Machine.execHostMemoryAccess acc s
  | .semaphoreTake port n lease => Sys2Proof.Machine.execSemaphoreTake port n lease s
  | .semaphoreRelease port n => Sys2Proof.Machine.execSemaphoreRelease port n s
  | .semaphoreLeaseExpiry n => Sys2Proof.Machine.execSemaphoreLeaseExpiry n s
  | .flashWindowWrite port obj off data => Sys2Proof.Machine.execFlashWindowWrite port obj off data s
  | .bootctlClr port => Sys2Proof.Machine.execBootctlClr port s
  | .bootctlRst port both => Sys2Proof.Machine.execBootctlRst port both s
  | .start r => Sys2Proof.Machine.execStart r s
  | .wdog => Sys2Proof.Machine.execWdog s
  | .pcieFundamentalReset => Sys2Proof.Machine.execPcieFundamentalReset s
  | .sidebandReset => Sys2Proof.Machine.execSidebandReset s
  | .standbyPowerRemoval => Sys2Proof.Machine.execStandbyPowerRemoval s
  | .checkpointSave port data => Sys2Proof.Machine.execCheckpointSave port data s
  | .checkpointRestore port data => Sys2Proof.Machine.execCheckpointRestore port data s
  | .checkpointThaw port data => Sys2Proof.Machine.execCheckpointThaw port data s
  | .getVersion port => Sys2Proof.Machine.execGetVersion port s
  | .getCapabilities port => Sys2Proof.Machine.execGetCapabilities port s
  | .negotiateAlgorithms port sig hash => Sys2Proof.Machine.execNegotiateAlgorithms port sig hash s
  | .getDigests port => Sys2Proof.Machine.execGetDigests port s
  | .getCertificate port slot off len => Sys2Proof.Machine.execGetCertificate port slot off len s
  | .challenge port slot nonce => Sys2Proof.Machine.execChallenge port slot nonce s
  | .getMeasurements port index nonce => Sys2Proof.Machine.execGetMeasurements port index nonce s
  | .powerLimitInterval watts celsius => Sys2Proof.Machine.execPowerLimitInterval watts celsius s
  | .thermalTrip => Sys2Proof.Machine.execThermalTrip s
  | .registerWrite port off data => Sys2Proof.Machine.execRegisterWrite port off data s
  | .pendingWriteCompletion team tid => Sys2Proof.Machine.execPendingWriteCompletion team tid s
  | .accessPerformed core idx => Sys2Proof.Machine.execAccessPerformed core idx s
  | .cycleCharge => Sys2Proof.Machine.execCycleCharge s
  | .revokeDrainDeadline asid => Sys2Proof.Machine.execRevokeDrainDeadline asid s
  | .tierPortLost expander n => Sys2Proof.Machine.execTierPortLost expander n s
  | .powerLoss standby => Sys2Proof.Machine.execPowerLoss standby s
  | .noticeRingTail port data => Sys2Proof.Machine.execNoticeRingTail port data s

end Sys2Proof.Machine
end

