-- ==== Sys2Proof/Machine/Issue.lean ====
section
/-! DEFINITION. What happens next: the issue sets of R234, the fetch and execution of a thread's instruction (R56, R74, R76), and the
events that the module brings about by itself, whose order and time the spec leaves open. -/

namespace Sys2Proof.Machine

open Sys2Proof

/-! ## What has been handed in -/

/-- A control port's write of a register that both ports share, with the register's offset (R403). -/
def sharedWrite (i : Instr) : Option (Port × Nat) :=
  match i with
  | .nresp p _ => some (p, 0x118)
  | .s0invgo p _ => some (p, 0x130)
  | .bootctlClr p => some (p, 0x208)
  | .bootctlRst p _ => some (p, 0x208)
  | .checkpointSave p _ => some (p, 0x210)
  | .checkpointRestore p _ => some (p, 0x210)
  | .checkpointThaw p _ => some (p, 0x210)
  | .semaphoreTake p n _ => some (p, 0x400 + 8 * n)
  | .semaphoreRelease p n => some (p, 0x400 + 8 * n)
  | .registerWrite p off _ => if off == 0x100 then none else some (p, off)
  | _ => none

/-- Two writes from the two ports to one register, which stand side by side, arrive in one cycle. The tie goes to the port that lost
the previous one: its write is applied first (R403). -/
def settleTie (s : State) (i j : Instr) : Option (Instr × Instr × Port) :=
  match sharedWrite i, sharedWrite j with
  | some (p, a), some (q, b) =>
    if p == q || a != b then none else if p == s.host.tieLost then some (i, j, q) else some (j, i, p)
  | _, _ => none

/-- The event that is handed in first, and the state without it. -/
def takeInput (s : State) (i : Instr) (r : List Instr) : Instr × State :=
  match r with
  | j :: rest =>
    match settleTie s i j with
    | some (first, last, lost) => (first, { s with inputs := last :: rest, host := { s.host with tieLost := lost } })
    | none => (i, { s with inputs := r })
  | [] => (i, { s with inputs := [] })

/-! ## The thread in hand -/

/-- Where decode leaves a thread: ILLEGAL_OPC where the words are no instruction (R78). -/
def issueWords (s : State) (uid tid : Nat) (t : Team) (th : Thread) (ws : List W32) : Host.Outcome State Fault Refusal :=
  match decode ws with
  | .ok (i, _) => exec i s
  | .error _ => .next (popIssue (charge (takeTrap s uid tid (illegalTrap th)) t.asid 0 1))

/-- A thread waits for the words of its instruction, which has not issued. -/
def awaitFetch (s : State) (uid tid : Nat) (w : Wait) : State :=
  modThread s uid tid (fun th => { waiting s.cycle (0, 0) th w with begun := th.begun })

/-- The thread in hand fetches its instruction and executes it. -/
def issueThread (s : State) (uid tid : Nat) (t : Team) (th : Thread) : Host.Outcome State Fault Refusal :=
  match instrWords s uid tid (teamCore t) t.asid th.pc with
  | (.ok ws, s1) => issueWords s1 uid tid t th ws
  | (.trap tr, s1) => .next (popIssue (takeTrap s1 uid tid { tr with unissued := true }))
  | (.wait w, s1) => .next (popIssue (awaitFetch s1 uid tid w))
  | (.page rq tr, s1) =>
    .next (popIssue (parkPage (pageRequest s1 t.asid rq true false) uid tid rq { tr with unissued := true }))

/-! ## Issue sets (R234) -/

/-- Class of a ready thread: promoted, ordinary, or within 64 cycles after its own pause. -/
def issueClass (th : Thread) : Nat := if th.age ≥ 2048 then 2 else if th.pauseLeft == 0 then 1 else 0

/-- A candidate of a partition: team, thread index, context, and the thread. -/
abbrev Ready := Nat × Nat × Nat × Thread

/-- The instruction of a READY thread with pending writes is interlocked on them, so that the thread is STALLED (R69, R233): its issue
would only hold it. -/
def interlockHolds (s : State) (t : Team) (tid : Nat) (th : Thread) : Bool :=
  !th.pending.isEmpty && match issueThread { s with issue := [(t.uid, tid)] } t.uid tid t th with
    | .next s1 => ((getTeam s1 t.uid).bind (fun x => getThread x tid)).any (fun x => x.st == .stalled)
    | _ => false

/-- Threads of a partition of a core that may issue. -/
def readyThreads (s : State) (core part : Nat) : List Ready :=
  (s.teams.filter (fun t => t.home == .core core)).flatMap (fun t =>
    ((List.range t.threads.length).zip t.threads).filterMap (fun p =>
      if p.2.part == part && mayIssue s t p.1 p.2 && !interlockHolds s t p.1 p.2 then some (t.uid, p.1, t.asid, p.2) else none))

/-- a leads b: the higher class, then the greater age, then the lower lane, then the lower slot. -/
def leads (a b : Ready) : Bool :=
  let x := a.2.2.2
  let y := b.2.2.2
  if issueClass x != issueClass y then decide (issueClass x > issueClass y)
  else if x.age != y.age then decide (x.age > y.age)
  else if x.lane != y.lane then decide (x.lane < y.lane)
  else decide (x.slot < y.slot)

/-- On one lane the greater age goes first, then the lower slot. -/
def laneFirst (a b : Ready) : Bool :=
  if a.2.2.2.age != b.2.2.2.age then decide (a.2.2.2.age > b.2.2.2.age) else decide (a.2.2.2.slot < b.2.2.2.slot)

/-- The best of a list. -/
def bestOf (before : Ready → Ready → Bool) (l : List Ready) : Option Ready :=
  l.foldl (fun b x => match b with
    | none => some x
    | some y => if before x y then some x else some y) none

/-- The issue set of a partition: its PC and its threads by lane; none where no thread is ready. -/
def issueSet (s : State) (core part : Nat) : Option (W64 × List (Nat × Nat)) :=
  let cand := readyThreads s core part
  (bestOf leads cand).map (fun lead =>
    let like := cand.filter (fun x => x.2.2.1 == lead.2.2.1 && x.2.2.2.pc == lead.2.2.2.pc)
    (lead.2.2.2.pc, (List.range 64).filterMap (fun lane =>
      (bestOf laneFirst (like.filter (fun x => x.2.2.2.lane == lane))).map (fun x => (x.1, x.2.1)))))

/-- The next partition of this cycle, by core and then partition, with something to issue. -/
def nextSet (s : State) : Option (Nat × W64 × List (Nat × Nat)) :=
  ((List.range (512 - s.part)).map (· + s.part)).findSome? (fun p => (issueSet s (p / 4) (p % 4)).map (fun x => (p, x.1, x.2)))

/-- A member of the set in hand still stands at the set's PC and may issue. -/
def stillIn (s : State) (e : Nat × Nat) : Bool :=
  match getTeam s e.1 with
  | none => false
  | some t =>
    match getThread t e.2 with
    | none => false
    | some th => th.pc == s.setPc && mayIssue s t e.2 th

/-- Members that have moved on with a gang instruction, or may issue no more, leave the set. -/
def pruned (s : State) : State := { s with issue := s.issue.dropWhile (fun e => !stillIn s e) }

/-! ## Events of the module's own -/

/-- What the module may do next by itself. -/
inductive Internal where
  | pendingWrite (team tid : Nat)
  | performed (core idx : Nat)
  | wcbAge (core entry : Nat)
  | tokenStart (core slot : Nat)
  | kBlock (core slot : Nat)
  | sector (core slot : Nat)
  | chunk (core slot : Nat)
  | sendPhase (core slot : Nat)
  | prism (port : Nat)
  | packet (port : Nat) (p : Packet)
  | teamEnd (team : Nat)
  | placement
  | round
  | queueRead (asid queue : Nat)
  | barrierStall (team tid : Nat)
  | starvation (asid : Nat)
  | forcedSave (core asid : Nat)
  | drainDeadline (asid : Nat)
  | leaseExpiry (n : Nat)
  | replyTimeout (core seq : Nat)
  | pathTimeout (peer : Nat)
  | early (team tid : Nat)
  | peerWrite
  | poolEvict (n : Nat)
  deriving DecidableEq, Repr

def eachThread (s : State) (f : Team → Nat → Thread → Option Internal) : List Internal :=
  s.teams.flatMap (fun t => ((List.range t.threads.length).zip t.threads).filterMap (fun p => f t p.1 p.2))

/-- Sectors of an operation that are not done: slice, and number. -/
def leftSectors (tk : Token) : List (Nat × Nat) :=
  match tk.op with
  | .mma _ _ => []
  | .copy c => ((List.range c.slices.length).zip c.slices).flatMap (fun p =>
      ((List.range (sliceIds p.2.what)).filter (fun n => !p.2.done.contains n)).map (fun n => (p.1, n)))
  | .coll c => (if c.kind == 6 then c.todo else (List.range c.total).filter (fun n => !c.done.contains n)).map (fun n => (0, n))

/-- A sector taken among those that are not done (R298, R299). -/
def someSector (s : State) (core slot : Nat) : Host.Outcome State Fault Refusal :=
  match getToken s core slot with
  | none => .fault .notEnabled
  | some tk =>
    let x := pickFrom s (leftSectors tk)
    match x.1 with
    | none => .fault .notEnabled
    | some p => execSectorAcknowledged core slot p.1 p.2 x.2

/-- The scheduler's next placement: a new team, or one that is restored. -/
def someTeam (s : State) : Host.Outcome State Fault Refusal :=
  match nextPlacement (syncRing s) with
  | some (.fresh g) => execTeamPlacement g.uid s
  | some (.back t) => execTeamRestore t.uid s
  | none => .fault .notEnabled

def runInternal (e : Internal) (s : State) : Host.Outcome State Fault Refusal :=
  match e with
  | .pendingWrite t i => execPendingWriteCompletion t i s
  | .performed c i => execAccessPerformed c i s
  | .wcbAge c i => execWcbAgeingDrain c i s
  | .tokenStart c i => execTokenStart c i s
  | .kBlock c i => execKBlockEnd c i s
  | .sector c i => someSector s c i
  | .chunk c i => execCollChunkEnd c i [] s
  | .sendPhase c i => execShuffleSendPhase c i s
  | .prism p => execPrismGroupTimeout p s
  | .packet n p => runPacket n p s
  | .teamEnd t => execTeamEnd t s
  | .placement => someTeam s
  | .round => execSchedulerRound s
  | .queueRead a q => execQueueRead a q s
  | .barrierStall t i => execBarrierStall t i s
  | .starvation a => execStarvationPreemption a s
  | .forcedSave c a => execForcedSave c a s
  | .drainDeadline a => execRevokeDrainDeadline a s
  | .leaseExpiry n => execSemaphoreLeaseExpiry n s
  | .replyTimeout c q => execReplyReservationTimeout c q s
  | .pathTimeout p => execPathHoldTimeout p s
  | .early t i => earlyRead t i s
  | .peerWrite => peerWrite s
  | .poolEvict n => poolEvict n s

/-- Events of tokens. -/
def tokenEvents (s : State) : List Internal :=
  (allTokens s).flatMap (fun p =>
    let k := p.1
    let n := p.2.slot
    match p.2.st, p.2.op with
    | .pending, _ => [.tokenStart k n]
    | .running, .mma _ _ => [.kBlock k n]
    | .running, .copy _ => [.sector k n]
    | .running, .coll _ => [.chunk k n, .sector k n, .sendPhase k n]
    | _, _ => [])

/-- Events of cores: stores, buffers, packets. -/
def coreEvents (s : State) : List Internal :=
  s.cores.flatMap (fun c =>
    (List.range c.held.length).map (Internal.performed c.id)
      ++ (List.range c.wcb.length).map (Internal.wcbAge c.id)
      ++ c.decode.map (fun p => Internal.packet (256 + c.id) p))

/-- Everything that may take place at a time the spec leaves open. -/
def mayHappen (s : State) : List Internal :=
  eachThread s (fun t i th => if th.pending.isEmpty && th.st != .stalled then none else some (.pendingWrite t.uid i))
    ++ coreEvents s ++ tokenEvents s
    ++ eachThread s (fun t i th => if th.st == .ready then some (.early t.uid i) else none)
    ++ .peerWrite :: (List.range s.pool.length).map Internal.poolEvict
    ++ s.fab.prisms.map (fun q => Internal.prism q.port)
    ++ s.fab.local_.map (fun p => Internal.packet 15 p)
    ++ s.teams.map (fun t => Internal.teamEnd t.uid)
    ++ [.placement, .round]
    ++ s.ctxs.flatMap (fun c => (c.queues.filter (fun q => q.rung)).map (fun q => Internal.queueRead c.asid q.num))

/-- Events whose time the spec gives and which are due: R178 and R242, R246, R321, R349, R361, R398, R404. -/
def dueEvents (s : State) : List Internal :=
  eachThread s (fun t i th => if (stallDue s t i th).isSome then some (.barrierStall t.uid i) else none)
    ++ s.cores.flatMap (fun c => (c.prq.filter (forceDue s c.id)).map (fun p => Internal.forcedSave c.id p.asid))
    ++ (s.ctxs.filter (fun c => decide (c.starve ≥ starveLimit))).map (fun c => Internal.starvation c.asid)
    ++ ((revokeTops s).filter (drainDue s)).map (fun c => Internal.drainDeadline c.asid)
    ++ s.host.sems.map (fun p => Internal.leaseExpiry p.1)
    ++ s.cores.flatMap (fun c => (c.outst.filter (fun o => o.dead)).map (fun o => Internal.replyTimeout c.id o.seq.toNat))
    ++ (List.range 16).map Internal.pathTimeout

/-- The first event of a list that takes place. -/
def firstOf (s : State) : List Internal → Option State
  | [] => none
  | e :: r =>
    match runInternal e s with
    | .next t => some t
    | _ => firstOf s r

/-- The issue goes on: the next set of this cycle and its first thread, or the end of the cycle. -/
def goOn (s : State) : Host.Outcome State Fault Refusal :=
  match nextSet s with
  | some (p, pc, l) => .next { s with part := p + 1, setPc := pc, issue := l }
  | none =>
    match firstOf s (dueEvents s) with
    | some t => .next t
    | none => execCycleCharge s

/-- No thread is in hand: one of the events that may happen, or the issue goes on. Which of them is a free value. -/
def choose (s : State) : Host.Outcome State Fault Refusal :=
  let es := mayHappen s
  let n := Config.pick s.freeCtr % (es.length + 1)
  let s1 := nextFree s
  match es[n]? with
  | none => goOn s1
  | some e =>
    match runInternal e s1 with
    | .next t => .next t
    | _ => goOn s1

/-- A packet of a port's pool is taken in the order of arrival; one that is none of R356 is dropped. -/
def takePacket (s : State) (port : Nat) (p : Packet) : State :=
  match runPacket port p s with
  | .next t => t
  | _ => s

/-- The module runs: it has started (R407). -/
def running (s : State) : Bool := s.care.phase == .running || s.care.phase == .pinhole

/-- The step of a module at which nothing arrives from outside. -/
def runStep (s : State) : Host.Outcome State Fault Refusal :=
  if !running s then .next s else
  match s.fab.arrived with
  | (port, p) :: r => .next (takePacket { s with fab := { s.fab with arrived := r } } port p)
  | [] =>
    let s1 := pruned s
    match s1.issue with
    | [] => choose s1
    | (uid, tid) :: _ =>
      match getTeam s1 uid with
      | none => choose { s1 with issue := [] }
      | some t =>
        match getThread t tid with
        | none => choose { s1 with issue := [] }
        | some th => issueThread s1 uid tid t th

end Sys2Proof.Machine
end

