-- ==== Sys2Proof/Machine/Place.lean ====
section
/-! DEFINITION. A program put into the machine from outside, for the host's questions about one instruction (log 3): the module
started with the root context, stage 0 mapping the first 4 TB of physical memory onto themselves, and one team of one gang of eight
threads on core 0 whose code is the instruction; or, where a thread is in hand already, the instruction at its PC. -/

namespace Sys2Proof.Machine

open Sys2Proof

/-- A configuration record (R406): one chip, chip 0, with every memory enabled and no link used. -/
def soleRecord : List Byte :=
  natBytes 256 (0x47464352 + 600 * 2 ^ 132 + 0xFFFF * 2 ^ 144 + 0xF * 2 ^ 160 + 0x3F * 2 ^ 164)

/-- The PC of the program. -/
def codeStart : W64 := 0x20000

/-- Its launch record: one team of one gang of eight threads with 64 registers each and two tiles. -/
def soleLrc : Lrc :=
  { code := codeStart, gdx := 1, gdy := 1, gdz := 1, consts := [], scr := 1, calld := 0, acct := 2, prio := 0, seed := 0,
    roles := [(1, 0, 64, 0)] }

def soleGrid : Grid :=
  { uid := 1, handle := 1, asid := 0, lrc := soleLrc, depth := 0, origin := .packet 0 0, parent := none, next := 1, total := 1,
    placedOn := [0] }

/-- Stage 0 (R337): the top node's first entry names a node whose first entry is a block of 2^42 bytes with RD, W and X. -/
def soleStage (s : State) : State :=
  writeKey (writeKey s 0 (natBytes 8 (0x10000 + 0x81))) 0x10000 (natBytes 8 0x20F)

/-- The module started, with the team placed and its first thread in hand. -/
def startSole (s : State) : State :=
  let s1 := soleStage (withRoot { s with care := { s.care with phase := .running, config := soleRecord } } (~~~ 0))
  let c := rootContext 1 (~~~ 0)
  let s2 := { s1 with nextUid := 2 }
  let t := newTeam s2 c soleGrid 1 0 (gridDims soleLrc 0) 0 0 [(0, 0, 0)]
  { s2 with
    teams := [t], grids := [soleGrid], cores := [], nextUid := 3, inputs := [], issue := [(2, 0)], setPc := codeStart
    fab := { s2.fab with arrived := [] } }

/-- The thread that the next step issues. -/
def inHandNow (s : State) : Option (Team × Thread) :=
  if !running s || !s.inputs.isEmpty || !s.fab.arrived.isEmpty then none
  else
    match (pruned s).issue with
    | [] => none
    | (uid, tid) :: _ => (getTeam s uid).bind (fun t => (getThread t tid).map (fun th => (t, th)))

/-- Words stored where a thread fetches them, and no older copy in the core's instruction cache. -/
def storeWords (s : State) (core asid : Nat) (pc : W64) : Nat → List W32 → State
  | _, [] => modCore s core (fun c => { c with icache := c.icache.filter (fun e => !(e.asid == asid && e.pc == pc)) })
  | i, w :: r =>
    match fetchSite s asid (pc + BitVec.ofNat 64 (4 * i)) with
    | (.ok site, _) => storeWords (writeKey s site.key (natBytes 4 w.toNat)) core asid pc (i + 1) r
    | (.error _, _) => storeWords s core asid pc (i + 1) r

/-- The words at the next fetch. -/
def placeWords (s : State) (ws : List W32) : State :=
  match inHandNow s with
  | some (t, th) => storeWords s (teamCore t) t.asid th.pc 0 ws
  | none => storeWords (startSole s) 0 0 codeStart 0 ws

end Sys2Proof.Machine
end

