-- ==== Sys2Proof/Machine/Step.lean ====
section
/-! DEFINITION. One step of the module: an event from outside that has been handed in, or what the module does by itself. -/

namespace Sys2Proof.Machine

open Sys2Proof

/-- One step. -/
def step (s : State) : Host.Outcome State Fault Refusal :=
  match s.inputs with
  | i :: r => exec (takeInput s i r).1 (takeInput s i r).2
  | [] => runStep s

/-- The state with an instruction at its next fetch: its words, little-endian, with zeros above `nbits`. -/
def State.withFetchWord (s : State) (nbits w : Nat) : State := placeWords s (bytesWords (natBytes 20 (w % 2 ^ nbits)))

end Sys2Proof.Machine
end

