-- ==== Sys2Proof/Safety.lean ====
section
/-! DEFINITION. The terms that claims use: a safe step, whose turn it is, which threads pass the checks of R76, how an
instruction ends in its thread, and what an instruction that only writes its own thread's registers leaves. -/

namespace Sys2Proof.Machine

open Sys2Proof

/-- The step goes on: neither a fault nor a refusal of the model. -/
def safeStep (s : State) : Prop := ∃ t, step s = .next t

/-! ## The instruction in hand -/

/-- The thread as the instruction reads it: for each short hazard the value before or after the producer's write (R70). -/
def viewOf (s : State) (th : Thread) : Thread := (hazardView th.hazards th s.freeCtr).1

/-- The counter of free values after that reading. -/
def ctrOf (s : State) (th : Thread) : Nat := (hazardView th.hazards th s.freeCtr).2.2

/-- What an instruction of the thread reads its operands from. -/
def curOf (s : State) (t : Team) (th : Thread) : Cur := { team := t, th := viewOf s th }

/-- The state in which its effect takes place. -/
def issueState (s : State) (th : Thread) : State := { s with freeCtr := ctrOf s th }

/-- Thread `tid` of team `uid` stands at the head of the issue set and can run: `t` is its team and `th` the thread. -/
structure Turn (s : State) (uid tid : Nat) (t : Team) (th : Thread) : Prop where
  head   : s.issue.head? = some (uid, tid)
  team   : getTeam s uid = some t
  thread : getThread t tid = some th
  runs   : canRun th = true

/-- Checks 2 to 4 of R76 and the landing check (R108) pass. -/
structure Admitted (i : Instr) (s : State) (t : Team) (th : Thread) : Prop where
  landing  : landingFails i th = none
  form     : i.allocated = true
  features : ∀ b ∈ i.features, (effFeat s t.asid).getLsbD b = true
  fields   : i.reservedOk = true

/-- Checks 5 and 6: the guard predicate can be read. -/
structure GuardReady (i : Instr) (t : Team) (th : Thread) : Prop where
  stall : sbChk t th = true → (encOf i).grd ≠ 7 → shortOn th [] [(encOf i).grd] = []
  free  : (encOf i).grd ≠ 7 → interlocked th [] [(encOf i).grd] = false

/-- Checks 7 to 9: registers exist and are aligned, no stall distance is short and no interlock stands on them, and their
tags are the expected ones; no Reticle comparator matches. -/
structure OperandsPass (sg : Sig) (s : State) (t : Team) (th : Thread) : Prop where
  watch : reticlePc s t th = none
  regs  : badReg th sg.regs = []
  free  : interlocked th sg.regs (sg.pr ++ sg.pw) = false
  stall : sbChk t th = true → shortOn th sg.regs (sg.pr ++ sg.pw) = []
  tags  : tagRlx t th = false → badTag (viewOf s th) sg.regs = []

/-- The instruction passes every check of R76 before its own and its guard holds; no pending write of sr.seed holds it (R141). -/
structure Passes (i : Instr) (sg : Sig) (s : State) (t : Team) (th : Thread) : Prop where
  admitted : Admitted i s t th
  ready    : GuardReady i t th
  holds    : guardHolds (viewOf s th).preds (encOf i).grd (encOf i).gneg = true
  seed     : seedHeld i th = false
  operands : OperandsPass sg s t th

/-- An instruction that each thread executes by itself: not one of a gang (R100), nor a team's copy (R188). -/
def actsAlone (i : Instr) : Bool :=
  match i with
  | .vote _ | .shfl _ | .gred _ | .gscan _ | .matchG _ | .elect _ | .copy _ | .copyt _ => false
  | _ => true

/-- The instruction's end in its thread after the effect `s1`: the thread goes on at `pc`, its energy is charged, and the next
thread of the issue set has its turn. -/
def ended (i : Instr) (sg : Sig) (_s : State) (uid tid : Nat) (t : Team) (th : Thread) (s1 : State) (pc : W64) : State :=
  popIssue (chargeIssue i t.asid th (retireAt s1 uid tid i sg true th pc))

/-- A trap taken at the instruction. -/
def trapped (i : Instr) (t : Team) (th : Thread) (uid tid : Nat) (s1 : State) (tr : Trap) : State :=
  popIssue (chargeIssue i t.asid th (takeTrap s1 uid tid tr))

/-! ## Instructions that write their own thread only -/

/-- A short stall distance stands on v register n (R68): the register ends with this write or with the earlier one (R70). -/
def hazardOn (th : Thread) (pred : Bool) (n : Nat) : Bool := th.hazards.any (fun h => isShort h && h.pred == pred && h.num == n)

/-- The thread after an instruction with writes `w`: the registers, predicates and seed written, every other register as before,
and nothing else but the pc and what the issue of an instruction keeps (R68 to R72). -/
structure WroteThread (i : Instr) (th : Thread) (w : Writes) (th' : Thread) : Prop where
  pc     : th'.pc = nextPc i th
  regs   : ∀ n r, (n, r) ∈ w.regs → readV th' n = r ∨ (hazardOn th false n = true ∧ readV th' n = readV th n)
  kept   : ∀ n, (∀ p ∈ w.regs, p.1 ≠ n) → readV th' n = readV th n
  preds  : ∀ n b, (n, b) ∈ w.preds → n < 7 →
    readPred th'.preds n = b ∨ (hazardOn th true n = true ∧ readPred th'.preds n = readPred th.preds n)
  keptP  : ∀ n, n < 8 → (∀ p ∈ w.preds, p.1 ≠ n) → readPred th'.preds n = readPred th.preds n
  seed   : th'.seed = w.seed.getD th.seed
  ready  : th'.st = .ready
  frame  : th' = { th with regs := th'.regs, preds := th'.preds, seed := th'.seed, pc := th'.pc, hazards := th'.hazards,
                           pending := th'.pending, stall := th'.stall, drain := th'.drain, issued := th.issued + 1, age := 0,
                           waited := 0, begun := none, released := false, rel := th.rel.filter (fun r => !r.own), noFill := false,
                           early := if keepsEarly i then th.early else [], pass := false, freed := false, syncing := none, reply := [],
                           st := th'.st }

/-- The whole machine after it: no other thread, team, core, memory byte or device register changes; the contexts' energy in this
cycle and the counter of free values may. -/
structure Wrote (i : Instr) (s : State) (uid tid : Nat) (t : Team) (th : Thread) (w : Writes) (s' : State) : Prop where
  thread : ∃ th', getTeam s' uid = some (setThread t tid th') ∧ WroteThread i th w th'
  others : ∀ u, u ≠ uid → getTeam s' u = getTeam s u
  ctxs   : ∀ a, ∃ d, getCtx s' a = (getCtx s a).map (fun c => { c with due := c.due + d })
  frame  : s' = { s with issue := s.issue.drop 1, teams := s'.teams, ctxs := s'.ctxs, freeCtr := s'.freeCtr }

/-- The instruction completes with the writes `w` wherever the checks of R76 pass, and does nothing else. -/
def Computes (i : Instr) (sg : Sig) (w : Cur → Writes) : Prop :=
  ∀ (s : State) (uid tid : Nat) (t : Team) (th : Thread), Turn s uid tid t th → Passes i sg s t th →
    ∃ s', exec i s = .next s' ∧ Wrote i s uid tid t th (w (curOf s t th)) s'

/-! ## How an instruction of one thread completes -/

/-- Wherever the checks of R76 pass and `pre` holds of the state and the operands, the instruction ends with the effect `eff`, and
the thread goes on after it. -/
def Goes (i : Instr) (sg : Sig) (pre : State → Nat → Nat → Cur → Prop) (eff : State → Nat → Nat → Cur → State) : Prop :=
  ∀ (s : State) (uid tid : Nat) (t : Team) (th : Thread), Turn s uid tid t th → Passes i sg s t th →
    pre (issueState s th) uid tid (curOf s t th) →
    exec i s = .next (ended i sg s uid tid t th (eff (issueState s th) uid tid (curOf s t th)) (nextPc i th))

/-- Likewise, and the thread goes on at `pc`. -/
def Jumps (i : Instr) (sg : Sig) (pre : State → Nat → Nat → Cur → Prop) (eff : State → Nat → Nat → Cur → State)
    (pc : State → Nat → Nat → Cur → W64) : Prop :=
  ∀ (s : State) (uid tid : Nat) (t : Team) (th : Thread), Turn s uid tid t th → Passes i sg s t th →
    pre (issueState s th) uid tid (curOf s t th) →
    exec i s = .next (ended i sg s uid tid t th (eff (issueState s th) uid tid (curOf s t th))
      (pc (issueState s th) uid tid (curOf s t th)))

/-- Likewise, and the thread takes a trap in the state `eff` leaves. -/
def Traps (i : Instr) (sg : Sig) (pre : State → Nat → Nat → Cur → Prop) (eff : State → Nat → Nat → Cur → State)
    (tr : State → Nat → Nat → Cur → Trap) : Prop :=
  ∀ (s : State) (uid tid : Nat) (t : Team) (th : Thread), Turn s uid tid t th → Passes i sg s t th →
    pre (issueState s th) uid tid (curOf s t th) →
    exec i s = .next (trapped i t th uid tid (eff (issueState s th) uid tid (curOf s t th)) (tr (issueState s th) uid tid (curOf s t th)))

/-- Likewise, and the thread waits at the instruction. -/
def Waits (i : Instr) (sg : Sig) (pre : State → Nat → Nat → Cur → Prop) (eff : State → Nat → Nat → Cur → State)
    (w : State → Nat → Nat → Cur → Wait) : Prop :=
  ∀ (s : State) (uid tid : Nat) (t : Team) (th : Thread), Turn s uid tid t th → Passes i sg s t th →
    pre (issueState s th) uid tid (curOf s t th) →
    exec i s = .next (popIssue (chargeIssue i t.asid th (holdThread (eff (issueState s th) uid tid (curOf s t th)) uid tid
      (w (issueState s th) uid tid (curOf s t th)))))

/-- Likewise, where the effect settles the thread itself. -/
def Leaves (i : Instr) (sg : Sig) (pre : State → Nat → Nat → Cur → Prop) (eff : State → Nat → Nat → Cur → State) : Prop :=
  ∀ (s : State) (uid tid : Nat) (t : Team) (th : Thread), Turn s uid tid t th → Passes i sg s t th →
    pre (issueState s th) uid tid (curOf s t th) →
    exec i s = .next (popIssue (chargeIssue i t.asid th (eff (issueState s th) uid tid (curOf s t th))))

/-- No condition beyond the checks, and no effect beyond the thread's going on. -/
def always : State → Nat → Nat → Cur → Prop := fun _ _ _ _ => True
def same : State → Nat → Nat → Cur → State := fun s _ _ _ => s

/-- An event that is enabled takes the machine to `t`, and one that is not enabled stops the model with `notEnabled`. -/
def Happens (i : Instr) (s : State) (enabled : Prop) (t : State) : Prop :=
  (enabled → exec i s = .next t) ∧ (¬ enabled → exec i s = .fault .notEnabled)

/-! ## Gang instructions -/

/-- What a gang instruction leaves whose cohort has met: every participant's writes, from what all of them read, and every member
after the instruction (R100). -/
def gangEffect (i : Instr) (sg : Sig) (f : List Part → Part → Writes) (s : State) (uid : Nat) (t : Team)
    (mem : List (Nat × Thread)) : State :=
  let gs := memberGates s i sg t mem s.freeCtr
  let ps := partsOf gs.1
  let s1 := ps.foldl (fun st p => applyWrites st uid p.tid (f ps p)) { s with freeCtr := gs.2 }
  let s2 := ps.foldl (fun st p => retireAt st uid p.tid i sg true p.old (nextPc i p.old)) s1
  passOthers s2 uid i sg gs.1

/-- A gang instruction waits for its cohort and executes once for all of it; in a cohort of one it writes what `f` gives and changes
nothing else. -/
def Gathers (i : Instr) (sg : Sig) (f : List Part → Part → Writes) : Prop :=
  (∀ (s : State) (uid tid : Nat) (t : Team) (th : Thread), Turn s uid tid t th → Passes i sg s t th → rendezvous t tid th = none →
    exec i s = .next (popIssue (chargeIssue i t.asid th (holdThread s uid tid .gang)))) ∧
  (∀ (s : State) (uid tid : Nat) (t : Team) (th : Thread) (mem : List (Nat × Thread)), Turn s uid tid t th → Passes i sg s t th →
    rendezvous t tid th = some mem →
    exec i s = .next (popIssue (chargeIssue i t.asid th (gangEffect i sg f s uid t mem)))) ∧
  (∀ (s : State) (uid tid : Nat) (t : Team) (th : Thread), Turn s uid tid t th → Passes i sg s t th →
    rendezvous t tid th = some [(tid, th)] →
    let p : Part := { tid := tid, old := th, cur := curOf s t th }
    ∃ s', exec i s = .next s' ∧ Wrote i s uid tid t th (f [p] p) s')

/-! ## Accesses -/

/-- An access of n bytes by the thread to the scratch of its own chip that every check of R144 lets pass: a window address aligned to
n inside a grant of its context, outside the areas of other threads, without error, with no comparator armed on the core, no stores
held there, no store of the thread behind its release part (R146), and no release's set carried for the Loupe. -/
structure OwnScratch (s : State) (t : Team) (th : Thread) (ea : W64) (n : Nat) : Prop where
  window  : isWindow ea = true
  chip    : winChip ea = chipId s
  inside  : winOff ea < Config.sliceBytes
  aligned : ea.toNat % n = 0
  granted : grantHeld s t.asid (winChip ea) (winCore ea) (winOff ea / 65536) = true
  apart   : hitsPrivate s (winCore ea) (winOff ea) n = false
  clean   : poisoned s (sliceKey (winCore ea) (winOff ea)) n = false
  watch   : th.pass = true ∨ (getCore s (teamCore t)).retic = []
  quiet   : (getCore s (teamCore t)).held = [] ∧ (getCore s (teamCore t)).near = []
  loupe   : s.carry = [] ∧ th.frel = []
  behind  : th.rel.any (fun r => !r.own) = false

/-- The key of a byte of scratch by its window address. -/
def scratchKey (ea : W64) : Nat := sliceKey (winCore ea) (winOff ea)

/-! ## Team copies -/

/-- After the effect `s1` of a team's copy, every participant stands after the instruction, and the members that take no part too
(R188). -/
def allPass (i : Instr) (sg : Sig) (s1 : State) (uid : Nat) (gs : List (Nat × Thread × Gate)) : State :=
  passOthers ((partsOf gs).foldl (fun st p => retireAt st uid p.tid i sg true p.old (nextPc i p.old)) s1) uid i sg gs

/-- A team's copy whose cohort has met and whose lead participant `p` is the thread in hand: `ps` are the participants and `s0` the
state in which its effect takes place. -/
structure Leads (i : Instr) (sg : Sig) (s : State) (uid tid : Nat) (t : Team) (th : Thread) (mem : List (Nat × Thread))
    (ps : List Part) (p : Part) (s0 : State) : Prop where
  turn : Turn s uid tid t th
  pass : Passes i sg s t th
  meet : rendezvous t tid th = some mem
  parts : ps = partsOf (memberGates s i sg t mem s.freeCtr).1
  lead : leadOf ps = some p
  mine : p.tid = tid
  start : s0 = { s with freeCtr := (memberGates s i sg t mem s.freeCtr).2 }

end Sys2Proof.Machine
end

