-- ==== Sys2Proof/WellFormed.lean ====
section
/-! DEFINITION. Well-formed instructions: the encoding exists (R78) and its reserved content is as R61 to R65 ask. -/

namespace Sys2Proof

/-- The format and SUB are allocated and no reserved field or code is broken (checks 2 and 4 of R76). -/
def Instr.wf (i : Instr) : Bool := i.allocated && i.reservedOk

end Sys2Proof
end

