-- ==== Sys2Proof/Certificates/Slice0/Obligations.lean ====
section
/-! DEFINITION. The statements for the provers. Each says what an instruction, an event or the machine does, in the terms of
Sys2Proof/Safety.lean and of the machine's own operations. -/

open Sys2Proof Sys2Proof.Machine

/-! ## Encoding, fetch and reset -/

/-- O1. Words written out from the encodings of R57 to R59 and the worked encodings of the spec decode to the instructions they
stand for, one for each family. -/
def Obligations.WorkedWordsDecode : Prop :=
  (decode [0x0201E004#32] = .ok (.iaddA { d := 1, s := 2, grd := 7, stl := 0 }, [])) ∧
  (decode [0x0014E36A#32, 0x00401804#32, 0x00010008#32] =
    .ok (.copy { sub := 0, dst := 20, grd := 7, stl := 0, gneg := false, sat := false, kc := false, kb := false, ka := false,
                 sa := 4, tail := .c false 4 6 1 0 8 }, [])) ∧
  (decode [0x0015E37D#32, 0x00900014#32] =
    .ok (.tkwait { sub := 0, dst := 21, grd := 7, stl := 0, gneg := false, sat := false, kc := false, kb := false, ka := false,
                   sa := 20, tail := .b 9 0 }, [])) ∧
  (decode [0x400CE282#32, 0x00900008#32, 0x00000040#32] =
    .ok (.ld { sub := 16, dst := 12, grd := 7, stl := 0, gneg := false, sat := false, kc := false, kb := false, ka := false,
               sa := 8, tail := .cm false 9 0 0x40 }, [])) ∧
  (decode [0x2805E285#32, 0x40004008#32] =
    .ok (.st { sub := 10, dst := 5, grd := 7, stl := 0, gneg := false, sat := false, kc := false, kb := false, ka := false,
               sa := 8, tail := .bi 0x10 }, [])) ∧
  (decode [0x1000E341#32, 0x00000003#32] =
    .ok (.barSync { sub := 4, dst := 0, grd := 7, stl := 0, gneg := false, sat := false, kc := false, kb := false, ka := false,
                    sa := 3, tail := .b 0 0 }, []))

/-- O2. Decoding the words of an instruction gives that instruction back, with every field at every value its format has, and
leaves the words after it (R56 to R59, R77). -/
def Obligations.DecodeOfEncode : Prop :=
  ∀ (i : Instr) (ws rest : List W32), i.allocated = true → encode i = some ws → decode (ws ++ rest) = .ok (i, rest)

/-- O3. What decodes is an allocated instruction, and the words read are its encoding: no bit of them is dropped and no two
instructions share words (R57 to R59, R78). -/
def Obligations.EncodeOfDecode : Prop :=
  ∀ (ws rest : List W32) (i : Instr), decode ws = .ok (i, rest) →
    i.allocated = true ∧ ∃ e, encode i = some e ∧ ws = e ++ rest

/-- O4. A step with nothing arriving runs the instruction that the bytes at the head thread's PC decode to: the words come from
the core's instruction cache or from memory, little-endian at PC + 4 * i. An event from outside that has been handed in is what the
next step runs instead; of two writes of the ports to one register in one cycle the one of the port that lost the last tie comes
first (R403). -/
def Obligations.StepRunsDecoded : Prop :=
  (∀ (s s1 : State) (uid tid : Nat) (r : List (Nat × Nat)) (t : Team) (th : Thread) (ws rest : List W32) (i : Instr),
    s.inputs = [] → running s = true → s.fab.arrived = [] → (pruned s).issue = (uid, tid) :: r →
    getTeam s uid = some t → getThread t tid = some th →
    instrWords (pruned s) uid tid (teamCore t) t.asid th.pc = (.ok ws, s1) → decode ws = .ok (i, rest) →
    step s = exec i s1) ∧
  (∀ (s s1 : State) (uid tid core asid i : Nat) (pc : W64) (site : Site),
    fetchSite s asid (pc + BitVec.ofNat 64 (4 * i)) = (.ok site, s1) → site.chip = chipId s1 → poisoned s1 site.key 4 = false →
    (fetchWord s uid tid core asid pc i).1 = .ok (BitVec.ofNat 32 (bytesNat (readKey s1 site.key 4)))) ∧
  (∀ (s : State) (i : Instr) (r : List Instr), s.inputs = i :: r →
    ((∀ j rest, r = j :: rest → settleTie s i j = none) → step s = exec i { s with inputs := r }) ∧
    (∀ j rest p q off, r = j :: rest → sharedWrite i = some (p, off) → sharedWrite j = some (q, off) → p ≠ q →
      (p = s.host.tieLost → step s = exec i { s with inputs := r, host := { s.host with tieLost := q } }) ∧
      (p ≠ s.host.tieLost → step s = exec j { s with inputs := i :: rest, host := { s.host with tieLost := p } })))

/-- O5. Words that hold no instruction trap the thread with ILLEGAL_OPC, whose routing and record are `takeTrap`'s, unless the
landing check of R108 comes first: OPC 0x00 and 0xFC to 0xFF at every length, and the words 0 and 0xFFFFFFFF. -/
def Obligations.UnlistedOpcodesAreIllegal : Prop :=
  (∀ (ws : List W32) (w0 : W32) (r : List W32), ws = w0 :: r → ((opcOf w0).toNat = 0 ∨ 0xFC ≤ (opcOf w0).toNat) →
    ∃ e, decode ws = .error e) ∧
  (∀ (s : State) (uid tid : Nat) (t : Team) (th : Thread) (ws : List W32) (e : DecodeError), decode ws = .error e →
    th.landing = none →
    issueWords s uid tid t th ws = .next (popIssue (charge (takeTrap s uid tid { cause := .illegalOpc }) t.asid 0 1)))

/-- O6. What power-on leaves before the start steps: no team, context, grid or token, nothing in memory, no packet, no semaphore
taken, the boot counter 0, and the module waits for its start. Values the spec does not give for reset are not stated here. The memory has its canonical form (the model's own, log 4). -/
def Obligations.ResetLeaves : Prop :=
  State.reset.mem = [] ∧ State.reset.teams = [] ∧ State.reset.ctxs = [] ∧ State.reset.grids = [] ∧ State.reset.cores = [] ∧
  State.reset.poison = [] ∧ State.reset.host.sems = [] ∧ State.reset.care.att = 0 ∧ State.reset.care.phase = .resetting ∧
  (∀ c, getCore State.reset c = { id := c }) ∧ Memory.wf State.reset.mem = true

/-- O7. Bytes performed at a home: exactly the bytes written change, every other byte of memory reads as before, and the memory
keeps its canonical form (the model's form, log 4). A byte written reads back as given, but in the frame of a thread that is in its
handler: there the fault record is read-only and keeps its bytes, and bit 663 reads 0 (R9, R118). -/
def Obligations.HomeWritesOnlyItsBytes : Prop :=
  (∀ (s : State) (asid k a : Nat) (bs : List Byte), s.mem.wf = true →
    (homeWrite s asid k bs).mem.wf = true ∧
    readKey (homeWrite s asid k bs) a 1 = if k ≤ a ∧ a < k + bs.length then [storedByte s a (bs.getD (a - k) unlisted)] else readKey s a 1) ∧
  (∀ (s : State) (asid a : Nat) (ps : List (Nat × Byte)), s.mem.wf = true →
    (homePut s asid ps).mem.wf = true ∧ ((∀ p ∈ ps, p.1 ≠ a) → readKey (homePut s asid ps) a 1 = readKey s a 1)) ∧
  (∀ (s : State) (asid a : Nat) (b : Byte) (ps : List (Nat × Byte)), s.mem.wf = true →
    readKey (homePut s asid (ps ++ [(a, b)])) a 1 = [storedByte s a b]) ∧
  (∀ (s : State) (a : Nat) (b : Byte), (∀ t ∈ s.teams, ∀ th ∈ t.threads, th.handler = false) → storedByte s a b = b) ∧
  (∀ (s : State) (a i : Nat) (b : Byte), frameByteAt s a = some i →
    (i < 64 → [storedByte s a b] = readKey s a 1) ∧ (i = 82 → storedByte s a b = b &&& 0x7F) ∧
    (64 ≤ i → i ≠ 82 → storedByte s a b = b))

/-! ## Issue: checks, guards, stall distances -/

/-- O8. The checks of R76 in their order: a thread takes the first that fails and no later one, with the landing check of R108
before them and the interlock of R69 where the operand stands, or where sr.seed is (R141). -/
def Obligations.CheckOrder : Prop :=
  ∀ (s : State) (i : Instr) (t : Team) (th : Thread) (sg : Sig),
    (∀ a, landingFails i th = some a → gate s i t th sg = .trap { cause := .badTarget, addr := a, lnd := true }) ∧
    (landingFails i th = none → i.allocated = false → gate s i t th sg = .trap { cause := .illegalOpc }) ∧
    (landingFails i th = none → i.allocated = true → (∃ b ∈ i.features, (effFeat s t.asid).getLsbD b = false) →
      ∃ b ∈ i.features, (effFeat s t.asid).getLsbD b = false ∧ gate s i t th sg = .trap { cause := .maskedFeature, aux := b }) ∧
    (landingFails i th = none → i.allocated = true → (∀ b ∈ i.features, (effFeat s t.asid).getLsbD b = true) →
      i.reservedOk = false → gate s i t th sg = .trap { cause := .reservedField }) ∧
    (Admitted i s t th → sbChk t th = true → (encOf i).grd ≠ 7 → shortOn th [] [(encOf i).grd] ≠ [] →
      ∃ h ∈ shortOn th [] [(encOf i).grd], gate s i t th sg = .trap (stallTrap h)) ∧
    (Admitted i s t th → GuardReady i t th → guardHolds (viewOf s th).preds (encOf i).grd (encOf i).gneg = false →
      gate s i t th sg = .skip) ∧
    (Admitted i s t th → GuardReady i t th → guardHolds (viewOf s th).preds (encOf i).grd (encOf i).gneg = true →
      seedHeld i th = true → gate s i t th sg = .hold) ∧
    (Admitted i s t th → GuardReady i t th → guardHolds (viewOf s th).preds (encOf i).grd (encOf i).gneg = true →
      seedHeld i th = false → reticlePc s t th = none → badReg th sg.regs ≠ [] →
      ∃ n ∈ badReg th sg.regs, gate s i t th sg = .trap { cause := .reservedField, aux := n * 2 ^ 80 }) ∧
    (Admitted i s t th → GuardReady i t th → guardHolds (viewOf s th).preds (encOf i).grd (encOf i).gneg = true →
      seedHeld i th = false → reticlePc s t th = none → badReg th sg.regs = [] → interlocked th sg.regs (sg.pr ++ sg.pw) = true →
      gate s i t th sg = .hold) ∧
    (Admitted i s t th → GuardReady i t th → guardHolds (viewOf s th).preds (encOf i).grd (encOf i).gneg = true →
      seedHeld i th = false → reticlePc s t th = none → badReg th sg.regs = [] → interlocked th sg.regs (sg.pr ++ sg.pw) = false → sbChk t th = true →
      shortOn th sg.regs (sg.pr ++ sg.pw) ≠ [] →
      ∃ h ∈ shortOn th sg.regs (sg.pr ++ sg.pw), gate s i t th sg = .trap (stallTrap h)) ∧
    (Admitted i s t th → GuardReady i t th → guardHolds (viewOf s th).preds (encOf i).grd (encOf i).gneg = true →
      seedHeld i th = false → reticlePc s t th = none → badReg th sg.regs = [] → interlocked th sg.regs (sg.pr ++ sg.pw) = false →
      (sbChk t th = true → shortOn th sg.regs (sg.pr ++ sg.pw) = []) → tagRlx t th = false → badTag (viewOf s th) sg.regs ≠ [] →
      ∃ p ∈ badTag (viewOf s th) sg.regs, gate s i t th sg =
        .trap { cause := .tagMismatch, aux := p.1 + tagCode p.2.1 * 2 ^ 10 + tagCode p.2.2 * 2 ^ 14 })

/-- O9. The traps of the encoding checks come before anything an instruction does, and take it alone: the landing check, ILLEGAL_OPC,
MASKED_FEATURE for a masked feature, RESERVED_FIELD, for every instruction of Iveel 9 (R76, R108, R224). -/
def Obligations.EncodingChecksTrap : Prop :=
  ∀ (i : Instr) (s : State) (uid tid : Nat) (t : Team) (th : Thread), (encode i).isSome = true → Turn s uid tid t th →
    (∀ a, landingFails i th = some a →
      exec i s = .next (trapped i t th uid tid (nextFree s) { cause := .badTarget, addr := a, lnd := true })) ∧
    (landingFails i th = none → i.allocated = false →
      exec i s = .next (trapped i t th uid tid (nextFree s) { cause := .illegalOpc })) ∧
    (landingFails i th = none → i.allocated = true → (∃ b ∈ i.features, (effFeat s t.asid).getLsbD b = false) →
      ∃ b ∈ i.features, (effFeat s t.asid).getLsbD b = false ∧
        exec i s = .next (trapped i t th uid tid (nextFree s) { cause := .maskedFeature, aux := b })) ∧
    (landingFails i th = none → i.allocated = true → (∀ b ∈ i.features, (effFeat s t.asid).getLsbD b = true) →
      i.reservedOk = false → exec i s = .next (trapped i t th uid tid (nextFree s) { cause := .reservedField }))

/-- O10. A thread whose guard is false takes none of an instruction's effects and goes on after it, whatever the instruction (the
gang and team instructions apart, whose own entries say who takes part): for every instruction of one thread but a control
transfer nothing changes beside the pc and the issue's own bookkeeping (R60, R68). -/
def Obligations.FalseGuardDoesNothing : Prop :=
  ∀ (i : Instr) (s : State) (uid tid : Nat) (t : Team) (th : Thread),
    (encode i).isSome = true → actsAlone i = true → Turn s uid tid t th → Admitted i s t th → GuardReady i t th →
    guardHolds (viewOf s th).preds (encOf i).grd (encOf i).gneg = false →
    exec i s = .next (popIssue (chargeIssue i t.asid th (retireAt s uid tid i {} false th (nextPc i th)))) ∧
    (isControl i = false → ∃ s', exec i s = .next s' ∧ Wrote i s uid tid t th {} s')

/-- O11. A stall distance that is too short is not detected with SBCHK 0; each register and predicate then reads as before or after
the producer's write, value and tag together, and one that is written again ends with either write; with every distance sufficient a thread reads them as
they stand (R68, R70). -/
def Obligations.ShortStallReadsEither : Prop :=
  (∀ (s : State) (i : Instr) (t : Team) (th : Thread) (sg : Sig) (h : Hazard), sbChk t th = false →
    gate s i t th sg ≠ .trap (stallTrap h)) ∧
  (∀ (s : State) (th : Thread) (n : Nat), n < th.regs.length →
    readV (viewOf s th) n = readV th n ∨
      ∃ h ∈ th.hazards, isShort h = true ∧ h.pred = false ∧ h.num = n ∧ readV (viewOf s th) n = h.old) ∧
  (∀ (s : State) (th : Thread) (n : Nat), n < 7 → (∀ h ∈ th.hazards, h.pred = true → h.num < 7) →
    readPred (viewOf s th).preds n = readPred th.preds n ∨
      ∃ h ∈ th.hazards, isShort h = true ∧ h.pred = true ∧ h.num = n ∧ readPred (viewOf s th).preds n = h.old.val.getLsbD 0) ∧
  (∀ (s : State) (uid tid n : Nat) (t : Team) (th : Thread) (r : Reg), getTeam s uid = some t → getThread t tid = some th →
    n < th.regs.length → hazardOn th false n = true →
    ∃ t' th', getTeam (putReg s uid tid n r) uid = some t' ∧ getThread t' tid = some th' ∧
      (readV th' n = r ∨ readV th' n = readV th n)) ∧
  (∀ (s : State) (th : Thread), (∀ h ∈ th.hazards, isShort h = false) → viewOf s th = th ∧ ctrOf s th = s.freeCtr)

/-- O12. The end of an instruction in its thread: STL adds 1 + STL to the distance of every earlier producer, a fixed-latency
instruction leaves its own until its latency is reached, STL 7 ends them all, and the written registers of a variable-latency
instruction are interlocked, and sr.seed after a `wrsr` to it (R141); the thread holds for STL cycles after the one in which it issued
(R68, R69). -/
def Obligations.StallDistancesGrow : Prop :=
  ∀ (e : Enc) (sg : Sig) (old th : Thread) (pc : W64) (wrote : Bool),
    (e.stl = 7 → (∀ h ∈ (advance e sg wrote old th pc).hazards, False) ∧ (advance e sg wrote old th pc).stall = 0) ∧
    (e.stl < 7 → (advance e sg wrote old th pc).stall = (if e.stl = 0 then 0 else e.stl + 1) ∧
      ∀ h ∈ th.hazards, h.dist + 1 + e.stl < h.lat →
        ({ h with dist := h.dist + 1 + e.stl } : Hazard) ∈ (advance e sg wrote old th pc).hazards) ∧
    (e.stl < 7 → e.stl + 1 < e.lat → ∀ n ∈ writtenRegs sg,
      ({ pred := false, num := n, old := readV old n, dist := e.stl + 1, lat := e.lat } : Hazard) ∈
        (advance e sg true old th pc).hazards) ∧
    (e.lat = 0 → (∀ n ∈ writtenRegs sg, Pending.v n ∈ (advance e sg true old th pc).pending) ∧
      (sg.seedW = true → Pending.seed ∈ (advance e sg true old th pc).pending)) ∧
    (∀ (s : State) (t : Team) (tid n : Nat), th.st = .ready → th.saved = false → th.drain = false → th.stall = n + 1 →
      mayIssue s t tid th = false ∧ (tickThread s t tid th).stall = n)

/-! ## Traps -/

/-- O13. A trap that the team's mask routes to the thread's own handler (R118, R343): its pending writes complete, its handler frame
is filled with the record and v0 to v3 and p0 to p6, v0:v1 hold the frame's window address, v2 the cause and v3 zero, and the thread
goes on at sr.hent, as it stood when the instruction issued (R25), in its handler, a cohort of one; no other register or byte changes. -/
def Obligations.TrapEntersOwnHandler : Prop :=
  ∀ (s : State) (uid tid : Nat) (t : Team) (th : Thread) (c : Ctx) (tr : Trap),
    getTeam s uid = some t → getThread t tid = some th → getCtx s t.asid = some c → th.st ≠ .gone → 4 ≤ th.regs.length →
    tr.halt = false → tr.rpl = false → tr.cause ≠ .misalignedData → tr.cause ≠ .uncorrectable →
    t.trm.getLsbD (causeCode tr.cause) = true → hentOf t th ≠ 0 → th.handler = false →
    let a := windowAddr (chipId s) (teamCore t) (frameOff t tid)
    ∃ t' th', getTeam (takeTrap s uid tid tr) uid = some t' ∧ getThread t' tid = some th' ∧
      th'.pc = hentOf t th ∧ th'.handler = true ∧ th'.st = .ready ∧ th'.hazards = [] ∧ th'.pending = [] ∧ th'.cohort = t.nextCohort ∧
      readV th' 0 = { val := lo32 a, tag := .b32 } ∧ readV th' 1 = { val := hi32 a, tag := .b32 } ∧
      readV th' 2 = { val := BitVec.ofNat 32 (causeCode tr.cause), tag := .b32 } ∧ readV th' 3 = { val := 0, tag := .b32 } ∧
      (∀ n, 4 ≤ n → readV th' n = readV th n) ∧ th'.preds = th.preds ∧ th'.seed = th.seed ∧
      th'.frc.pc = th.pc ∧ th'.frc.cause = BitVec.ofNat 8 (causeCode tr.cause) ∧ th'.frc.addr = tr.addr ∧
      th'.frc.tid = BitVec.ofNat 12 tid ∧ th'.frc.team = t.serial ∧
      (takeTrap s uid tid tr).mem = memWrite s.mem (sliceKey (teamCore t) (frameOff t tid))
        (natBytes 128 (frameNat th th'.frc (entryAction tr.cause))) ∧
      (∀ u, u ≠ uid → getTeam (takeTrap s uid tid tr) u = getTeam s u)

/-- O14. Any other trap of a cause that goes by the mask, in the handler or without one, parks the thread with its record: the entry
is offered to the parent and its ancestors, with NEST where the thread was in its handler (R118, R343, R344). -/
def Obligations.TrapParksThread : Prop :=
  ∀ (s : State) (uid tid : Nat) (t : Team) (th : Thread) (c : Ctx) (tr : Trap),
    getTeam s uid = some t → getThread t tid = some th → getCtx s t.asid = some c → th.st ≠ .gone →
    tr.halt = false → tr.rpl = false →
    (tr.cause = .misalignedData ∨ tr.cause = .uncorrectable ∨ t.trm.getLsbD (causeCode tr.cause) = false ∨ hentOf t th = 0 ∨
      th.handler = true) →
    ∃ e p t' th', postEntry s e (parentChain s t.asid) = p ∧ e.pc = th.pc ∧ e.cause = BitVec.ofNat 8 (causeCode tr.cause) ∧
      e.nest = th.handler ∧ e.src = ctxHandle c ∧ e.addr = tr.addr ∧ e.about = .thread uid tid ∧
      getTeam (takeTrap s uid tid tr) uid = some t' ∧ getThread t' tid = some th' ∧
      th'.st = parkPosted p.1 ∧ th'.pc = th.pc ∧ th'.regs = th.regs ∧ th'.preds = th.preds ∧ th'.frc.pc = th.pc ∧
      th'.hazards = [] ∧ th'.pending = [] ∧
      takeTrap s uid tid tr = { p.2 with teams := (takeTrap s uid tid tr).teams } ∧
      (∀ u, u ≠ uid → getTeam (takeTrap s uid tid tr) u = getTeam s u)

/-- O15. `hret` (R119): outside the handler, with an ACTION above 2 or with a misaligned RADDR it takes BAD_TARGET; else v0 to v3 and
p0 to p6 come back from the frame, every other register stays, the handler-active state ends, and the thread goes on at the record's
PC, after that instruction, or at RADDR. -/
def Obligations.HandlerReturn : Prop :=
  ∀ (o : Short) (s : State) (uid tid : Nat) (t : Team) (th : Thread),
    Turn s uid tid t th → Passes (.hret o) {} s t th →
    let f := fun hi lo => frameBits s t tid hi lo
    (th.handler = false → exec (.hret o) s = .next (trapped (.hret o) t th uid tid (issueState s th)
      { cause := .badTarget })) ∧
    (th.handler = true → (f 671 664 > 2 ∨ f 767 704 % 4 ≠ 0) → exec (.hret o) s = .next (trapped (.hret o) t th uid tid
      (issueState s th) { cause := .badTarget, addr := BitVec.ofNat 64 (f 767 704), aux := f 671 664 })) ∧
    (th.handler = true → f 671 664 ≤ 2 → f 767 704 % 4 = 0 → 4 ≤ th.regs.length →
      ∃ s' t' th', exec (.hret o) s = .next s' ∧ getTeam s' uid = some t' ∧ getThread t' tid = some th' ∧
        th'.pc = (if f 671 664 = 0 then BitVec.ofNat 64 (f 511 448)
          else if f 671 664 = 1 then BitVec.ofNat 64 (f 511 448) + BitVec.ofNat 64 (4 * wordLen (BitVec.ofNat 32 (f 383 352)))
          else BitVec.ofNat 64 (f 767 704)) ∧
        th'.handler = false ∧ th'.cohort = t.nextCohort ∧
        (∀ n, n < 4 → readV th' n = { val := BitVec.ofNat 32 (f (512 + 32 * n + 31) (512 + 32 * n)),
                                      tag := codeTag (f (640 + 4 * n + 3) (640 + 4 * n)) }) ∧
        (∀ n, 4 ≤ n → readV th' n = readV th n) ∧ th'.preds = BitVec.ofNat 7 (f 662 656) ∧ s'.mem = s.mem ∧
        (∀ u, u ≠ uid → getTeam s' u = getTeam s u))

/-! ## Integers (R85 to R89) -/

/-- O16. The 32-bit integer forms write DST := DST op SRC or op SRC in two's complement of 32 bits, tagged B32, and nothing else
(R85, R86, R87, R59). -/
def Obligations.ShortIntegerForms : Prop :=
  ∀ o : Short,
    let d := fun (c : Cur) => (readV c.th o.d.toNat).val
    let x := fun (c : Cur) => (readV c.th o.s.toNat).val
    let out := fun (f : Cur → W32) (c : Cur) => outR [(o.d.toNat, { val := f c, tag := .b32 })]
    Computes (.iaddA o) (sigA o) (out (fun c => d c + x c)) ∧
    Computes (.isubA o) (sigA o) (out (fun c => d c - x c)) ∧
    Computes (.imulA o) (sigA o) (out (fun c => d c * x c)) ∧
    Computes (.iminA o) (sigA o) (out (fun c => if (d c).sle (x c) then d c else x c)) ∧
    Computes (.imaxA o) (sigA o) (out (fun c => if (d c).sle (x c) then x c else d c)) ∧
    Computes (.iabsA o) (sigA1 o) (out (fun c => if (x c).slt 0 then - x c else x c)) ∧
    Computes (.inegA o) (sigA1 o) (out (fun c => - x c))

/-- O17. The long integer forms compute on exact integers, three operands where TRI is 1, and bring the exact value into the type
once, at the end: `iadd`, `isub`, `imul`, `imin`, `imax`, `iabs`, `ineg`, `imulh`, `imad` (R85 to R87). -/
def Obligations.LongIntegerForms : Prop :=
  ∀ o : Long,
    let a := fun (c : Cur) => opdInt c o.sub (srcA o)
    let b := fun (c : Cur) => opdInt c o.sub (srcB o o.sub)
    let e := fun (c : Cur) => opdInt c o.sub (srcC o)
    let out := fun (z : Cur → Int) (c : Cur) => outR (resultAs o.sub o.dst.toNat (intResult o.sub o.sat (z c)))
    let one := sigR (useTyped o.sub (srcA o) ++ useDst o.dst.toNat (tyRegs o.sub))
    Computes (.iadd o) (sigThree o) (out (fun c => a c + b c + (if o.tri then e c else 0))) ∧
    Computes (.isub o) (sigThree o) (out (fun c => a c - b c - (if o.tri then e c else 0))) ∧
    Computes (.imul o) (sigThree o) (out (fun c => a c * b c * (if o.tri then e c else 1))) ∧
    Computes (.imin o) (sigThree o) (out (fun c => if o.tri then min (min (a c) (b c)) (e c) else min (a c) (b c))) ∧
    Computes (.imax o) (sigThree o) (out (fun c => if o.tri then max (max (a c) (b c)) (e c) else max (a c) (b c))) ∧
    Computes (.iabs o) one (out (fun c => if a c < 0 then - a c else a c)) ∧
    Computes (.ineg o) one (out (fun c => - a c)) ∧
    Computes (.imulh o) (sigR (useTyped o.sub (srcA o) ++ useTyped o.sub (srcB o o.sub) ++ useDst o.dst.toNat (tyRegs o.sub)))
      (fun c => outR (resultAs o.sub o.dst.toNat (BitVec.ofInt 64 (a c * b c / (2 : Int) ^ tyWidth o.sub)))) ∧
    Computes (.imad o) (sigR (useTyped o.sub (srcA o) ++ useTyped o.sub (srcB o o.sub) ++ useTyped o.sub (imadAddend o)
        ++ useDst o.dst.toNat (tyRegs o.sub)))
      (out (fun c => a c * b c + opdInt c o.sub (imadAddend o)))

/-- O18. An exact integer brought into a type: with `.sat` the nearest value of the type's range, without it the value of the range
that is equal modulo 2^w. `iaddc` and `isubb`: the result register and the carry or borrow predicate together hold the exact sum or difference of the
two operands and the predicate read (R87, R88). -/
def Obligations.IntegerValues : Prop :=
  (∀ (t : BitVec 6) (z : Int), t.toNat < 4 →
    let w := tyWidth t
    let lo := intMin w (tySigned t)
    let hi := intMax w (tySigned t)
    let read := fun (v : W64) => if tySigned t then toSigned w v.toNat else ((v.toNat % 2 ^ w : Nat) : Int)
    read (intResult t true z) = max lo (min hi z) ∧
    lo ≤ read (intResult t false z) ∧ read (intResult t false z) ≤ hi ∧ ∃ k : Int, read (intResult t false z) = z + k * (2 : Int) ^ w) ∧
  (∀ o : Long,
    let a := fun (c : Cur) => opdNat c (ty64 o.sub) (srcA o)
    let b := fun (c : Cur) => opdNat c (ty64 o.sub) (srcB o o.sub)
    let p := fun (c : Cur) => readPred c.th.preds (carryIn o)
    Computes (.iaddc o) (sigCarry o) (fun c =>
      { regs := resultAs o.sub o.dst.toNat (BitVec.ofNat 64 (a c + b c + (p c).toNat))
        preds := [(carryTo o, carryOut (tyWidth o.sub) (a c) (b c) (p c))] }) ∧
    Computes (.isubb o) (sigCarry o) (fun c =>
      { regs := resultAs o.sub o.dst.toNat (BitVec.ofInt 64 ((a c : Int) - b c - (p c).toNat))
        preds := [(carryTo o, borrowOut (a c) (b c) (p c))] })) ∧
  (∀ (w a b : Nat) (p : Bool), a < 2 ^ w → b < 2 ^ w →
    (carryOut w a b p).toNat * 2 ^ w + (a + b + p.toNat) % 2 ^ w = a + b + p.toNat ∧
    ((a : Int) - b - p.toNat) + (borrowOut a b p).toNat * (2 : Int) ^ w = ((a : Int) - b - p.toNat) % (2 : Int) ^ w)

/-- O19. Comparisons write the predicate that DST names with the comparison, combined with a predicate as MODB says: `iset` of
integers, `fset`, `dset` and `hset2` of floating-point values, whose two elements have a predicate each (one that
both name ends with the one or the other) (R89, R125). -/
def Obligations.Comparisons : Prop :=
  ∀ o : Long,
    let two := useTyped o.sub (srcA o) ++ useTyped o.sub (srcB o o.sub)
    let elem := fun (c : Cur) (k : Nat) => compareElem (floatFmt o.sub) (setCode o)
      (flipSign (floatFmt o.sub) o.na ((floatElems c o.sub (srcA o)).getD k 0))
      (flipSign (floatFmt o.sub) o.nb ((floatElems c o.sub (srcB o o.sub)).getD k 0))
    let one := fun (c : Cur) => ({ preds := [(setPd o, combined o c.th.preds (elem c 0))] } : Writes)
    Computes (.iset o) (sigP two (combReads o) [setPd o]) (fun c =>
      { preds := [(setPd o, combined o c.th.preds (compareInt (setCode o) (opdInt c o.sub (srcA o)) (opdInt c o.sub (srcB o o.sub))))] }) ∧
    (o.sub = 0x10 → Computes (.fset o) (sigP two (combReads o) [setPd o]) one) ∧
    (o.sub = 0x11 → Computes (.dset o) (sigP two (combReads o) [setPd o]) one) ∧
    (o.sub = 0x12 ∨ o.sub = 0x13 → setPd o ≠ setPe o → Computes (.hset2 o) (sigP two (combReads o) [setPd o, setPe o]) (fun c =>
      { preds := [(setPd o, combined o c.th.preds (elem c 0)), (setPe o, combined o c.th.preds (elem c 1))] })) ∧
    (o.sub = 0x12 ∨ o.sub = 0x13 → setPd o = setPe o → ∀ (s : State) (uid tid : Nat) (t : Team) (th : Thread), Turn s uid tid t th →
      Passes (.hset2 o) (sigP two (combReads o) [setPd o, setPe o]) s t th →
      ∃ s' b, exec (.hset2 o) s = .next s' ∧ Wrote (.hset2 o) s uid tid t th { preds := [(setPd o, b)] } s' ∧
        ∃ k, k < 2 ∧ b = combined o (curOf s t th).th.preds (elem (curOf s t th) k))

/-! ## Logic, shifts, bits, moves, predicates (R28, R90 to R98, R135) -/

/-- O20. The untyped instructions write the bits they say register by register, tagged as the first source where all sources carry
one tag and B32 otherwise: the logic instructions, `mov`, `sel` and `prmt`; `tagset` and `tagget` write and read tags (R28, R90, R94,
R95, R96, R135). -/
def Obligations.UntypedInstructions : Prop :=
  (∀ o : Short,
    let two := sigR (useRaw 1 (.v o.d.toNat) ++ useRaw 1 (.v o.s.toNat) ++ useDst o.d.toNat 1)
    let one := sigR (useRaw 1 (.v o.s.toNat) ++ useDst o.d.toNat 1)
    let d := fun (c : Cur) => readV c.th o.d.toNat
    let x := fun (c : Cur) => readV c.th o.s.toNat
    let pair := fun (f : W32 → W32 → W32) (c : Cur) =>
      outR [(o.d.toNat, { val := f (d c).val (x c).val, tag := if (d c).tag = (x c).tag then (d c).tag else .b32 })]
    Computes (.andA o) two (pair (fun a b => a &&& b)) ∧ Computes (.orA o) two (pair (fun a b => a ||| b)) ∧
    Computes (.xorA o) two (pair (fun a b => a ^^^ b)) ∧ Computes (.andnA o) two (pair (fun a b => a &&& ~~~ b)) ∧
    Computes (.notA o) one (fun c => outR [(o.d.toNat, { val := ~~~ (x c).val, tag := (x c).tag })]) ∧
    Computes (.movA o) one (fun c => outR [(o.d.toNat, x c)])) ∧
  (∀ o : Long,
    let n := tyRegs o.sub
    let srcs := [srcA o, srcB o o.sub] ++ (if o.tri then [srcC o] else [])
    let sg := sigR (srcs.flatMap (useRaw n) ++ useDst o.dst.toNat n)
    let one := fun (n : Nat) => sigR (useRaw n (srcA o) ++ useDst o.dst.toNat n)
    let each := fun (n : Nat) (f : Nat → Reg) => outR ((List.range n).map (fun j => (o.dst.toNat + j, f j)))
    let fold := fun (f : W32 → W32 → W32) (c : Cur) => each n (fun j =>
      let a := opdReg c (srcA o) j
      let b := opdReg c (srcB o o.sub) j
      let e := opdReg c (srcC o) j
      if o.tri then { val := f (f a.val b.val) e.val, tag := untypedTag [a.tag, b.tag, e.tag] }
      else { val := f a.val b.val, tag := untypedTag [a.tag, b.tag] })
    Computes (.and o) sg (fold (fun a b => a &&& b)) ∧ Computes (.or o) sg (fold (fun a b => a ||| b)) ∧
    Computes (.xor o) sg (fold (fun a b => a ^^^ b)) ∧ Computes (.andn o) sg (fold (fun a b => a &&& ~~~ b)) ∧
    Computes (.not o) (one n) (fun c => each n (fun j =>
      { val := ~~~ (opdReg c (srcA o) j).val, tag := (opdReg c (srcA o) j).tag })) ∧
    Computes (.mov o) (one (if o.sub == 0x0C then 4 else n)) (fun c => each (if o.sub == 0x0C then 4 else n) (opdReg c (srcA o))) ∧
    Computes (.sel o) (sigP (useRaw n (srcA o) ++ useRaw n (srcB o o.sub) ++ useDst o.dst.toNat n) [o.mod.toNat % 8] []) (fun c =>
      each n (fun j =>
        { val := if xor (readPred c.th.preds (o.mod.toNat % 8)) (o.mod.getLsbD 3) then (opdReg c (srcA o) j).val
                 else (opdReg c (srcB o o.sub) j).val
          tag := untypedTag [(opdReg c (srcA o) j).tag, (opdReg c (srcB o o.sub) j).tag] })) ∧
    Computes (.prmt o) (sigR (useRaw 1 (srcA o) ++ useRaw 1 (prmtB o) ++ prmtSelUse o ++ useDst o.dst.toNat 1)) (fun c =>
      let a := opdReg c (srcA o) 0
      let b := opdReg c (prmtB o) 0
      let sel := if o.form = .b then (opd32 c (regOpd o.kb o.sb)).toNat % 2 ^ 16 else o.imm.toNat
      outR [(o.dst.toNat, { val := BitVec.ofNat 32 (prmtValue (cat64 a.val b.val) sel), tag := untypedTag [a.tag, b.tag] })]) ∧
    Computes (.tagset o) (one 1) (fun c => outR [(o.dst.toNat, { val := opd32 c (srcA o), tag := codeTag o.imm.toNat })]) ∧
    Computes (.tagget o) (one 1) (fun c =>
      outR [(o.dst.toNat, { val := BitVec.ofNat 32 (tagCode (opdReg c (srcA o) 0).tag), tag := .b32 })]))

/-- O21. The shifts, rotations, counts and bit fields write their value in the type, the C form of a shift after a wrapping add of SC
(R91, R92, R93). -/
def Obligations.ShiftsCountsFields : Prop :=
  (∀ o : Short,
    let shift := fun (f : Nat → Nat → Nat → Nat) (c : Cur) =>
      outR (resultAs 0x0A o.d.toNat (BitVec.ofNat 64 (f 32 (readV c.th o.d.toNat).val.toNat o.s.toNat)))
    let count := fun (f : Nat → Nat → Nat) (c : Cur) =>
      outR (result32 o.d.toNat (BitVec.ofNat 32 (f 32 (readV c.th o.s.toNat).val.toNat)) .b32)
    Computes (.shlAi o) (sigAi o) (shift shlBits) ∧ Computes (.shrAi o) (sigAi o) (shift shrBits) ∧
    Computes (.sarAi o) (sigAi o) (shift sarBits) ∧ Computes (.rolAi o) (sigAi o) (shift rolBits) ∧
    Computes (.rorAi o) (sigAi o) (shift rorBits) ∧
    Computes (.popcA o) (sigA1 o) (count popcBits) ∧ Computes (.clzA o) (sigA1 o) (count clzBits) ∧
    Computes (.ctzA o) (sigA1 o) (count ctzBits) ∧ Computes (.brevA o) (sigA1 o) (count brevBits)) ∧
  (∀ o : Long,
    let a := fun (c : Cur) => opdNat c (ty64 o.sub) (srcA o)
    let d := fun (c : Cur) => (opd32 c (descOpd o)).toNat
    let add := o.form == .c
    let sgShift := sigR (useTyped o.sub (srcA o) ++ useOpd (shiftCount o) 1 [.b32] ++ (if add then useTyped o.sub (srcC o) else [])
      ++ useDst o.dst.toNat (tyRegs o.sub))
    let shift := fun (f : Nat → Nat → Nat → Nat) (c : Cur) =>
      let x := f (tyWidth o.sub) (a c) (opd32 c (shiftCount o)).toNat
      outR (resultAs o.sub o.dst.toNat (BitVec.ofNat 64 (if add then x + opdNat c (ty64 o.sub) (srcC o) else x)))
    let sgCount := fun (n : Nat) => sigR (useTyped o.sub (srcA o) ++ useDst o.dst.toNat n)
    let count := fun (f : Nat → Nat → Nat) (c : Cur) => outR (resultAs 0x0A o.dst.toNat (BitVec.ofNat 64 (f (tyWidth o.sub) (a c))))
    let desc := useTyped o.sub (srcA o) ++ useOpd (descOpd o) 1 [.b32]
    Computes (.shl o) sgShift (shift shlBits) ∧ Computes (.shr o) sgShift (shift shrBits) ∧
    Computes (.sar o) sgShift (shift sarBits) ∧ Computes (.rol o) sgShift (shift rolBits) ∧
    Computes (.ror o) sgShift (shift rorBits) ∧
    Computes (.popc o) (sgCount 1) (count popcBits) ∧ Computes (.clz o) (sgCount 1) (count clzBits) ∧
    Computes (.ctz o) (sgCount 1) (count ctzBits) ∧
    Computes (.brev o) (sgCount (tyRegs o.sub)) (fun c =>
      outR (resultAs o.sub o.dst.toNat (BitVec.ofNat 64 (brevBits (tyWidth o.sub) (a c))))) ∧
    Computes (.bfx o) (sigR (desc ++ useDst o.dst.toNat (tyRegs o.sub))) (fun c =>
      outR (resultAs o.sub o.dst.toNat (BitVec.ofInt 64 (bfxValue (tyWidth o.sub) (tySigned o.sub) (opdInt c o.sub (srcA o))
        (fieldPos (d c)) (fieldLen (d c)))))) ∧
    Computes (.bfi o) (sigR (desc ++ useTyped o.sub (bfiBase o) ++ useDst o.dst.toNat (tyRegs o.sub))) (fun c =>
      outR (resultAs o.sub o.dst.toNat (BitVec.ofNat 64 (bfiValue (tyWidth o.sub) (opdNat c (ty64 o.sub) (bfiBase o)) (a c)
        (fieldPos (d c)) (fieldLen (d c)))))))

/-- O22. What the shift, count, field and byte functions are, bit by bit: shifts by the width or more give 0 or copies of the sign,
rotations take the count modulo the width, `clz` and `ctz` of zero give the width, and a field's bits above the width are discarded
(R91, R92, R93, R94). -/
def Obligations.ShiftAndFieldValues : Prop :=
  (∀ (w n : Nat) (a : BitVec w), 0 < w →
    BitVec.ofNat w (shlBits w a.toNat n) = a <<< n ∧ BitVec.ofNat w (shrBits w a.toNat n) = a >>> n ∧
    BitVec.ofNat w (sarBits w a.toNat n) = a.sshiftRight n ∧ BitVec.ofNat w (rolBits w a.toNat n) = a.rotateLeft n ∧
    BitVec.ofNat w (rorBits w a.toNat n) = a.rotateRight n) ∧
  (∀ (w a : Nat), a < 2 ^ w →
    popcBits w a = ((List.range w).filter (fun k => a.testBit k)).length ∧
    clzBits w a ≤ w ∧ (∀ k, k < clzBits w a → a.testBit (w - 1 - k) = false) ∧
    (clzBits w a < w → a.testBit (w - 1 - clzBits w a) = true) ∧
    ctzBits w a ≤ w ∧ (∀ k, k < ctzBits w a → a.testBit k = false) ∧ (ctzBits w a < w → a.testBit (ctzBits w a) = true) ∧
    (∀ k, k < w → (brevBits w a).testBit k = a.testBit (w - 1 - k))) ∧
  (∀ (w pos len k : Nat) (base value : Nat), base < 2 ^ w →
    (bfiValue w base value pos len).testBit k =
      (decide (k < w) && if pos ≤ k ∧ k < pos + min len w then value.testBit (k - pos) else base.testBit k)) ∧
  (∀ (w pos len : Nat) (signed : Bool) (a : Int), 0 < min len w →
    ∃ q : Int, a / (2 : Int) ^ pos = bfxValue w signed a pos len + q * (2 : Int) ^ (min len w) ∧
      intMin (min len w) signed ≤ bfxValue w signed a pos len ∧ bfxValue w signed a pos len ≤ intMax (min len w) signed) ∧
  (∀ (x : W64) (sel i : Nat), i < 4 →
    let nib := sel / 16 ^ i % 16
    let byte := x.toNat / 256 ^ (nib % 8) % 256
    prmtValue x sel / 256 ^ i % 256 = if nib < 8 then byte else if 128 ≤ byte then 255 else 0)

/-- O23. The moves, `lea` and the predicate instructions; p7 always reads true and a write to it is discarded, and p0 to p6 read as they
were last written (R19, R65, R96 to R98). -/
def Obligations.MovesAndPredicates : Prop :=
  (∀ o : Short, Computes (.moviAi o) (sigR (useDst o.d.toNat 1)) (fun _ =>
    outR [(o.d.toNat, { val := o.s.signExtend 32, tag := .b32 })])) ∧
  (∀ o : Long,
    let wide := sigR (useDst o.dst.toNat (tyTags o.sub).length)
    let pd := o.dst.toNat % 8
    let pa := fun (c : Cur) => xor (readPred c.th.preds (o.sa.toNat % 8)) (o.mod.getLsbD 0)
    let pb := fun (c : Cur) => xor (readPred c.th.preds (o.sb.toNat % 8)) (o.mod.getLsbD 1)
    let two := ({ pr := [o.sa.toNat % 8, o.sb.toNat % 8], pw := [pd] } : Sig)
    let one := ({ pr := [o.sa.toNat % 8], pw := [pd] } : Sig)
    let idx := fun (c : Cur) => opdInt c o.sub (srcB o o.sub)
    Computes (.movi o) wide (fun _ => outR (resultAs o.sub o.dst.toNat (imm16As o.sub o.imm))) ∧
    Computes (.movl o) wide (fun _ => outR (resultAs o.sub o.dst.toNat o.lit)) ∧
    Computes (.lea o) (sigR (useRaw 2 (srcA o) ++ useTyped o.sub (srcB o o.sub) ++ useDst o.dst.toNat 2)) (fun c =>
      outR (result64 o.dst.toNat (opd64 c (srcA o) + BitVec.ofInt 64 (
        if o.form = .bi then idx c
        else if o.form = .b then idx c * (2 : Int) ^ o.rnd
        else idx c * (2 : Int) ^ o.rnd + toSigned 16 o.imm.toNat)) .b32)) ∧
    Computes (.pand o) two (fun c => outP pd (pa c && pb c)) ∧ Computes (.por o) two (fun c => outP pd (pa c || pb c)) ∧
    Computes (.pxor o) two (fun c => outP pd (xor (pa c) (pb c))) ∧ Computes (.pnot o) one (fun c => outP pd (!pa c)) ∧
    Computes (.pmov o) one (fun c => outP pd (pa c)) ∧
    Computes (.pmovSave o) (sigP (useDst o.dst.toNat 1) [0, 1, 2, 3, 4, 5, 6] []) (fun c =>
      outR [(o.dst.toNat, { val := (c.th.preds.setWidth 32) ||| 0x80, tag := .b32 })]) ∧
    Computes (.pmovLoad o) { regs := useRaw 1 (srcA o), pw := [0, 1, 2, 3, 4, 5, 6] } (fun c =>
      { preds := [0, 1, 2, 3, 4, 5, 6].map (fun n => (n, (opd32 c (srcA o)).getLsbD n)) })) ∧
  (∀ (p : BitVec 7) (b : Bool), readPred p 7 = true ∧ writePred p 7 b = p ∧
    ∀ n m, n < 7 → m < 8 → readPred (writePred p n b) m = if m = n then b else readPred p m)

/-! ## Floating point (R35 to R54, R120 to R141) -/

/-- O24. The floating-point arithmetic instructions compute element by element on the operands with their signs flipped as NA, NB and
NC say, with one rounding, and `.rsr` draws from sr.seed, which goes up by 1 (R40, R120, R122, R123, R124, R126). -/
def Obligations.FloatArithmetic : Prop :=
  (∀ o : Short,
    let sg := sigR (useTyped 0x10 (.v o.d.toNat) ++ useTyped 0x10 (.v o.s.toNat) ++ useDst o.d.toNat 1)
    let out := fun (f : ElemOp) (c : Cur) => outR [(o.d.toNat,
      { val := BitVec.ofNat 32 (f fmtF32 0 0 false (readV c.th o.d.toNat).val.toNat (readV c.th o.s.toNat).val.toNat), tag := .f32 })]
    Computes (.faddA o) sg (out addElem) ∧ Computes (.fsubA o) sg (out subElem) ∧ Computes (.fmulA o) sg (out mulElem) ∧
    Computes (.fminA o) sg (out minElem) ∧ Computes (.fmaxA o) sg (out maxElem) ∧ Computes (.fdivA o) sg (out divOp)) ∧
  (∀ o : Long,
    let fmt := floatFmt o.sub
    let x := fun (c : Cur) (e : Nat) => flipSign fmt o.na ((floatElems c o.sub (srcA o)).getD e 0)
    let y := fun (c : Cur) (e : Nat) => flipSign fmt o.nb ((floatElems c o.sub (srcB o o.sub)).getD e 0)
    let z := fun (c : Cur) (e : Nat) => flipSign fmt (negC o) ((floatElems c o.sub (srcC o)).getD e 0)
    let all := fun (c : Cur) (f : Nat → Nat) =>
      ({ regs := floatResult o.sub o.dst.toNat ((List.range (floatCount o.sub)).map f)
         seed := if o.rnd = 4 then some (c.th.seed + 1) else none } : Writes)
    let sg2 := sigR (useTyped o.sub (srcA o) ++ useTyped o.sub (srcB o o.sub) ++ useDst o.dst.toNat (tyRegs o.sub))
    let sg3 := sigR (useTyped o.sub (srcA o) ++ useTyped o.sub (srcB o o.sub) ++ useTyped o.sub (srcC o)
      ++ useDst o.dst.toNat (tyRegs o.sub))
    let two := fun (f : ElemOp) (c : Cur) => all c (fun e => f fmt o.rnd (randomBits o.rnd c e) o.sat (x c e) (y c e))
    let three := fun (c : Cur) => all c (fun e => fmaElem fmt o.rnd (randomBits o.rnd c e) o.sat (x c e) (y c e) (z c e))
    (o.sub = 0x10 → Computes (.fadd o) sg2 (two addElem) ∧ Computes (.fsub o) sg2 (two subElem) ∧ Computes (.fmul o) sg2 (two mulElem) ∧
      Computes (.fmin o) sg2 (two minElem) ∧ Computes (.fmax o) sg2 (two maxElem) ∧ Computes (.fdiv o) sg2 (two divOp) ∧
      Computes (.ffma o) sg3 three) ∧
    (o.sub = 0x11 → Computes (.dadd o) sg2 (two addElem) ∧ Computes (.dmul o) sg2 (two mulElem) ∧ Computes (.dmin o) sg2 (two minElem) ∧
      Computes (.dmax o) sg2 (two maxElem) ∧ Computes (.ddiv o) sg2 (two divOp) ∧ Computes (.dfma o) sg3 three) ∧
    (o.sub = 0x12 ∨ o.sub = 0x13 → Computes (.hadd2 o) sg2 (two addElem) ∧ Computes (.hmul2 o) sg2 (two mulElem) ∧
      Computes (.hmin2 o) sg2 (two minElem) ∧ Computes (.hmax2 o) sg2 (two maxElem) ∧ Computes (.hfma2 o) sg3 three))

/-- O25. The one-operand floating-point instructions: reciprocal, roots, exponential, logarithm, sine, cosine, rounding, fraction and
class (R126 to R130). -/
def Obligations.FloatFunctions : Prop :=
  (∀ o : Short,
    let sg := sigR (useTyped 0x10 (.v o.s.toNat) ++ useDst o.d.toNat 1)
    let x := fun (c : Cur) => (readV c.th o.s.toNat).val
    let out := fun (f : W32 → W32) (c : Cur) => outR [(o.d.toNat, { val := f (x c), tag := .f32 })]
    Computes (.frcpA o) sg (out (fun a => BitVec.ofNat 32 (divElem fmtF32 0 false 0x3F800000 a.toNat))) ∧
    Computes (.frsqA o) sg (out frsqElem) ∧
    Computes (.fsqrtA o) sg (out (fun a => BitVec.ofNat 32 (sqrtElem fmtF32 0 a.toNat))) ∧
    Computes (.fex2A o) sg (out fex2Elem) ∧ Computes (.flg2A o) sg (out flg2Elem) ∧
    Computes (.fsinA o) sg (out fsinElem) ∧ Computes (.fcosA o) sg (out fcosElem) ∧
    Computes (.frndA o) sg (out (fun a => BitVec.ofNat 32 (integralElem fmtF32 0 a.toNat))) ∧
    Computes (.ffrcA o) sg (out (fun a => BitVec.ofNat 32 (fractionElem a.toNat))) ∧
    Computes (.fclassA o) sg (fun c => outR [(o.d.toNat, { val := BitVec.ofNat 32 (classMask (x c).toNat), tag := .b32 })])) ∧
  (∀ o : Long,
    let sg := sigR (useTyped o.sub (srcA o) ++ useDst o.dst.toNat (tyRegs o.sub))
    let fmt := floatFmt o.sub
    let x := fun (c : Cur) => flipSign fmt o.na (opdNat c (ty64 o.sub) (srcA o))
    let out := fun (f : Nat → Nat) (c : Cur) => outR (resultAs o.sub o.dst.toNat (BitVec.ofNat 64 (f (x c))))
    let pick := fun (f : W32 → W32) (c : Cur) => outR (resultAs o.sub o.dst.toNat ((f (BitVec.ofNat 32 (x c))).setWidth 64))
    Computes (.frcp o) sg (out (divElem fmt o.rnd o.sat (oneCode fmt))) ∧ Computes (.frsq o) sg (pick frsqElem) ∧
    Computes (.fsqrt o) sg (out (sqrtElem fmt o.rnd)) ∧ Computes (.dsqrt o) sg (out (sqrtElem fmt o.rnd)) ∧
    Computes (.fex2 o) sg (pick fex2Elem) ∧ Computes (.flg2 o) sg (pick flg2Elem) ∧
    Computes (.fsin o) sg (pick fsinElem) ∧ Computes (.fcos o) sg (pick fcosElem) ∧
    Computes (.frnd o) sg (out (integralElem fmt o.rnd)) ∧ Computes (.dfrnd o) sg (out (integralElem fmt o.rnd)) ∧
    Computes (.ffrc o) sg (out fractionElem) ∧
    Computes (.fclass o) (sigR (useTyped 0x10 (srcA o) ++ useDst o.dst.toNat 1)) (fun c =>
      outR [(o.dst.toNat, { val := BitVec.ofNat 32 (classMask (opdNat c false (srcA o))), tag := .b32 })]))

/-- O26. A NaN operand gives the canonical NaN, with a positive sign and the top mantissa bit alone, from every arithmetic result, and
minimum and maximum take the other operand (R35, R121, R124). -/
def Obligations.NanResults : Prop :=
  ∀ (f : Fmt) (mode r : Nat) (sat : Bool) (a b c : Nat),
    (decodeNum f a = .nan ∨ decodeNum f b = .nan →
      addElem f mode r sat a b = fmtNan f ∧ mulElem f mode r sat a b = fmtNan f ∧ divElem f mode sat a b = fmtNan f ∧
      fmaElem f mode r sat a b c = fmtNan f) ∧
    (decodeNum f c = .nan → fmaElem f mode r sat a b c = fmtNan f) ∧
    (decodeNum f a = .nan → sqrtElem f mode a = fmtNan f ∧ integralElem f mode a = fmtNan f ∧
      (decodeNum f b ≠ .nan → minmaxElem f sat a b = b ∧ minmaxElem f sat b a = b) ∧
      (decodeNum f b = .nan → minmaxElem f sat a b = fmtNan f)) ∧
    (decodeNum fmtF32 a = .nan → ∀ x : W32, x.toNat = a →
      frsqElem x = 0x7FC00000 ∧ fex2Elem x = 0x7FC00000 ∧ flg2Elem x = 0x7FC00000 ∧ fsinElem x = 0x7FC00000 ∧ fcosElem x = 0x7FC00000) ∧
    fmtNan fmtF32 = 0x7FC00000 ∧ fmtNan fmtF64 = 0x7FF8000000000000 ∧ fmtNan fmtF16 = 0x7E00 ∧ fmtNan fmtBF16 = 0x7FC0

/-- O27. `fscale`, `fqnt`, `fdeq`, the conversions, `pack`, `unpk`, the dot products and the generator instructions write the results
their entries give, and no other register (R131 to R140). -/
def Obligations.ConversionsAndNarrow : Prop :=
  ∀ o : Long,
    let d := o.dst.toNat
    let sub := o.sub
    let seeded := fun (c : Cur) (l : List (Nat × Reg)) =>
      ({ regs := l, seed := if o.rnd = 4 then some (c.th.seed + 1) else none } : Writes)
    let r0 := fun (c : Cur) => randomBits o.rnd c 0
    let a32 := fun (c : Cur) => flipSign fmtF32 o.na (opdNat c false (srcA o))
    let n := fun (c : Cur) => opdInt c 0x00 (scaleOpd o)
    let third := o.form = .c
    let sgS := fun (t u : BitVec 6) (k : Nat) => sigR (useTyped t (srcA o) ++ useTyped 0x00 (scaleOpd o)
      ++ (if third then useTyped u (srcC o) else []) ++ useDst d k)
    Computes (.fscale o) (sgS 0x10 0x10 1) (fun c => seeded c (resultAs 0x10 d (BitVec.ofNat 64
      (scaleElem o.rnd (r0 c) o.sat (a32 c) (clampInt (-2000) 2000 (n c)) (if third then some (opdNat c false (srcC o)) else none))))) ∧
    Computes (.fqnt o) (sgS 0x10 0x02 2) (fun c => seeded c (resultAs 0x02 d (intResult 0x02 o.sat
      (quantise o.rnd (r0 c) (a32 c) (clampInt (-126) 127 (n c)) + (if third then opdInt c 0x02 (srcC o) else 0))))) ∧
    Computes (.fdeq o) (sgS 0x02 0x02 1) (fun c => seeded c (resultAs 0x10 d (BitVec.ofNat 64
      (dequantise o.rnd (r0 c) o.sat (opdInt c 0x02 (srcA o) + (if third then opdInt c 0x02 (srcC o) else 0))
        (clampInt (-126) 127 (n c)))))) ∧
    (let t : BitVec 6 := o.sb.setWidth 6
     floatCount t = 1 → Computes (.cvt o) (sigR (useTyped t (srcA o) ++ useDst d (tyTags sub).length)) (fun c =>
       seeded c (resultAs sub d (BitVec.ofNat 64
         (widenResult sub (convertScalar sub t o.rnd (r0 c) o.sat (opdNat c (ty64 t) (srcA o)))))))) ∧
    (let t : BitVec 6 := o.sb.setWidth 6
     1 < floatCount t → Computes (.cvt o) (sigR (useTyped t (srcA o) ++ useDst d (tyTags sub).length)) (fun c =>
       seeded c (floatResult sub d ((List.range (floatCount t)).map (fun e =>
         convertFloat (floatFmt t) (floatFmt sub) o.rnd (randomBits o.rnd c e) o.sat ((floatElems c t (srcA o)).getD e 0)))))) ∧
    (o.form = .b → Computes (.pack o) (sigR (useOpd (.v o.sa.toNat) (packCount sub) (List.replicate (packCount sub) (unpackedTag sub))
        ++ useDst d 1)) (fun c => seeded c (result32 d (BitVec.ofNat 32 (packElements (packWidth sub)
          ((List.range (packCount sub)).map (fun e => narrowElem sub o.rnd (randomBits o.rnd c e) o.sat
            (flipSign fmtF32 o.na (readV c.th (o.sa.toNat + e)).val.toNat))))) (packTag sub)))) ∧
    (o.form = .c → Computes (.pack o) (sigR (useOpd (srcA o) 1 [unpackedTag sub] ++ useOpd (.v d) 1 [packTag sub] ++ useDst d 1))
      (fun c => seeded c (result32 d (BitVec.ofNat 32 (packElements (packWidth sub) ((packedElems sub (readV c.th d).val).set o.imm.toNat
        (narrowElem sub o.rnd (randomBits o.rnd c o.imm.toNat) o.sat (flipSign fmtF32 o.na (opdNat c false (srcA o))))))) (packTag sub)))) ∧
    (o.form = .bi → Computes (.unpk o) (sigR (useOpd (srcA o) 1 [packTag sub] ++ useDst d 1)) (fun c => outR [(d,
      { val := BitVec.ofNat 32 (widenElem sub ((packedElems sub (opd32 c (srcA o))).getD o.imm.toNat 0)), tag := unpackedTag sub })])) ∧
    (o.form = .b → Computes (.unpk o) (sigR (useOpd (srcA o) 1 [packTag sub] ++ useDst d (packCount sub))) (fun c =>
      outR ((List.range (packCount sub)).map (fun e => (d + e,
        { val := BitVec.ofNat 32 (widenElem sub ((packedElems sub (opd32 c (srcA o))).getD e 0)), tag := unpackedTag sub }))))) ∧
    (let dot := fun (i : Instr) (eight int : Bool) =>
       let k := if eight then 8 else 4
       let sce := o.modb.getLsbD 0
       let b := regOpd o.kb o.sb
       let xs := fun (c : Cur) => elements (32 / k) k (opdNat c false (srcA o))
       let ys := fun (c : Cur) => elements (32 / k) k (opdNat c false b)
       let byte := fun (c : Cur) (j : Nat) => opdNat c false (.v o.imm.toNat) / 256 ^ j % 256
       let scale := fun (c : Cur) => if sce then
           mulNum (decodeE8M0 (byte c (o.modb.toNat / 2 % 4))) (decodeE8M0 (byte c (o.modb.toNat / 8 % 4))) else .fin false 1 0
       Computes i (sigR (useOpd (srcA o) 1 [dotTag eight (sub.toNat % 8)] ++ useOpd b 1 [dotTag eight (sub.toNat / 8)]
           ++ useOpd (srcC o) 1 [if int then .b32 else .f32] ++ (if sce then useOpd (.v o.imm.toNat) 1 [.scl] else []) ++ useDst d 1))
         (fun c => if int then
             outR (resultAs 0x00 d (intResult 0x00 o.sat (dotInt (32 / k) (xs c) (ys c) (opdInt c 0x00 (srcC o)))))
           else seeded c (resultAs 0x10 d (BitVec.ofNat 64 (dotFloat o.rnd (r0 c) o.sat (scale c) (dotFmt eight (sub.toNat % 8))
             (dotFmt eight (sub.toNat / 8)) (xs c) (ys c) (opdNat c false (srcC o))))))
     dot (.dot4 o) false (sub.toNat % 8 == 2) ∧ dot (.dot8 o) true (sub.toNat % 8 == 1)) ∧
    Computes (.rngc o) (sigR (useOpd (srcA o) 2 [.b32, .b32] ++ useOpd (.v o.sb.toNat) 4 [.b32, .b32, .b32, .b32] ++ useDst d 4))
      (fun c =>
        let w := fun j => (readV c.th (o.sb.toNat + j)).val
        let r := philox (opdReg c (srcA o) 0).val (opdReg c (srcA o) 1).val (w 0, w 1, w 2, w 3)
        outR [(d, { val := r.1, tag := .b32 }), (d + 1, { val := r.2.1, tag := .b32 }), (d + 2, { val := r.2.2.1, tag := .b32 }),
              (d + 3, { val := r.2.2.2, tag := .b32 })]) ∧
    Computes (.rngf o) (sigR (useTyped 0x0A (srcA o) ++ (if o.sub == 2 then useTyped 0x0A (regOpd o.kb o.sb) else []) ++ useDst d 1))
      (fun c => outR [(d,
        { val := match o.sub.toNat with
            | 0 => BitVec.ofNat 32 (roundFin fmtF32 0 0 false false ((opd32 c (srcA o)).toNat / 256) (-24))
            | 1 => BitVec.ofNat 32 (roundFin fmtF32 0 0 false false ((opd32 c (srcA o)).toNat / 256 + 1) (-24))
            | _ => nrmElem (opd32 c (srcA o)) (opd32 c (regOpd o.kb o.sb))
          tag := .f32 })])

/-! ## Gang operations (R100 to R106) -/

/-- O28. The gang instructions wait for their cohort, execute once for all of it and write in each participant the value that its
segment's participants give: `vote`, `shfl`, `gred`, `gscan`, `match`, `elect` (R100 to R106). -/
def Obligations.GangInstructions : Prop :=
  ∀ o : Long,
    let d := o.dst.toNat
    let pd := o.dst.toNat % 8
    let src := fun (q : Part) => xor (readPred q.cur.th.preds (o.sa.toNat % 8)) (o.mod.getLsbD 0)
    let red := sigR (useTyped o.sub (srcA o) ++ useDst d (tyRegs o.sub))
    let value := fun (q : Part) => opdNat q.cur (ty64 o.sub) (srcA o)
    let before := fun (ps : List Part) (p : Part) => (segParts o ps p).filter (fun q =>
      if o.modb.getLsbD 0 then q.cur.th.gpos < p.cur.th.gpos else q.cur.th.gpos ≤ p.cur.th.gpos)
    (o.sub = 0 → Gathers (.vote o) (sigP [] [o.sa.toNat % 8] [pd]) (fun ps p => outP pd ((segParts o ps p).all src))) ∧
    (o.sub = 1 → Gathers (.vote o) (sigP [] [o.sa.toNat % 8] [pd]) (fun ps p => outP pd ((segParts o ps p).any src))) ∧
    (o.sub = 2 → Gathers (.vote o) (sigP [] [o.sa.toNat % 8] [pd]) (fun ps p =>
      outP pd ((segParts o ps p).all src || (segParts o ps p).all (fun q => !src q)))) ∧
    (o.sub = 3 → Gathers (.vote o) (sigP (useDst d 2) [o.sa.toNat % 8] []) (fun ps p =>
      outR (result64 d (posMask ((segParts o ps p).filter src)) .b32))) ∧
    Gathers (.shfl o) (sigR (useRaw 1 (srcA o) ++ useRaw 1 (shflLane o) ++ useDst d 1)) (fun ps p =>
      let j := shflFrom o.sub.toNat p.cur.th.gpos (segBase o p) (segWidth o p) (opd32 p.cur (shflLane o)).toNat
      outR [(d, opdReg (((segParts o ps p).find? (fun q => q.cur.th.gpos == j)).getD p).cur (srcA o) 0)]) ∧
    Gathers (.gred o) red (fun ps p => outR (resultAs o.sub d (BitVec.ofNat 64 (redValue o (segParts o ps p))))) ∧
    Gathers (.gscan o) red (fun ps p => outR (resultAs o.sub d (BitVec.ofNat 64
      (if (before ps p).isEmpty then redIdentity o else redValue o (before ps p))))) ∧
    Gathers (.matchG o) (sigR (useRaw (tyRegs o.sub) (srcA o) ++ useDst d 2)) (fun ps p =>
      outR (result64 d (posMask ((segParts o ps p).filter (fun q => value q == value p))) .b32)) ∧
    Gathers (.elect o) (sigP [] [] [pd]) (fun ps p => outP pd (ps.all (fun q => decide (p.cur.th.gpos ≤ q.cur.th.gpos))))

/-- O29. A segment's participants are those of its positions, in increasing order; a `shfl` reads inside its segment, and the values of
integer reductions are exact sums, minima and maxima brought into the type once (R101, R103, R104). -/
def Obligations.GangValues : Prop :=
  (∀ (o : Long) (ps : List Part) (p q : Part), q ∈ segParts o ps p →
    q ∈ ps ∧ segBase o p ≤ q.cur.th.gpos ∧ q.cur.th.gpos < segBase o p + segWidth o p) ∧
  (∀ (mode g sb w b : Nat), 0 < w → mode < 3 → sb ≤ g → g < sb + w →
    sb ≤ shflFrom mode g sb w b ∧ shflFrom mode g sb w b < sb + w) ∧
  (∀ (o : Long) (q : Part) (r : List Part), o.sub ≠ 0x10 → redOp o = 0 →
    redValue o (q :: r) = (intResult o.sub o.sat
      (((q :: r).map (fun x => opdInt x.cur o.sub (srcA o))).sum)).toNat) ∧
  (∀ (o : Long) (q : Part) (r : List Part), o.sub ≠ 0x10 → redOp o = 1 →
    ∃ x ∈ q :: r, redValue o (q :: r) = (intResult o.sub o.sat (opdInt x.cur o.sub (srcA o))).toNat ∧
      ∀ y ∈ q :: r, opdInt x.cur o.sub (srcA o) ≤ opdInt y.cur o.sub (srcA o)) ∧
  (∀ (o : Long) (q : Part) (r : List Part), o.sub ≠ 0x10 → redOp o = 2 →
    ∃ x ∈ q :: r, redValue o (q :: r) = (intResult o.sub o.sat (opdInt x.cur o.sub (srcA o))).toNat ∧
      ∀ y ∈ q :: r, opdInt y.cur o.sub (srcA o) ≤ opdInt x.cur o.sub (srcA o))

/-! ## Control (R107 to R116) -/

/-- O30. Branches go to their target or trap with BAD_TARGET and the target: `bra` by a signed offset from its own address, `brx` to a
canonical multiple of 4, which sets the landing flag under LANDCHK, `switch` past as many slots as the position
of the first equal case, counted from 1, or none; its cases are consecutive from IMM16, or the literal's signed bytes (R107, R108,
R111). -/
def Obligations.Branches : Prop :=
  (∀ o : Long,
    let dest := fun (c : Cur) => match o.tail with
      | .bi i => c.th.pc + 4 * i.signExtend 64
      | _ => c.th.pc + o.off
    let reg := fun (c : Cur) => opd64 c (srcA o)
    let good := fun (c : Cur) => isCanonical (reg c) = true ∧ (reg c).toNat % 4 = 0
    let bad := fun (a : Cur → W64) (_ : State) (_ _ : Nat) (c : Cur) => ({ cause := .badTarget, addr := a c } : Trap)
    let pair := sigR (useRaw 2 (srcA o))
    Jumps (.bra o) {} (fun _ _ _ c => isCanonical (dest c) = true) same (fun _ _ _ c => dest c) ∧
    Traps (.bra o) {} (fun _ _ _ c => isCanonical (dest c) = false) same (bad dest) ∧
    Jumps (.brx o) pair (fun _ _ _ c => good c) (fun s uid tid c => modThread s uid tid (fun th =>
      if landChk c.team c.th then { th with landing := some (c.th.pc, reg c) } else th)) (fun _ _ _ c => reg c) ∧
    Traps (.brx o) pair (fun _ _ _ c => ¬ good c) same (bad reg) ∧
    Jumps (.switch o) (sigR (useTyped 0x00 (srcA o))) always same (fun _ _ _ c =>
      nextPc (.switch o) c.th + BitVec.ofNat 64 (4 * 2 ^ (o.modb.toNat / 8 + 1) * switchArm o (opdInt c 0x00 (srcA o))))) ∧
  (∀ (o : Long) (x : Int),
    let n := o.modb.toNat % 8 + 1
    let case := fun (k : Nat) => if o.form = .l then toSigned 8 (o.lit.toNat / 256 ^ k) else toSigned 16 o.imm.toNat + k
    (switchArm o x = 0 ↔ ∀ k, k < n → case k ≠ x) ∧
    (∀ k, k < n → case k = x → (∀ j, j < k → case j ≠ x) → switchArm o x = k + 1))

/-- O31. Calls push the address after them and go to their target; `ret` pops the newest address, and traps with BAD_TARGET where there
is none; a push that neither the 8 hardware entries nor the team's spill area hold is STACK_OVERFLOW (R107, R108, R110). -/
def Obligations.CallsAndReturns : Prop :=
  (∀ o : Long,
    let dest := fun (c : Cur) => match o.tail with
      | .bi i => c.th.pc + 4 * i.signExtend 64
      | _ => c.th.pc + o.off
    let reg := fun (c : Cur) => opd64 c (srcA o)
    let good := fun (c : Cur) => isCanonical (reg c) = true ∧ (reg c).toNat % 4 = 0
    let pair := sigR (useRaw 2 (srcA o))
    let push := fun (i : Instr) (s : State) (uid tid : Nat) (c : Cur) =>
      ((getTeam s uid).bind (fun t => getThread t tid)).bind (fun th => pushReturn c.team.calld th (nextPc i c.th))
    let mark := fun (c : Cur) (th : Thread) => if landChk c.team c.th then { th with landing := some (c.th.pc, reg c) } else th
    let pushed := fun (i : Instr) (f : Cur → Thread → Thread) (s : State) (uid tid : Nat) (c : Cur) =>
      match push i s uid tid c with
      | some th1 => modThread s uid tid (fun _ => f c th1)
      | none => s
    let full := fun (_ : State) (_ _ : Nat) (c : Cur) => ({ cause := .stackOverflow, aux := c.team.calld } : Trap)
    Jumps (.call o) {} (fun s uid tid c => isCanonical (dest c) = true ∧ (push (.call o) s uid tid c).isSome = true)
      (pushed (.call o) (fun _ th => th)) (fun _ _ _ c => dest c) ∧
    Traps (.call o) {} (fun s uid tid c => isCanonical (dest c) = true ∧ push (.call o) s uid tid c = none) same full ∧
    Traps (.call o) {} (fun _ _ _ c => isCanonical (dest c) = false) same (fun _ _ _ c => { cause := .badTarget, addr := dest c }) ∧
    Jumps (.callx o) pair (fun s uid tid c => good c ∧ (push (.callx o) s uid tid c).isSome = true)
      (pushed (.callx o) mark) (fun _ _ _ c => reg c) ∧
    Traps (.callx o) pair (fun s uid tid c => good c ∧ push (.callx o) s uid tid c = none) same full ∧
    Traps (.callx o) pair (fun _ _ _ c => ¬ good c) same (fun _ _ _ c => { cause := .badTarget, addr := reg c })) ∧
  (∀ (o : Short) (a : W64) (th1 : Thread),
    let pop := fun (s : State) (uid tid : Nat) => ((getTeam s uid).bind (fun t => getThread t tid)).bind popReturn
    Jumps (.ret o) {} (fun s uid tid _ => pop s uid tid = some (a, th1)) (fun s uid tid _ => modThread s uid tid (fun _ => th1))
      (fun _ _ _ _ => a) ∧
    Traps (.ret o) {} (fun s uid tid _ => pop s uid tid = none) same (fun _ _ _ _ => { cause := .badTarget })) ∧
  (∀ (calld : Nat) (th : Thread) (a : W64), th.stack.length ≤ 8 →
    (pushReturn calld th a = none ↔ th.stack.length = 8 ∧ calld ≤ th.spill.length) ∧
    (∀ th1, pushReturn calld th a = some th1 → th1.stack ++ th1.spill = a :: (th.stack ++ th.spill) ∧ th1.stack.length ≤ 8 ∧
      th1 = { th with stack := th1.stack, spill := th1.spill } ∧
      ∃ th2, popReturn th1 = some (a, th2) ∧ th2.stack ++ th2.spill = th.stack ++ th.spill) ∧
    (popReturn th = none ↔ th.stack = [] ∧ th.spill = []))

/-- O32. `land` clears the landing flag; `pause` puts the thread in the last class for the rest of its cycle and the 64 after it, unless it
is promoted; `yield` does nothing while no preemption is asked and else frees the thread to be saved (R26, R109, R114, R115). -/
def Obligations.SmallControl : Prop :=
  (∀ o : Short,
    Goes (.land o) {} always (fun s uid tid _ => modThread s uid tid (fun th => { th with landing := none })) ∧
    Goes (.pause o) {} always (fun s uid tid _ => modThread s uid tid (fun th => { th with pauseLeft := 65 })) ∧
    Goes (.yield o) {} (fun s _ _ c => prqSeen s c.team = false) same ∧
    Goes (.yield o) {} (fun s _ _ c => prqSeen s c.team = true) (fun s uid tid _ =>
      modThread s uid tid (fun th => { yieldRegs (settled th) with saved := true }))) ∧
  (∀ (s : State) (t : Team) (tid : Nat) (th : Thread), th.saved = false → (tickThread s t tid th).pauseLeft = th.pauseLeft - 1) ∧
  (∀ th : Thread, issueClass th = 0 ↔ th.age < 2048 ∧ th.pauseLeft ≠ 0)

/-- O33. `trap` raises TRAP_INSTR, 0x13, and `bkpt` BREAKPOINT, 0x14, with IMM8 in the record, at the instruction itself and routed as
every trap is; both are 32-bit forms with DST zero. `nop` does nothing in its three forms, whose fields are zero but for the length, the
opcode, the stall and the guard (R116, R117). -/
def Obligations.TrapsAndNops : Prop :=
  (∀ o : Short,
    Traps (.trap o) {} always same (fun _ _ _ _ => { cause := .trapInstr, imm8 := o.s.toNat }) ∧
    Traps (.bkpt o) {} always same (fun _ _ _ _ => { cause := .breakpoint, imm8 := o.s.toNat }) ∧
    Goes (.nopA o) {} always same ∧
    ((Instr.trap o).wf = true ↔ o.d = 0) ∧ ((Instr.bkpt o).wf = true ↔ o.d = 0) ∧ ((Instr.nopA o).wf = true ↔ o.d = 0 ∧ o.s = 0)) ∧
  causeCode .trapInstr = 0x13 ∧ causeCode .breakpoint = 0x14 ∧
  (∀ o : Long, Goes (.nop o) {} always same ∧
    ((Instr.nop o).wf = true ↔ o.sub = 0 ∧ o.dst = 0 ∧ o.sat = false ∧ o.kc = false ∧ o.kb = false ∧ o.ka = false ∧ o.sa = 0 ∧
      (o.tail = .b 0 0 ∨ o.tail = .c false 0 0 0 0 0))) ∧
  (∀ (s : State) (uid tid : Nat) (t : Team) (th : Thread) (i : Instr), Turn s uid tid t th → (encOf i).stl < 7 →
    ∀ t1 th1, getTeam (ended i {} s uid tid t th s (nextPc i th)) uid = some t1 → getThread t1 tid = some th1 →
      th1.stall = if (encOf i).stl = 0 then 0 else (encOf i).stl + 1)

/-- O34. `reconv` waits until every live thread of the gang stands at it, and then all of them go on as one cohort (R112). -/
def Obligations.Reconvergence : Prop :=
  ∀ (o : Short) (s : State) (uid tid : Nat) (t : Team) (th : Thread), Turn s uid tid t th → Passes (.reconv o) {} s t th →
    (reconvReady t tid (viewOf s th) = false → exec (.reconv o) s =
      .next (popIssue (chargeIssue (.reconv o) t.asid th (holdThread (issueState s th) uid tid .reconv)))) ∧
    (reconvReady t tid (viewOf s th) = true → ∃ s' t', exec (.reconv o) s = .next s' ∧ getTeam s' uid = some t' ∧
      t'.nextCohort = t.nextCohort + 1 ∧
      (∀ j x, getThread t j = some x → x.gang = th.gang → liveOut x = true →
        ∃ x', getThread t' j = some x' ∧ x'.pc = nextPc (.reconv o) x ∧ x'.st = .ready ∧ x'.cohort = t.nextCohort ∧ x'.path = [] ∧
          x'.regs = x.regs ∧ x'.preds = x.preds) ∧
      (∀ j x, getThread t j = some x → x.gang ≠ th.gang → getThread t' j = some x))

/-- O35. `exit` and `tail` complete wherever the checks pass: the thread has exited by one or the other, or its gang has retired with it
and it is gone, with its registers, pc, predicates and return stack as they were. They leave what its end completes; where its departure completes no barrier and another thread of
its gang is live, the thread has exited with its registers, its pc and its stack as they were, its gang has not retired, and no other
team changes (R113). -/
def Obligations.ThreadEnds : Prop :=
  ∀ o : Short,
    Leaves (.exit o) {} always (fun s uid tid _ => exitThread s uid tid false) ∧
    Leaves (.tail o) {} always (fun s uid tid _ => exitThread s uid tid true) ∧
    (∀ (s : State) (uid tid : Nat) (t : Team) (th : Thread), Turn s uid tid t th →
      let ends := fun (i : Instr) (tail : Bool) => ∃ s' t' th', exec i s = .next s' ∧ getTeam s' uid = some t' ∧
        getThread t' tid = some th' ∧
        (th'.st = .exited tail ∨ (th'.st = .gone ∧ (t'.gangs[th.gang]?).any (fun g => g.done) = true)) ∧
        th'.regs = th.regs ∧ th'.preds = th.preds ∧ th'.pc = th.pc ∧ th'.stack = th.stack
      (Passes (.exit o) {} s t th → ends (.exit o) false) ∧ (Passes (.tail o) {} s t th → ends (.tail o) true)) ∧
    (∀ (s : State) (uid tid : Nat) (tail : Bool) (t : Team) (th : Thread), getTeam s uid = some t → getThread t tid = some th →
      (∀ nb, nb < 16 → (getBar t nb).arv + barDeparted t nb + (if th.marks.getLsbD nb then 0 else 1) < barNeed t (getBar t nb)) →
      (∃ j x, j ≠ tid ∧ getThread t j = some x ∧ x.gang = th.gang ∧ liveOut x = true) →
      ∃ th', getTeam (exitThread s uid tid tail) uid = some (setThread t tid th') ∧ th'.st = .exited tail ∧ th'.regs = th.regs ∧
        th'.pc = th.pc ∧ th'.stack = th.stack ∧ ∀ u, u ≠ uid → getTeam (exitThread s uid tid tail) u = getTeam s u)

/-- O36. What an instruction's end changes beside its effect: its own thread's pc and the issue's own bookkeeping, the contexts' energy
and the issue set; every other thread, and everything else in the machine, is as the effect left it (R68, R72, R413). -/
def Obligations.EndFrame : Prop :=
  ∀ (i : Instr) (sg : Sig) (s s1 : State) (uid tid : Nat) (t t1 : Team) (th th1 : Thread) (pc : W64), isControl i = false →
    getTeam s1 uid = some t1 → getThread t1 tid = some th1 → th1.st ≠ .gone →
    let s' := ended i sg s uid tid t th s1 pc
    s' = { s1 with issue := s1.issue.drop 1, teams := s'.teams, ctxs := s'.ctxs } ∧
    (∃ th', getTeam s' uid = some (setThread t1 tid th') ∧ (keepsEarly i = true → th' = advance (encOf i) sg true th th1 pc) ∧
      (keepsEarly i = false → th' = { advance (encOf i) sg true th th1 pc with early := [] })) ∧
    (∀ u, u ≠ uid → getTeam s' u = getTeam s1 u) ∧
    (∀ a, ∃ d, getCtx s' a = (getCtx s1 a).map (fun c => { c with due := c.due + d }))

/-! ## Memory (R142 to R168) -/

/-- O37. The checks of an address in their order: neither window nor canonical, misaligned, outside the scratch the context holds, a
stage without an entry, no memory behind it, a page that forbids the access, an instruction's own placement rule; the first that fails
gives its trap (R144, R250, R251, R339). -/
def Obligations.AddressChecks : Prop :=
  ∀ (s : State) (asid : Nat) (q : Ask),
    let fault := fun (k : Nat) (rpl : Bool) (s1 : State) => checkSite s asid q =
      (.error (.trap { cause := .dataFault, addr := q.ea, stage := k, rpl := rpl, wr := q.wr }), s1)
    let perm := fun (x : Xl) (place : Nat) (s1 : State) => checkSite s asid q =
      (.error (.trap { cause := .permission, addr := q.ea, wr := q.wr, aux := x.attr.toNat + place }), s1)
    let aligned := q.ea.toNat % q.align = 0
    (isWindow q.ea = false → isCanonical q.ea = false → fault 0 false s) ∧
    (isWindow q.ea = true ∨ isCanonical q.ea = true → ¬ aligned →
      checkSite s asid q = (.error (.trap { cause := .misalignedData, addr := q.ea, aux := q.size % 32 }), s)) ∧
    (isWindow q.ea = true → aligned →
      (Config.sliceBytes ≤ winOff q.ea ∨ grantHeld s asid (winChip q.ea) (winCore q.ea) (winOff q.ea / 65536) = false ∨
        (winChip q.ea = chipId s ∧ hitsPrivate s (winCore q.ea) (winOff q.ea) q.size = true) →
        checkSite s asid q = (.error (.trap { cause := .scratchBounds, addr := q.ea }), s)) ∧
      (winOff q.ea < Config.sliceBytes → grantHeld s asid (winChip q.ea) (winCore q.ea) (winOff q.ea / 65536) = true →
        (winChip q.ea = chipId s → hitsPrivate s (winCore q.ea) (winOff q.ea) q.size = false) →
        ∃ site, checkSite s asid q = (.ok site, s) ∧ site.win = true ∧ site.chip = winChip q.ea ∧ site.core = winCore q.ea ∧
          site.key = scratchKey q.ea)) ∧
    (isWindow q.ea = false → isCanonical q.ea = true → aligned →
      (∀ k s1, translate s q.shadow asid q.ea = (.error k, s1) → fault k true s1) ∧
      (∀ x s1, translate s q.shadow asid q.ea = (.ok x, s1) →
        let allowed := (q.rd = true → x.attr.getLsbD 0 = true) ∧ (q.wr = true → x.attr.getLsbD 1 = true)
        let misplaced := q.winOnly = true ∨ (q.noHost = true ∧ paHost x.pa = true)
        (paExists s1 x.pa = false → fault 0 false s1) ∧
        (paExists s1 x.pa = true → ¬ allowed → perm x 0 s1) ∧
        (paExists s1 x.pa = true → allowed → misplaced → perm x 32 s1) ∧
        (paExists s1 x.pa = true → allowed → ¬ misplaced → paHost x.pa = false →
          ∃ site, checkSite s asid q = (.ok site, s1) ∧ site.win = false ∧ site.chip = paChip x.pa ∧ site.key = x.pa ∧
            site.attr = x.attr)))

/-- O38. `ld` and `st` whose checks pass read or write the bytes at the effective address with the parts of their order, and a check
that fails takes its trap with no effect; a misaligned access that is emulated goes byte by byte (R143, R147, R148, R150, R168). -/
def Obligations.LoadsAndStores : Prop :=
  ∀ o : Long,
    let n := memSize o.sub
    let sgL := sigR (useRaw 2 (srcA o) ++ useDst o.dst.toNat (memRegs o.sub))
    let sgS := sigR (useRaw 2 (srcA o) ++ (if o.flag then useRaw 1 (regOpd o.kb o.sb) else [])
      ++ (if bitType o.sub then useRaw (memRegs o.sub) (.v o.dst.toNat) else useTyped o.sub (.v o.dst.toNat)))
    let ask := fun (wr : Bool) (c : Cur) => ({ ea := effAddr c o, size := n, align := n, rd := !wr, wr := wr } : Ask)
    let bytes := fun (c : Cur) => enabledBytes o c n (natBytes n (storeNat c o.sub o.dst.toNat))
    let emulated := fun (c : Cur) => (effAddr c o).toNat % n ≠ 0 ∧ (isWindow (effAddr c o) = true ∨ isCanonical (effAddr c o) = true) ∧
      c.team.trm.getLsbD 6 = true ∧ c.th.handler = false
    (∀ (p : Site × State) (q : List Byte × State),
      Goes (.ld o) sgL (fun s uid tid c => ¬ emulated c ∧ letPass s uid tid c (ask false c) = .ok p ∧
          loadSite p.2 uid tid c (effAddr c o) p.1 n o.order o.scope o.flag = .ok q)
        (fun _ uid tid _ => applyWrites q.2 uid tid (outR (loadRegs o.sub o.dst.toNat (bytesNat q.1))))) ∧
    (∀ (p : Site × State) (s1 : State),
      Goes (.st o) sgS (fun s uid tid c => ¬ emulated c ∧ letPass s uid tid c (ask true c) = .ok p ∧
          storeSite p.2 uid tid c (effAddr c o) p.1 n o.order o.scope (bytes c) = .ok s1) (fun _ _ _ _ => s1)) ∧
    (∀ (s1 : State) (tr : Trap),
      Traps (.ld o) sgL (fun s uid tid c => ¬ emulated c ∧ letPass s uid tid c (ask false c) = .error (.trap s1 tr))
        (fun _ _ _ _ => s1) (fun _ _ _ _ => tr) ∧
      Traps (.st o) sgS (fun s uid tid c => ¬ emulated c ∧ letPass s uid tid c (ask true c) = .error (.trap s1 tr))
        (fun _ _ _ _ => s1) (fun _ _ _ _ => tr)) ∧
    (∀ (s1 : State) (q : List Byte × State),
      Goes (.ld o) sgL (fun s uid tid c => emulated c ∧ doRelease s uid tid c o.order o.scope = .ok s1 ∧
          emulateBytes uid tid c (effAddr c o) o.scope none (List.range n)
            (emulateEntry (releaseEpoch s1 uid c o.order) uid tid c (effAddr c o) n) [] = .ok q)
        (fun _ uid tid c => applyWrites (doAcquire q.2 c o.order o.scope) uid tid
          (outR (loadRegs o.sub o.dst.toNat (bytesNat q.1)))) ∧
      Goes (.st o) sgS (fun s uid tid c => emulated c ∧ doRelease s uid tid c o.order o.scope = .ok s1 ∧
          emulateBytes uid tid c (effAddr c o) o.scope (some (bytes c)) ((bytes c).map (·.1))
            (emulateEntry (releaseEpoch s1 uid c o.order) uid tid c (effAddr c o) n) [] = .ok q)
        (fun _ _ _ _ => q.2))

/-- O39. In the scratch of the thread's own chip: a relaxed load writes the bytes that stand there, in ascending addresses from the
least significant, extended or tagged as its type says, and changes no byte of memory and no other register; a relaxed store leaves its
enabled bytes at the effective address, the lowest first (in the frame of a thread in its handler as O7 says), every other byte of memory, every register and every predicate as they were
(R147, R148, R150). -/
def Obligations.ScratchAccesses : Prop :=
  (∀ (o : Long) (s : State) (uid tid : Nat) (t : Team) (th : Thread),
    let ea := effAddr (curOf s t th) o
    let n := memSize o.sub
    Turn s uid tid t th → Passes (.ld o) (sigR (useRaw 2 (srcA o) ++ useDst o.dst.toNat (memRegs o.sub))) s t th → o.order = 0 →
    OwnScratch s t th ea n →
    ∃ s', exec (.ld o) s = .next s' ∧
      Wrote (.ld o) s uid tid t th (outR (loadRegs o.sub o.dst.toNat (bytesNat (readKey s (scratchKey ea) n)))) s') ∧
  (∀ (o : Long) (s : State) (uid tid : Nat) (t : Team) (th : Thread),
    let c := curOf s t th
    let ea := effAddr c o
    let n := memSize o.sub
    let mask := fun (j : Nat) => o.flag = false ∨ (opd32 c (regOpd o.kb o.sb)).getLsbD j = true
    Turn s uid tid t th →
    Passes (.st o) (sigR (useRaw 2 (srcA o) ++ (if o.flag then useRaw 1 (regOpd o.kb o.sb) else [])
      ++ (if bitType o.sub then useRaw (memRegs o.sub) (.v o.dst.toNat) else useTyped o.sub (.v o.dst.toNat)))) s t th →
    o.order = 0 → s.mem.wf = true → OwnScratch s t th ea n →
    ∃ s' th', exec (.st o) s = .next s' ∧ getTeam s' uid = some (setThread t tid th') ∧ WroteThread (.st o) th {} th' ∧
      (∀ u, u ≠ uid → getTeam s' u = getTeam s u) ∧ s'.mem.wf = true ∧
      (∀ j, j < n → mask j →
        readKey s' (scratchKey ea + j) 1 =
          [storedByte s (scratchKey ea + j) (BitVec.ofNat 8 (storeNat c o.sub o.dst.toNat / 256 ^ j))]) ∧
      (∀ a, (∀ j, j < n → mask j → a ≠ scratchKey ea + j) → readKey s' a 1 = readKey s a 1))

/-- O40. The atomics and `stn4` act once, at the home of their bytes: `atom`, `cas` and `fatom` write the old value to DST, `red`,
`stn4` and `fatom.nr` write no register (R152, R157 to R161). -/
def Obligations.Atomics : Prop :=
  ∀ (o : Long) (r : Nat × State),
    let sub := o.sub.toNat
    let base := useRaw 2 (srcA o)
    let b := regOpd o.kb o.sb
    let n := atomSize sub
    let m := fatomSize sub
    let wide := o.sub == 0x0B
    let k := if wide then 8 else 4
    let typed := useTyped (if n == 8 then 0x02 else 0x00) b
    let ask := fun (n : Nat) (c : Cur) => ({ ea := effAddr c o, size := n, align := n, rd := true, wr := true, noHost := true } : Ask)
    let nib := fun (c : Cur) => effAddr c o + ((opd32 c b) >>> 1).setWidth 64
    let did := fun (q : Cur → Ask) (op : Cur → HomeOp) (s : State) (uid tid : Nat) (c : Cur) =>
      rmwAt s uid tid c (q c) o.order o.scope (op c) = .ok r
    let old := fun (regs : List (Nat × Reg)) (_ : State) (uid tid : Nat) (_ : Cur) => applyWrites r.2 uid tid (outR regs)
    let none_ := fun (_ : State) (_ _ : Nat) (_ : Cur) => r.2
    Goes (.atom o) (sigR (base ++ typed ++ useDst o.dst.toNat (n / 4))) (did (ask n) (fun c => .atom sub (opdNat c (n == 8) b)))
      (old (oldRegs n o.dst.toNat r.1)) ∧
    Goes (.red o) (sigR (base ++ typed)) (did (ask n) (fun c => .atom sub (opdNat c (n == 8) b))) none_ ∧
    Goes (.cas o) (sigR (base ++ useRaw (if wide then 4 else 2) b ++ useDst o.dst.toNat (k / 4)))
      (did (ask k) (fun c => .cas wide (casOpds o c).1 (casOpds o c).2)) (old (oldRegs k o.dst.toNat r.1)) ∧
    (o.flag = false → Goes (.fatom o) (sigR (base ++ useTyped (fatomType sub) b ++ useDst o.dst.toNat (m / 4)))
      (did (ask m) (fun c => .fatom sub (opdNat c (m == 8) b)))
      (old (resultAs (fatomType sub) o.dst.toNat (BitVec.ofNat 64 r.1)))) ∧
    (o.flag = true → Goes (.fatom o) (sigR (base ++ useTyped (fatomType sub) b))
      (did (ask m) (fun c => .fatom sub (opdNat c (m == 8) b))) none_) ∧
    Goes (.stn4 o) (sigR (base ++ useRaw 1 b ++ useRaw 1 (.v o.dst.toNat)))
      (did (fun c => { ea := nib c, size := 1, align := 1, rd := false, wr := true })
        (fun c => .stn4 ((opd32 c b).getLsbD 0) ((readV c.th o.dst.toNat).val.toNat % 16))) none_

/-- O41. A relaxed read-modify-write in the scratch of the thread's own chip reads the old bytes, leaves the operation's new ones where
it writes, and every other byte of memory as before (R152, R157, R166). -/
def Obligations.ScratchReadModifyWrite : Prop :=
  ∀ (s : State) (uid tid : Nat) (t : Team) (th : Thread) (q : Ask) (scope : BitVec 2) (op : HomeOp),
    Turn s uid tid t th → q.size = homeOpSize op → 0 < q.size → OwnScratch s t th q.ea q.size → q.ea.toNat % q.align = 0 →
    s.mem.wf = true →
    let key := scratchKey q.ea
    let old := bytesNat (readKey s key q.size)
    ∃ r, rmwAt (issueState s th) uid tid (curOf s t th) q 0 scope op = .ok r ∧ r.1 = old ∧ r.2.mem.wf = true ∧
      (∀ v, homeOpNew op old = some v → ∀ j, j < q.size → 
        readKey r.2 (key + j) 1 = [storedByte s (key + j) (BitVec.ofNat 8 (v / 256 ^ j))]) ∧
      (∀ a, homeOpNew op old = none ∨ a < key ∨ key + q.size ≤ a → readKey r.2 a 1 = readKey s a 1)

/-- O42. The new values: integer atomics in the operand's width, signed for types 0 and 2; `cas` writes where the old value is the
compare value; `stn4` changes one half of a byte. The sync words: arming sets the target and clears the count, an arrival counts up to it,
the completion advances GEN, clears the count and stays armed under AUTO, and bytes beyond the target or while unarmed set OVR (R152,
R158, R160, R165, R166). -/
def Obligations.AtomicAndSyncValues : Prop :=
  (∀ (t x y : Nat), t < 4 →
    let w := 8 * atomSize t
    let v := fun (n : Nat) => if t % 2 = 0 then toSigned w n else (n : Int)
    let r := fun (op : Nat) => atomNew (4 * op + t) x y
    x < 2 ^ w → y < 2 ^ w →
      r 0 = (x + y) % 2 ^ w ∧ v (r 1) = min (v x) (v y) ∧ v (r 2) = max (v x) (v y) ∧ r 3 = x &&& y ∧ r 4 = x ||| y ∧
      r 5 = x ^^^ y ∧ r 6 = y ∧ r 7 = (if y ≤ x then 0 else x + 1) ∧ r 8 = (if x = 0 ∨ y < x then y else x - 1)) ∧
  (∀ (wide : Bool) (old c n : Nat), homeOpNew (.cas wide c n) old = if old = c then some n else none) ∧
  (∀ (old v : Nat), old < 256 → v < 16 →
    ∃ lo hi, homeOpNew (.stn4 false v) old = some lo ∧ homeOpNew (.stn4 true v) old = some hi ∧
      lo % 16 = v ∧ lo / 16 = old / 16 ∧ hi % 16 = old % 16 ∧ hi / 16 = v) ∧
  (∀ (w : SyncWord) (n : Nat) (auto : Bool),
    (n ≠ 0 → syncArm w n auto = { tgt := n, cnt := 0, gen := w.gen, arm := true, auto := auto, ovr := false }) ∧
    (syncArm w 0 auto = { tgt := 0, cnt := 0, gen := (w.gen + 1) % 2 ^ 32, arm := auto, auto := auto, ovr := false }) ∧
    (w.arm = false → syncAdd w n = { w with cnt := min (w.cnt + n) (2 ^ 32 - 1), ovr := true }) ∧
    (w.arm = true → w.cnt + n < w.tgt → syncAdd w n = { w with cnt := w.cnt + n }) ∧
    (w.arm = true → w.tgt ≤ w.cnt + n → syncAdd w n =
      { w with cnt := 0, gen := (w.gen + 1) % 2 ^ 32, arm := w.auto, ovr := w.ovr || decide (w.tgt < w.cnt + n) }) ∧
    (w.tgt < 2 ^ 32 → w.cnt < 2 ^ 32 → w.gen < 2 ^ 32 → syncOf (syncNat w) = w))

/-- O43. The sync-word instructions: `swarm` and `swadd` answer the generation before them, `swread` the 16 bytes, and `swwait` waits
at a word of its chip while the generation is the expected one and answers the one that ended the wait (R166, R167). -/
def Obligations.SyncWordInstructions : Prop :=
  ∀ (o : Long) (r : Nat × State),
    let base := useRaw 2 (srcA o)
    let b := regOpd o.kb o.sb
    let x := fun (c : Cur) => (opd32 c b).toNat
    let one := sigR (base ++ useTyped 0x01 b ++ useDst o.dst.toNat 1)
    let ask := fun (wr : Bool) (c : Cur) =>
      ({ ea := effAddr c o, size := 16, align := 16, rd := true, wr := wr, winOnly := true } : Ask)
    let did := fun (wr : Bool) (op : Cur → HomeOp) (s : State) (uid tid : Nat) (c : Cur) =>
      rmwAt s uid tid c (ask wr c) o.order o.scope (op c) = .ok r
    let gen := fun (st : State) (uid tid : Nat) =>
      applyWrites st uid tid (outR [(o.dst.toNat, { val := BitVec.ofNat 32 (syncOf r.1).gen, tag := .b32 })])
    let seen := fun (p : Site × State) (s1 : State) (s : State) (uid tid : Nat) (c : Cur) =>
      letPass s uid tid c (ask false c) = .ok p ∧ doRelease p.2 uid tid c o.order o.scope = .ok s1 ∧
        rmwSite s1 uid tid c (effAddr c o) p.1 .swread = .ok r
    Goes (.swarm o) one (did true (fun c => .swarm (x c) o.flag)) (fun _ uid tid _ => gen r.2 uid tid) ∧
    Goes (.swadd o) one (did true (fun c => .swadd (x c))) (fun _ uid tid _ => gen r.2 uid tid) ∧
    Goes (.swread o) (sigR (base ++ useDst o.dst.toNat 4)) (did false (fun _ => .swread))
      (fun _ uid tid _ => applyWrites r.2 uid tid (outR (loadRegs 0x0C o.dst.toNat r.1))) ∧
    (∀ (p : Site × State) (s1 : State), Waits (.swwait o) one
      (fun s uid tid c => seen p s1 s uid tid c ∧ (syncOf r.1).gen = x c ∧ p.1.chip = chipId r.2)
      (fun _ uid tid _ => modThread r.2 uid tid (fun th => { th with reply := [] }))
      (fun _ _ _ c => .swwait (siteAddr p.1) (BitVec.ofNat 32 (x c)))) ∧
    (∀ (p : Site × State) (s1 : State),
      Goes (.swwait o) one (fun s uid tid c => seen p s1 s uid tid c ∧ (syncOf r.1).gen ≠ x c)
        (fun _ uid tid c =>
          let s2 := releaseEpoch r.2 uid c o.order
          gen (doAcquire (carryRead s2 uid tid (siteSets s2 (teamCore c.team) c.team.asid p.1 16) o.scope (hasAcquire o.order))
            c o.order o.scope) uid tid))

/-- O44. `ldk` writes n words from memory to consecutive k registers of the team; `pref` and `cchk` take no trap; `fence` acts as its
order says, and goes on while its release part waits; the flushes perform the core's stores and drop what the range names (R21, R146, R153,
R154, R155, R163, R164). -/
def Obligations.OtherMemory : Prop :=
  ∀ o : Long,
    let base := useRaw 2 (srcA o)
    let f := o.dst.toNat % 64
    let n := o.sub.toNat + 1
    let line := fun (c : Cur) => effAddr c o - BitVec.ofNat 64 ((effAddr c o).toNat % 128)
    let lines := if o.form = .cm then 2 ^ o.order else 1
    let rel := hasRelease o.order = true ∧ o.scope ≠ 0
    let free := fun (c : Cur) => c.th.rel.any (fun r => !r.own) = false
    let start := fun (s : State) (c : Cur) => startRelease s (teamCore c.team) c.team.asid o.scope
    let fenced := fun (s : State) (uid tid : Nat) => loupeFence s uid tid o.scope (hasRelease o.order) (hasAcquire o.order)
    let scope := if o.form = .cm then o.scope else 0
    let keys := fun (s : State) (c : Cur) => flushKeys s c.team.asid (flushRange o c).1 (flushRange o c).2
    (∀ (s1 : State) (p : List W32 × State),
      Goes (.ldk o) (sigR base) (fun s uid tid c => (effAddr c o).toNat % 4 = 0 ∧ doRelease s uid tid c o.order o.scope = .ok s1 ∧
          ldkWords uid tid c o (effAddr c o) s1 = .ok p)
        (fun _ uid tid c => modThread (modTeam (doAcquire (releaseEpoch p.2 uid c o.order) c o.order o.scope) uid (fun t => putK t f p.1))
          uid tid (fun th => { th with pending := th.pending ++ (List.range n).map (fun i => Pending.k (f + i)) }))) ∧
    (o.sub = 0 → Goes (.pref o) (sigR base) always (fun s _ _ c =>
      (List.range lines).foldl (fun st i => prefLine st c (line c + BitVec.ofNat 64 (128 * i))) s)) ∧
    (o.sub ≠ 0 → Goes (.pref o) (sigR base) always same) ∧
    Goes (.cchk o) (sigR (base ++ useDst o.dst.toNat 1)) always (fun s uid tid c => applyWrites s uid tid
      (outR [(o.dst.toNat, { val := BitVec.ofNat 32 (cchkWord s c.team.asid (effAddr c o)), tag := .b32 })])) ∧
    Goes (.fence o) {} (fun _ _ _ c => free c ∧ ¬ rel) (fun s uid tid c => fenced (doAcquire s c o.order o.scope) uid tid) ∧
    Goes (.fence o) {} (fun s _ _ c => free c ∧ rel ∧ (start s c).1 = [])
      (fun s uid tid c => fenced (doAcquire (start s c).2 c o.order o.scope) uid tid) ∧
    Goes (.fence o) {} (fun s _ _ c => free c ∧ rel ∧ (start s c).1 ≠ []) (fun s uid tid c =>
      let wait := fun (pc : W64) =>
        ({ pc := pc, own := false, ids := (start s c).1, acquire := if hasAcquire o.order then some o.scope else none } : Release)
      fenced (modThread (start s c).2 uid tid (fun th => { th with rel := some (wait th.pc) })) uid tid) ∧
    Waits (.fence o) {} (fun _ _ _ c => ¬ free c) same (fun _ _ _ _ => .release) ∧
    (∀ (s : State) (uid tid core : Nat) (f : State → List Nat × State),
      (threadRel s uid tid = none → (f s).1 = [] → awaitWrites s uid tid core f = .ok (f s).2) ∧
      (threadRel s uid tid = none → (f s).1 ≠ [] → awaitWrites s uid tid core f = .error (.hold (modThread (f s).2 uid tid
        (fun th => { th with rel := some ({ pc := th.pc, own := true, ids := (f s).1 } : Release) })) .release)) ∧
      (∀ r, threadRel s uid tid = some r → r.own = true → (∀ i ∈ r.ids, idLive s core i = false) →
        awaitWrites s uid tid core f = .ok s) ∧
      (∀ r, threadRel s uid tid = some r → (∃ i ∈ r.ids, idLive s core i = true) →
        awaitWrites s uid tid core f = .error (.hold s .release))) ∧
    (∀ s1 : State, Goes (.flushIcache o) (sigR (flushUse o))
      (fun s uid tid c => awaitWrites s uid tid (teamCore c.team) (fun st => startRanges st (teamCore c.team) (keys st c)) = .ok s1)
      (fun _ _ _ c => (flushCores s1 c scope).foldl
        (fun st k => dropIcache st k c.team.asid (flushRange o c).1 (flushRange o c).2) s1)) ∧
    Goes (.flushNear o) (sigR (flushUse o)) always (fun s _ _ c =>
      modCore (performRanges s (teamCore c.team) (keys s c)) (teamCore c.team) (fun k => { k with near := k.near.filter (fun l =>
        !(l.asid == c.team.asid && (keys s c).any (fun x => decide (x.1 < l.line * 128 + 128 ∧ l.line * 128 < x.1 + x.2)))) })) ∧
    (∀ s1 : State, Goes (.flushWcb o) {} (fun s uid tid c =>
      awaitWrites s uid tid (teamCore c.team) (fun st => startDrain st (teamCore c.team)) = .ok s1) (fun _ _ _ _ => s1)) ∧
    (∀ (t : Team) (ws : List W32) (f j : Nat), f + ws.length ≤ t.k.length →
      readK (putK t f ws) j = if f ≤ j ∧ j < f + ws.length then ws.getD (j - f) 0 else readK t j)

/-! ## Barriers (R175 to R178) -/

/-- O45. The barrier instructions: `bar.init` sets the expected arrivals and clears the counts, `bar.exp` the byte target, `bar.arv`
answers the parity and arrives, `bar.test` says whether the phase has ended, `bar.wait` and `bar.sync` wait for its end (R22, R176,
R177, R178). -/
def Obligations.Barriers : Prop :=
  ∀ o : Long,
    let nb := o.sa.toNat % 16
    let x := fun (c : Cur) => if o.form = .bi then o.imm.setWidth 32 else opd32 c (regOpd o.kb o.sb)
    let use := sigR (barUse o)
    let pd := o.dst.toNat % 8
    let parity := fun (c : Cur) => (x c).getLsbD 0
    let over_ := fun (s : State) (uid tid : Nat) (p : Bool) => isFreed s uid tid = true ∨ phaseOf s uid nb ≠ p
    let after := fun (s : State) (uid tid : Nat) (c : Cur) => if c.th.syncing.isSome then s else arrive s uid tid nb
    let phase := fun (s : State) (uid : Nat) (c : Cur) => match c.th.syncing with | some (_, p) => p | none => phaseOf s uid nb
    Goes (.barInit o) use (fun _ _ _ c => 0 < (x c).toNat ∧ (x c).toNat ≤ 4096) (fun s uid _ c => modTeam s uid (fun t =>
      setBar t nb { getBar t nb with exp := (x c).toNat, init := true, arv := 0, bcnt := 0, btgt := 0 })) ∧
    Traps (.barInit o) use (fun _ _ _ c => (x c).toNat = 0 ∨ 4096 < (x c).toNat) same (fun _ _ _ _ => { cause := .reservedField }) ∧
    Goes (.barExp o) use always (fun s uid _ c =>
      tryComplete (modTeam s uid (fun t => setBar t nb { getBar t nb with btgt := x c })) uid nb) ∧
    Goes (.barArv o) (sigR (useDst o.dst.toNat 1)) always (fun s uid tid _ => applyWrites (arrive s uid tid nb) uid tid
      (outR [(o.dst.toNat, { val := BitVec.ofNat 32 (phaseOf s uid nb).toNat, tag := .b32 })])) ∧
    Goes (.barWait o) use (fun s uid tid c => over_ s uid tid (parity c)) (fun s uid tid _ => loupeReturn s uid tid nb) ∧
    Waits (.barWait o) use (fun s uid tid c => ¬ over_ s uid tid (parity c)) same (fun _ _ _ c => .bar nb (parity c)) ∧
    Goes (.barSync o) {} (fun s uid tid c => over_ (after s uid tid c) uid tid (phase s uid c))
      (fun s uid tid c => loupeReturn (after s uid tid c) uid tid nb) ∧
    Waits (.barSync o) {} (fun s uid tid c => ¬ over_ (after s uid tid c) uid tid (phase s uid c))
      (fun s uid tid c => modThread (after s uid tid c) uid tid (fun th => { th with syncing := some (nb, phase s uid c) }))
      (fun s uid _ c => .bar nb (phase s uid c)) ∧
    Goes (.barTest o) (sigP (barUse o) [] [pd]) always (fun s uid tid c =>
      applyWrites (if phaseOf s uid nb = parity c then s else loupeReturn s uid tid nb) uid tid
        (outP pd (decide (phaseOf s uid nb ≠ parity c))))

/-! ## Tiles, engines and tokens (R171 to R211) -/

/-- O46. `mma` and `mmac` wait for room, read their block, and where no rule of it fails create a token and write its handle; a failing
rule is RESERVED_FIELD with the block's address and the offset of the first offending field (R172, R173, R180, R182, R183). -/
def Obligations.MatrixInstructions : Prop :=
  ∀ (o : Long) (p : Nat × State),
    let sg := sigR (useRaw 2 (srcA o) ++ useDst o.dst.toNat 1)
    let ea := fun (c : Cur) => opd64 c (srcA o)
    let block := fun (n : Nat) (s : State) (uid tid : Nat) (c : Cur) => tokenRoom s c.team = true ∧ readBlock s uid tid c (ea c) n = .ok p
    let h := BitVec.ofNat 32 (bitsAt p.1 479 448)
    (∀ (q : MmaOp × State) (r : W32 × State), Goes (.mma o) sg (fun s uid tid c => block 128 s uid tid c ∧
        firstOffset (mpbRules p.2 c.team p.1 (mpbOf p.1)) = none ∧ readIndex p.2 uid tid c (mpbOf p.1) = .ok q ∧
        createOne q.2 uid tid c o (.mma q.1 false) = .ok r)
      (fun _ uid tid _ => applyWrites r.2 uid tid (outR [(o.dst.toNat, { val := r.1, tag := .b32 })]))) ∧
    (∀ off : Nat, Traps (.mma o) sg (fun s uid tid c => block 128 s uid tid c ∧
        firstOffset (mpbRules p.2 c.team p.1 (mpbOf p.1)) = some off) (fun _ _ _ _ => p.2)
      (fun _ _ _ c => { cause := .reservedField, aux := (ea c).toNat + off * 2 ^ 64 })) ∧
    Waits (.mma o) sg (fun s _ _ c => tokenRoom s c.team = false) same (fun _ _ _ _ => .room) ∧
    Waits (.mmac o) sg (fun s _ _ c => tokenRoom s c.team = false) same (fun _ _ _ _ => .room) ∧
    (∀ k : Nat, Traps (.mmac o) sg (fun s uid tid c => block 64 s uid tid c ∧ mmacFails p.2 c.team.asid p.1 = some k)
      (fun _ _ _ _ => p.2) (fun _ _ _ _ => { cause := .tokenFault, aux := h.toNat + k * 2 ^ 32 })) ∧
    (∀ (q : MmaOp × State) (r : W32 × State), Goes (.mmac o) sg (fun s uid tid c => block 64 s uid tid c ∧
        mmacFails p.2 c.team.asid p.1 = none ∧
        holdsTile c.team (contOp p.2 c.team p.1 (ea c)).tile = true ∧
        readIndex p.2 uid tid c (contOp p.2 c.team p.1 (ea c)) = .ok q ∧ createOne q.2 uid tid c o (.mma q.1 true) = .ok r)
      (fun _ uid tid c => applyWrites (linkCont r.2 c.team.asid (findToken p.2 c.team.asid h) r.1) uid tid
        (outR [(o.dst.toNat, { val := r.1, tag := .b32 })]))) ∧
    (∀ (s : State) (asid : Nat) (og nw : Nat × Token) (new : W32),
      let s1 := modToken s og.1 og.2.slot (fun tk => { tk with cont := some new })
      findToken s1 asid new = some nw → linkCont s asid (some og) new =
        modToken s1 nw.1 nw.2.slot (fun tk => { tk with
          orig := some (tokenHandle s1 og.1 og.2)
          seat := if inOrder og.2 = true then some ((orderKey og.2).1, (orderKey og.2).2, placeOf og.2) else none }))

/-- O47. The accumulator instructions read and write the granted tile's entries once no matrix operation targets the tile; an index or a
range outside a tile is RESERVED_FIELD and a tile the team does not hold PERMISSION, and a read after a write of the same entry gives
the value written (R184 to R187). -/
def Obligations.Accumulators : Prop :=
  (∀ o : Long,
    let idx := fun (c : Cur) => (opd32 c (srcA o)).toNat + (if o.form = .c then o.imm.toNat else 0)
    let free := fun (s : State) (c : Cur) (n : Nat) => holdsTile c.team n = true ∧ tileBusy s c.team n = false
    let good := fun (s : State) (c : Cur) => idx c < 196608 ∧ free s c (idx c / 98304)
    let b := regOpd o.kb o.sb
    let sgR := sigR (useTyped 0x01 (srcA o) ++ useDst o.dst.toNat 1)
    let sgW := sigR (useTyped 0x01 (srcA o) ++ useRaw 1 b)
    let sgC := sigR ((if o.form = .bi then [] else useTyped 0x01 (srcA o)) ++ (if o.form = .c then useRaw 1 b else []))
    let rows := fun (c : Cur) => if o.form = .bi then some (0, 384, o.imm.toNat % 2) else accRows (opd32 c (srcA o))
    let fill := fun (c : Cur) => if o.form = .c then opd32 c b else 0
    let sgS := sigR (useRaw 2 (srcA o) ++ useTyped 0x01 b)
    let busy := fun (rows : Cur → Option (Nat × Nat × Nat)) (s : State) (_ _ : Nat) (c : Cur) =>
      ∃ r n k, rows c = some (r, n, k) ∧ holdsTile c.team k = true ∧ tileBusy s c.team k = true
    let notHeld := fun (rows : Cur → Option (Nat × Nat × Nat)) (_ : State) (_ _ : Nat) (c : Cur) =>
      ∃ r n k, rows c = some (r, n, k) ∧ holdsTile c.team k = false
    let sb := fun (c : Cur) => accRows (opd32 c b)
    Goes (.accrd o) sgR (fun s _ _ c => good s c) (fun s uid tid c => applyWrites s uid tid (outR [(o.dst.toNat,
      { val := ((getTeam s uid).map (fun t => tileGet (getTile t (idx c / 98304)) (idx c % 98304))).getD 0
        tag := if o.sub = 0x10 then .f32 else .b32 })])) ∧
    Goes (.accwr o) sgW (fun s _ _ c => good s c) (fun s uid _ c => modTeam s uid (fun t => setTile t (idx c / 98304)
      (tilePut (getTile t (idx c / 98304)) (idx c % 98304) (opd32 c b)))) ∧
    Traps (.accrd o) sgR (fun _ _ _ c => 196608 ≤ idx c) same (fun _ _ _ _ => { cause := .reservedField }) ∧
    Traps (.accrd o) sgR (fun _ _ _ c => idx c < 196608 ∧ holdsTile c.team (idx c / 98304) = false) same
      (fun _ _ _ _ => { cause := .permission }) ∧
    Waits (.accrd o) sgR (fun s _ _ c => idx c < 196608 ∧ holdsTile c.team (idx c / 98304) = true ∧
      tileBusy s c.team (idx c / 98304) = true) same (fun _ _ _ _ => .tile) ∧
    (∀ r n k : Nat, Goes (.accclr o) sgC (fun s _ _ c => rows c = some (r, n, k) ∧ free s c k) (fun s uid _ c => modTeam s uid (fun t =>
      setTile t k ((if fill c == 0 then [] else (List.range (n * 256)).map (fun i => (r * 256 + i, fill c)))
        ++ (getTile t k).filter (fun p => decide (p.1 < r * 256 ∨ (r + n) * 256 ≤ p.1)))))) ∧
    Traps (.accclr o) sgC (fun _ _ _ c => rows c = none) same (fun _ _ _ _ => { cause := .reservedField }) ∧
    Traps (.accclr o) sgC (notHeld rows) same (fun _ _ _ _ => { cause := .permission }) ∧
    Waits (.accclr o) sgC (busy rows) same (fun _ _ _ _ => .tile) ∧
    (∀ (r n k : Nat) (s1 : State), Goes (.accst o) sgS (fun s uid tid c => accRows (opd32 c b) = some (r, n, k) ∧ free s c k ∧
        accStore uid tid c o (getTile c.team k) r (List.range (n * 256)) s = .ok s1)
      (fun _ uid tid c => if o.rnd = 4 then modThread s1 uid tid (fun th => { th with seed := c.th.seed + 1 }) else s1)) ∧
    Traps (.accst o) sgS (fun _ _ _ c => sb c = none) same (fun _ _ _ _ => { cause := .reservedField }) ∧
    Traps (.accst o) sgS (notHeld sb) same (fun _ _ _ _ => { cause := .permission }) ∧
    Waits (.accst o) sgS (busy sb) same (fun _ _ _ _ => .tile)) ∧
  (∀ (tile : List (Nat × W32)) (i j : Nat) (v : W32), tileGet (tilePut tile i v) j = if j = i then v else tileGet tile j)

/-- O48. `copy` and `copyt` wait for their cohort and for room, and then the lead participant's slice joins the team's collection at the
instruction, whose token's handle every participant receives; an arrival word or a layout record that breaks a rule is RESERVED_FIELD
(R173, R188 to R191). -/
def Obligations.TeamCopies : Prop :=
  ∀ (o : Long) (s s0 s1 : State) (uid tid : Nat) (t : Team) (th : Thread) (mem : List (Nat × Thread)) (ps : List Part) (p : Part),
    let sgC := sigR (useRaw 2 (srcA o) ++ useRaw 2 (regOpd o.kb o.sb) ++ useOpd (.v o.sc.toNat) 2 [.b32, .b32] ++ useDst o.dst.toNat 1)
    let sgT := sigR (useRaw 2 (srcA o) ++ useDst o.dst.toNat 1)
    let a := opd64 p.cur (srcA o)
    let count := (readV p.cur.th o.sc.toNat).val
    let word := (readV p.cur.th (o.sc.toNat + 1)).val
    let done := fun (i : Instr) (x : State) => exec i s = .next (popIssue (chargeIssue i t.asid th x))
    let gs := fun (i : Instr) (sg : Sig) => (memberGates s i sg t mem s.freeCtr).1
    (Leads (.copy o) sgC s uid tid t th mem ps p s0 → sliceRoom s0 p = true → arriveOk word = true →
      joinSlice s0 uid ps p o false (.bytes a (opd64 p.cur (regOpd o.kb o.sb)) count.toNat) word = .done s1 →
      done (.copy o) (allPass (.copy o) sgC s1 uid (gs (.copy o) sgC))) ∧
    (Leads (.copy o) sgC s uid tid t th mem ps p s0 → sliceRoom s0 p = true → arriveOk word = false →
      done (.copy o) (takeTrap s0 uid tid { cause := .reservedField })) ∧
    (Leads (.copy o) sgC s uid tid t th mem ps p s0 → sliceRoom s0 p = false →
      done (.copy o) (holdThread s0 uid tid .room)) ∧
    (∀ q : Nat × State, Leads (.copyt o) sgT s uid tid t th mem ps p s0 → sliceRoom s0 p = true →
      readBlock s0 uid tid p.cur a 64 = .ok q →
      (firstOffset (tlrRules q.1 (tlrOf q.1)) = none →
        joinSlice q.2 uid ps p o true (.tile (tlrOf q.1)) (BitVec.ofNat 32 (bitsAt q.1 463 432)) = .done s1 →
        done (.copyt o) (allPass (.copyt o) sgT s1 uid (gs (.copyt o) sgT))) ∧
      (∀ off, firstOffset (tlrRules q.1 (tlrOf q.1)) = some off →
        done (.copyt o) (takeTrap q.2 uid tid { cause := .reservedField, aux := a.toNat + off * 2 ^ 64 })))

/-- O49. `coll` waits for room, reads its blocks and creates its token; `sireg`, `sidrop` and `sidrop.all` keep the core's
side-information table and answer what they found (R193, R198, R200, R201). -/
def Obligations.CollectivesAndSideInformation : Prop :=
  ∀ o : Long,
    let sg := sigR (useRaw 2 (srcA o) ++ useDst o.dst.toNat 1)
    let ea := fun (c : Cur) => opd64 c (srcA o)
    let core := fun (c : Cur) => teamCore c.team
    let b := regOpd o.kb o.sb
    let word := fun (v : W32) => outR [(o.dst.toNat, { val := v, tag := .b32 })]
    let a := fun (c : Cur) => (opd64 c (srcA o)).toNat
    let id := fun (c : Cur) => (opd64 c b).toNat
    let len := fun (c : Cur) => (opd32 c (srcC o)).toNat
    let fits := fun (s : State) (c : Cur) => isPow2 (len c) = true ∧ 64 ≤ len c ∧ len c ≤ 65536 ∧ blockOk s c.team (a c) (len c) = true ∧
      id c < 2 ^ 48
    let sgI := sigR (useRaw 2 (srcA o) ++ useOpd b 2 [.b32, .b32] ++ useTyped 0x01 (srcC o) ++ useDst o.dst.toNat 1)
    Waits (.coll o) sg (fun s _ _ c => tokenRoom s c.team = false) same (fun _ _ _ _ => .room) ∧
    (∀ (p : CollOp × Nat × State) (r : W32 × State), p.1.kind ≠ 6 → Goes (.coll o) sg (fun s uid tid c => tokenRoom s c.team = true ∧
        readCdb s uid tid c (ea c) o = .ok p ∧ createColl p.2.2 uid tid c o p.1 = .ok r)
      (fun _ uid tid _ => applyWrites r.2 uid tid (word r.1))) ∧
    (∀ (p : CollOp × Nat × State) (q : CollOp × State) (s0 : State) (r : W32 × State), p.1.kind = 6 →
      Goes (.coll o) sg (fun s uid tid c => tokenRoom s c.team = true ∧ readCdb s uid tid c (ea c) o = .ok p ∧
          readSdb p.2.2 uid tid c (BitVec.ofNat 64 (bitsAt p.2.1 255 192)) p.1 = .ok q ∧
          releasePart q.2 uid tid (core c) c.team.asid (tokenScope o) = .ok s0 ∧
          createColl (registerSide s0 (core c) c.team.asid q.1).2 uid tid c o (registerSide s0 (core c) c.team.asid q.1).1 = .ok r)
        (fun _ uid tid c =>
          let g := registerSide s0 (core c) c.team.asid q.1
          let s1 := match findToken r.2 c.team.asid r.1 with
            | some tk => if terminal tk.2 then r.2 else announce r.2 (core c) c.team.asid g.1
            | none => r.2
          applyWrites s1 uid tid (word r.1))) ∧
    Goes (.sireg o) sgI (fun s _ _ c => fits s c) (fun s uid tid c =>
      let r := sitRegister s (core c) c.team.asid (winOff (BitVec.ofNat 64 (a c))) (id c) (Nat.log2 (len c) - 6)
      applyWrites r.2 uid tid (word (BitVec.ofNat 32 (r.1.getD 0xFFFFFFFF)))) ∧
    Traps (.sireg o) sgI (fun s _ _ c => ¬ fits s c) same (fun _ _ _ _ => { cause := .reservedField }) ∧
    Goes (.sidrop o) (sigR (useOpd (srcA o) 2 [.b32, .b32] ++ useDst o.dst.toNat 1)) always (fun s uid tid c =>
      let mine := fun (e : SitEntry) => e.asid == c.team.asid && e.bid == (opd64 c (srcA o)).toNat
      applyWrites (sitRemove s (core c) mine) uid tid (word (BitVec.ofNat 32 ((getCore s (core c)).sit.any mine).toNat))) ∧
    Goes (.sidropAll o) (sigR (useDst o.dst.toNat 1)) always (fun s uid tid c =>
      applyWrites (sitRemove s (core c) (fun e => e.asid == c.team.asid)) uid tid
        (word (BitVec.ofNat 32 (sitMine s (core c) c.team.asid).length)))

/-- O50. The token instructions answer the result word of R202: a handle of no token is GONE and a change of it refused, a change by
another than the owner is refused, and an accepted change is made and the word reads as it then stands; `tkwait` waits for a terminal
state; `mflip` flips the selector of a mirrored page (R202 to R211). -/
def Obligations.TokenInstructions : Prop :=
  ∀ o : Long,
    let h := fun (c : Cur) => opd32 c (srcA o)
    let word := fun (st : State) (uid tid : Nat) (w : W32) => applyWrites st uid tid (outR [(o.dst.toNat, { val := w, tag := .b32 })])
    let one := sigR (useTyped 0x01 (srcA o) ++ useDst o.dst.toNat 1)
    let b := regOpd o.kb o.sb
    let x := srcB o 0x01
    let find := fun (s : State) (c : Cur) => findToken s c.team.asid (h c)
    let now := fun (s : State) (c : Cur) => wordNow s c.team.asid (h c) false
    let target := fun (s : State) (c : Cur) (p : Nat × Token) => changeTarget s c.team.asid 512 p
    let two := sigR (useTyped 0x01 (srcA o) ++ useTyped 0x01 b ++ useDst o.dst.toNat 1)
    let pri := sigR (useTyped 0x01 (srcA o) ++ useTyped 0x01 x ++ useDst o.dst.toNat 1)
    let gone := fun (i : Instr) (sg : Sig) (pre : Cur → Prop) => Goes i sg (fun s _ _ c => find s c = none ∧ pre c)
      (fun s uid tid _ => word s uid tid 0x80000007)
    let refused := fun (i : Instr) (sg : Sig) (why : State → Cur → Nat × Token → Prop) => ∀ p : Nat × Token,
      Goes i sg (fun s _ _ c => find s c = some p ∧ why s c p) (fun s uid tid _ => word s uid tid (tokenWord p.2 true))
    let changed := fun (i : Instr) (sg : Sig) (why : State → Cur → Nat × Token → Prop) (f : State → Cur → Nat × Token → State) =>
      ∀ p : Nat × Token, Goes i sg (fun s _ _ c => find s c = some p ∧ why s c p)
        (fun s uid tid c => word (f s c p) uid tid (now (f s c p) c))
    let any := fun (_ : Cur) => True
    let owns := fun (_ : State) (c : Cur) (p : Nat × Token) => mayChange c.team p.2 = true
    let small := fun (c : Cur) => (opd32 c x).toNat ≤ 3
    let attachable := fun (s : State) (c : Cur) (p : Nat × Token) =>
      (∃ g, p.2.holder = .grid g ∧ gridUnder s c.team.grid 64 g = true) ∧ terminal p.2 = false ∧ attachedCount s c.team.uid < 64
    let other := fun (s : State) (c : Cur) => ∃ q, findToken s c.team.asid (opd32 c b) = some q ∧ q.2.hold = true
    let ended := fun (s : State) (c : Cur) => match findToken s c.team.asid (opd32 c b) with
      | some q => if terminal q.2 = true then tokenSet s q.2 else []
      | none => []
    let dependable := fun (s : State) (c : Cur) (p : Nat × Token) =>
      mayChange c.team p.2 = true ∧ p.2.hold = true ∧ p.2.deps.length < 4 ∧ ¬ other s c
    Goes (.tkwait o) one (fun s _ _ c => find s c = none) (fun s uid tid _ => word s uid tid 7) ∧
    (∀ p : Nat × Token, Waits (.tkwait o) one (fun s _ _ c => find s c = some p ∧ terminal p.2 = false) same (fun _ _ _ c => .tkwait (h c))) ∧
    (∀ p : Nat × Token, Goes (.tkwait o) one (fun s _ _ c => find s c = some p ∧ terminal p.2 = true) (fun s uid tid c =>
      word (if o.order = 1 ∧ p.2.st = .done then tokenAcquire s uid tid c p.1 p.2 o.scope else s) uid tid (tokenWord p.2 false))) ∧
    Goes (.tktest o) one always (fun s uid tid c => word s uid tid (now s c)) ∧
    Goes (.tkinfo o) (sigR (useTyped 0x01 (srcA o) ++ useDst o.dst.toNat 4)) always (fun s uid tid c =>
      let n := ((find s c).map (fun p => tokRecNat p.2.record)).getD 0
      applyWrites (match find s c with
          | some p => if p.2.st == .faulted then modToken s p.1 p.2.slot (fun tk => { tk with recordRead := true }) else s
          | none => s) uid tid
        (outR ((List.range 4).map (fun i =>
          (o.dst.toNat + i, { val := BitVec.ofNat 32 (n / 2 ^ (128 * o.sub.toNat + 32 * i)), tag := .b32 }))))) ∧
    gone (.tkcancel o) one any ∧ gone (.tkdetach o) one any ∧ gone (.tkadopt o) one any ∧ gone (.tkprio o) pri small ∧
    gone (.tkdepAdd o) two any ∧ gone (.tkdepRel o) one any ∧
    Traps (.tkprio o) pri (fun _ _ _ c => ¬ small c) same (fun _ _ _ _ => { cause := .reservedField }) ∧
    refused (.tkcancel o) one (fun s c p => ¬ owns s c p ∨ cancelToken s (target s c p) = none) ∧
    changed (.tkcancel o) one (fun s c p => owns s c p ∧ (cancelToken s (target s c p)).isSome = true)
      (fun s c p => (cancelToken s (target s c p)).getD s) ∧
    refused (.tkdetach o) one (fun s c p => ¬ owns s c p ∨ isAttached p.2 = false) ∧
    changed (.tkdetach o) one (fun s c p => owns s c p ∧ isAttached p.2 = true)
      (fun s c p => modToken s p.1 p.2.slot (fun tk => { tk with holder := .grid c.team.grid })) ∧
    refused (.tkadopt o) one (fun s c p => ¬ attachable s c p) ∧
    changed (.tkadopt o) one attachable (fun s c p => modToken s p.1 p.2.slot (fun tk => { tk with holder := .team c.team.uid })) ∧
    refused (.tkprio o) pri (fun s c p => small c ∧ (¬ owns s c p ∨ terminal (target s c p).2 = true)) ∧
    changed (.tkprio o) pri (fun s c p => small c ∧ owns s c p ∧ terminal (target s c p).2 = false) (fun s c p =>
      modToken s (target s c p).1 (target s c p).2.slot (fun tk => { tk with pri := BitVec.ofNat 2 (opd32 c x).toNat })) ∧
    refused (.tkdepAdd o) two (fun s c p => ¬ dependable s c p) ∧
    changed (.tkdepAdd o) two dependable (fun s c p => modToken s p.1 p.2.slot (fun tk => { tk with
      deps := tk.deps ++ [opd32 c b]
      hb := if loupeOn s tk.asid = true then addEntries tk.hb (ended s c) else tk.hb })) ∧
    refused (.tkdepRel o) one (fun s c p => ¬ owns s c p ∨ (target s c p).2.hold = false) ∧
    changed (.tkdepRel o) one (fun s c p => owns s c p ∧ (target s c p).2.hold = true) (fun s c p =>
      failDeps (modToken s (target s c p).1 (target s c p).2.slot (fun tk => { tk with hold := false })) (target s c p).1
        (target s c p).2.slot) ∧
    (let flip := sigR (useRaw 2 (srcA o) ++ useDst o.dst.toNat 1)
     let ea := fun (c : Cur) => opd64 c (srcA o)
     let pass := fun (p : Site × State) (s : State) (uid tid : Nat) (c : Cur) =>
       letPass s uid tid c { ea := ea c, size := 1, align := 1, rd := true, wr := false } = .ok p
     (∀ p : Site × State, Traps (.mflip o) flip
       (fun s uid tid c => pass p s uid tid c ∧ (p.1.attr.getLsbD 4 = false ∨ mirFrameOf p.2 c.team.asid (ea c) = none))
       (fun _ _ _ _ => p.2) (fun _ _ _ c => { cause := .permission, addr := ea c, aux := p.1.attr.toNat })) ∧
     (∀ (p : Site × State) (f : Nat) (s1 : State), Goes (.mflip o) flip
       (fun s uid tid c => pass p s uid tid c ∧ p.1.attr.getLsbD 4 = true ∧ mirFrameOf p.2 c.team.asid (ea c) = some f ∧
         releasePart p.2 uid tid (teamCore c.team) c.team.asid o.scope = .ok s1 ∧ p.1.chip = chipId s1 ∧
         getTeam (homeFlip s1 f).2 uid = some c.team)
       (fun _ uid tid c =>
         let r := homeFlip s1 f
         let set := creationSet r.2 uid tid
         word (if r.1 && loupeOn r.2 c.team.asid then advanceEpoch (storeCarried r.2
             { key := .flip f, asid := c.team.asid, scope := o.scope, team := uid, set := set }) uid else r.2) uid tid
           (BitVec.ofNat 32 r.1.toNat))))

/-! ## Launches, ranges and queues (R212 to R219, R328) -/

/-- O51. `launch` and `launch.try` read their record, release, and place a child grid of the issuing team, whose handle they answer; a
thread at depth 9 takes PERMISSION, and without room `launch` takes LAUNCH_FULL and `launch.try` answers 0 and false. `join` and
`join.all` wait for the team's grids and answer how they ended, 2 for a handle of none (R212 to R215). -/
def Obligations.LaunchAndJoin : Prop :=
  ∀ o : Long,
    let use := useRaw 2 (srcA o) ++ useDst o.dst.toNat 1
    let pd := o.mod.toNat % 8
    let reg := fun (v : W32) => [(o.dst.toNat, ({ val := v, tag := .b32 } : Reg))]
    let ea := fun (c : Cur) => opd64 c (srcA o)
    let depth := fun (s : State) (c : Cur) => ((getGrid s c.team.grid).map (·.depth)).getD 0
    let room := fun (s : State) (c : Cur) => ((getCtx s c.team.asid).map launchRoom).getD false
    let read := fun (p : Lrc × State) (s : State) (uid tid : Nat) (c : Cur) => readLrc s uid tid c (ea c) true = .ok p
    let placed := fun (p : Lrc × State) (s1 : State) (yes : Bool) (s : State) (uid tid : Nat) (c : Cur) =>
      read p s uid tid c ∧ depth p.2 c < 9 ∧ releasePart p.2 uid tid (teamCore c.team) c.team.asid 3 = .ok s1 ∧ room s1 c = yes
    let child := fun (p : Lrc × State) (s1 : State) (tid : Nat) (c : Cur) => launchGrid s1 c.team tid p.1 (depth p.2 c + 1)
    let try_ := sigP use [] [pd]
    let h := fun (c : Cur) => opd32 c (srcA o)
    let kid := fun (s : State) (c : Cur) => (kidGrids s c.team).find? (fun g => g.handle == h c)
    let one := sigR (useTyped 0x01 (srcA o) ++ useDst o.dst.toNat 1)
    let joined := fun (gs : List Grid) (s : State) (uid tid : Nat) => applyWrites
      (if gs.any (fun g => !g.endSet.isEmpty) then acquireEntries s uid tid (gs.flatMap (·.endSet)) else s) uid tid
      (outR (reg (if gs.any (·.hurt) then 1 else 0)))
    (∀ (p : Lrc × State) (s1 : State),
      Goes (.launch o) (sigR use) (placed p s1 true)
        (fun _ uid tid c => applyWrites (child p s1 tid c).2 uid tid (outR (reg (child p s1 tid c).1))) ∧
      Goes (.launchTry o) try_ (placed p s1 true)
        (fun _ uid tid c => applyWrites (child p s1 tid c).2 uid tid { regs := reg (child p s1 tid c).1, preds := [(pd, true)] }) ∧
      Traps (.launch o) (sigR use) (placed p s1 false) (fun _ _ _ _ => s1) (fun _ _ _ _ => { cause := .launchFull }) ∧
      Goes (.launchTry o) try_ (placed p s1 false)
        (fun _ uid tid _ => applyWrites s1 uid tid { regs := reg 0, preds := [(pd, false)] }) ∧
      Traps (.launch o) (sigR use) (fun s uid tid c => read p s uid tid c ∧ 9 ≤ depth p.2 c) (fun _ _ _ _ => p.2)
        (fun _ _ _ _ => { cause := .permission }) ∧
      Traps (.launchTry o) try_ (fun s uid tid c => read p s uid tid c ∧ 9 ≤ depth p.2 c) (fun _ _ _ _ => p.2)
        (fun _ _ _ _ => { cause := .permission })) ∧
    Goes (.join o) one (fun s _ _ c => kid s c = none) (fun s uid tid _ => applyWrites s uid tid (outR (reg 2))) ∧
    (∀ g : Grid, Goes (.join o) one (fun s _ _ c => kid s c = some g ∧ g.total ≤ g.ended) (fun s uid tid _ => joined [g] s uid tid) ∧
      Waits (.join o) one (fun s _ _ c => kid s c = some g ∧ g.ended < g.total) same (fun _ _ _ c => .join 0 (h c))) ∧
    Goes (.joinAll o) (sigR (useDst o.dst.toNat 1)) (fun s _ _ c => ∀ g ∈ kidGrids s c.team, g.total ≤ g.ended)
      (fun s uid tid c => joined (kidGrids s c.team) s uid tid) ∧
    Waits (.joinAll o) (sigR (useDst o.dst.toNat 1)) (fun s _ _ c => ∃ g ∈ kidGrids s c.team, g.ended < g.total) same
      (fun _ _ _ _ => .join 1 0)

/-- O52. Ranges and queue rings. `rtsub` puts a range into the context's pool and answers its handle, 0 where the pool is full;
`rtget` hands the front of the team's share, refilled with the upper half of the largest other share, and answers false where no element
is left; `rtdone` counts a piece and answers whether the range is complete, 2 where there is none; `join.rng` waits for it; `qnote` rings
a queue of the context after a release, PERMISSION for any other number (R215 to R219, R328). -/
def Obligations.RangesAndRings : Prop :=
  (∀ o : Long,
    let b := regOpd o.kb o.sb
    let reg := fun (v : W32) => outR [(o.dst.toNat, { val := v, tag := .b32 })]
    let put := fun (v : W32) (s : State) (uid tid : Nat) => applyWrites s uid tid (reg v)
    let sub := sigR (useRaw 2 (srcA o) ++ useTyped 0x03 b ++ useDst o.dst.toNat 1)
    let full := fun (s : State) (c : Cur) => ((getCtx s c.team.asid).map poolFull).getD true
    let submit := fun (p : Lrc × State) (c : Cur) (uid : Nat) =>
      submitRange p.2 c.team.asid (lo32 (opd64 c b)).toNat (hi32 (opd64 c b)).toNat (((getGrid p.2 c.team.grid).map (·.depth)).getD 0) p.1
        (some uid) (some c.team.grid) none
    let pd := o.mod.toNat % 8
    let get := sigP (useTyped 0x01 (srcA o) ++ useTyped 0x01 b ++ useDst o.dst.toNat 2) [] [pd]
    let grain := fun (c : Cur) => (opd32 c b).toNat
    let a := fun (c : Cur) => (opd32 c (srcA o)).toNat
    let mine := fun (s : State) (c : Cur) => ((c.team.range).bind (fun h =>
      if a c = 0 ∨ a c = h then getRange s c.team.asid (BitVec.ofNat 32 h) else none)).filter (fun r => !r.complete)
    let done := sigR (useTyped 0x03 (srcA o) ++ useTyped 0x01 b ++ useDst o.dst.toNat 1)
    let lo := fun (c : Cur) => (lo32 (opd64 c (srcA o))).toNat
    let hi := fun (c : Cur) => (hi32 (opd64 c (srcA o))).toNat
    let counted := fun (r : Range) (c : Cur) => min (r.hi - r.lo) (r.done + (hi c - lo c))
    let h := fun (c : Cur) => opd32 c (srcA o)
    let own := fun (s : State) (c : Cur) => if c.team.ranges.contains (h c).toNat then getRange s c.team.asid (h c) else none
    let one := sigR (useTyped 0x01 (srcA o) ++ useDst o.dst.toNat 1)
    let q := fun (c : Cur) => if o.form = .bi then o.imm.toNat else (h c).toNat
    let ring := sigR (if o.form = .bi then [] else useTyped 0x01 (srcA o))
    let owns := fun (s : State) (c : Cur) => ∃ x, getCtx s c.team.asid = some x ∧ ownsQueue x (q c) = true
    (∀ p : Lrc × State,
      Goes (.rtsub o) sub (fun s uid tid c => readLrc s uid tid c (opd64 c (srcA o)) false = .ok p ∧ full p.2 c = true)
        (fun _ uid tid _ => put 0 p.2 uid tid) ∧
      Goes (.rtsub o) sub (fun s uid tid c => readLrc s uid tid c (opd64 c (srcA o)) false = .ok p ∧ full p.2 c = false)
        (fun _ uid tid c => put (submit p c uid).1
          (modTeam (submit p c uid).2 uid (fun t => { t with ranges := t.ranges ++ [(submit p c uid).1.toNat] })) uid tid)) ∧
    Traps (.rtget o) get (fun _ _ _ c => grain c = 0) same (fun _ _ _ _ => { cause := .reservedField }) ∧
    Goes (.rtget o) get (fun s uid _ c => grain c ≠ 0 ∧
        ∀ r, mine s c = some r → ∀ x, shareOf (refillShare s r uid) uid = some x → x.2.2 ≤ x.2.1)
      (fun s uid tid _ => applyWrites s uid tid { preds := [(pd, false)] }) ∧
    (∀ (r : Range) (u x y : Nat), Goes (.rtget o) get (fun s uid _ c => grain c ≠ 0 ∧ mine s c = some r ∧
        shareOf (refillShare s r uid) uid = some (u, x, y) ∧ x < y)
      (fun s uid tid c =>
        let e := min (x + grain c) y
        applyWrites (setRange s c.team.asid (putShare (refillShare s r uid) (uid, e, y))) uid tid
          { regs := result64 o.dst.toNat (cat64 (BitVec.ofNat 32 x) (BitVec.ofNat 32 e)) .b32, preds := [(pd, true)] })) ∧
    Goes (.rtdone o) done (fun s _ _ c => ∀ r, getRange s c.team.asid (opd32 c b) = some r → r.complete = true)
      (fun s uid tid _ => put 2 s uid tid) ∧
    (∀ r : Range, Goes (.rtdone o) done
      (fun s _ _ c => getRange s c.team.asid (opd32 c b) = some r ∧ r.complete = false ∧ lo c ≤ hi c)
      (fun s uid tid c =>
        let past := decide (r.hi - r.lo ≤ counted r c)
        put (if past then 1 else 0) (setRange s c.team.asid { r with done := counted r c, complete := past }) uid tid)) ∧
    (∀ r : Range, Goes (.rtdone o) done
      (fun s _ _ c => getRange s c.team.asid (opd32 c b) = some r ∧ r.complete = false ∧ hi c < lo c)
      (fun s uid tid c =>
        let n := min (r.hi - r.lo) (r.done + Config.rangeBack s.freeCtr)
        let past := decide (r.hi - r.lo ≤ n)
        put (if past then 1 else 0) (setRange (nextFree s) c.team.asid { r with done := n, complete := past }) uid tid)) ∧
    Goes (.joinRng o) one (fun s _ _ c => own s c = none) (fun s uid tid _ => put 2 s uid tid) ∧
    (∀ r : Range,
      Goes (.joinRng o) one (fun s _ _ c => own s c = some r ∧ r.complete = true)
        (fun s uid tid c => put (if r.hurt = true ∨
            ∃ t ∈ s.teams, t.asid = c.team.asid ∧ t.range = some r.handle ∧ t.hurt = true then 1 else 0) s uid tid) ∧
      Waits (.joinRng o) one (fun s _ _ c => own s c = some r ∧ r.complete = false) same (fun _ _ _ c => .join 2 (h c))) ∧
    Traps (.qnote o) ring (fun s _ _ c => ¬ owns s c) same (fun _ _ _ _ => { cause := .permission }) ∧
    (∀ s1 : State, Goes (.qnote o) ring
      (fun s uid tid c => owns s c ∧ releasePart s uid tid (teamCore c.team) c.team.asid 3 = .ok s1 ∧
        (∃ x, getCtx s1 c.team.asid = some x ∧ queueChip s1 x = chipId s1))
      (fun _ uid tid c =>
        let s2 := ringHere s1 c.team.asid (q c) (creationSet s1 uid tid)
        if loupeOn s2 c.team.asid then advanceEpoch s2 uid else s2))) ∧
  (∀ (s : State) (r : Range) (uid u x y : Nat), ((shareOf r uid).map shareLen).getD 0 = 0 → largestShare s r uid = some (u, x, y) →
    shareOf (refillShare s r uid) uid = some (uid, x + (y - x) / 2, y) ∧
    shareOf (refillShare s r uid) u = some (u, x, x + (y - x) / 2) ∧
    (∀ v, v ≠ uid → v ≠ u → shareOf (refillShare s r uid) v = shareOf r v) ∧ x < y ∧ u ≠ uid ∧
    ∀ z ∈ r.shares, z.1 ≠ uid → shareLen z ≤ y - x)

/-! ## Child devices and handler queues (R220 to R227, R334 to R346) -/

/-- O53. The device-tree instructions: `dvnew` reads its grant block and answers the first outcome that applies or makes the child one
level down; the others answer NOTCHILD for a handle of no direct child, wait for their turn among the commands that name it, and set
its grant, its mask, its freeze; `dvrevoke` ends its subtree and `dvinv` the caller's entries (R220 to R226). -/
def Obligations.DeviceTree : Prop :=
  (∀ o : Long,
    let put := fun (v : W32) (s : State) (uid tid : Nat) => applyWrites s uid tid (outR [(o.dst.toNat, { val := v, tag := .b32 })])
    let b := regOpd o.kb o.sb
    let kid := fun (s : State) (c : Cur) => childOf s c.team.asid (opd32 c (srcA o))
    let sg := fun (more : List RegUse) => sigR (useTyped 0x01 (srcA o) ++ more ++ useDst o.dst.toNat 1)
    let turn := fun (k : Ctx) (s : State) (uid tid : Nat) => takeTurn s k.asid uid tid
    let over_ := fun (k : Ctx) (s : State) (uid tid : Nat) (v : W32) => put v (endTurn s k.asid uid tid) uid tid
    let mine := fun (k : Ctx) (yes : Bool) (s : State) (uid tid : Nat) (c : Cur) => kid s c = some k ∧ (turn k s uid tid).1 = yes
    let orphan := fun (i : Instr) (more : List RegUse) =>
      Goes i (sg more) (fun s _ _ c => kid s c = none) (fun s uid tid _ => put 4 s uid tid)
    let queued := fun (i : Instr) (more : List RegUse) => ∀ k : Ctx,
      Waits i (sg more) (mine k false) (fun s uid tid _ => (turn k s uid tid).2) (fun _ _ _ _ => .turn)
    let new := sigR (useRaw 2 (srcA o) ++ useDst o.dst.toNat 1)
    let grd := fun (r : Block × State) (p : Ctx) (s : State) (uid tid : Nat) (c : Cur) =>
      getCtx s c.team.asid = some p ∧ readGrant s uid tid c (opd64 c (srcA o)) (p.level + 1) false = .ok r
    let frozenBy := fun (k : Ctx) (s : State) (uid tid : Nat) (c : Cur) => freezeCtx (turn k s uid tid).2 k.asid c.team.asid
    let lim := regOpd o.kc o.sc
    let ck := useRaw 2 b ++ useTyped 0x03 lim
    let key := fun (k : Ctx) (s : State) (uid tid : Nat) (c : Cur) => ((getCtx (frozenBy k s uid tid c) c.team.asid).map (·.keyId)).getD 0
    let shot := fun (k : Ctx) (s : State) (uid tid : Nat) (c : Cur) =>
      snapshot (frozenBy k s uid tid c) (subtree (frozenBy k s uid tid c) k.asid)
    let image := fun (k : Ctx) (s : State) (uid tid : Nat) (c : Cur) =>
      imageFile (frozenBy k s uid tid c) (key k s uid tid c) (shot k s uid tid c)
    let far := fun (r : Block × State) (p : Ctx) => if r.1.imga = 0 then none else imageFar r.2 p r.1.imga
    let stopped := fun (k : Ctx) (s : State) (uid tid : Nat) (c : Cur) =>
      allStopped (frozenBy k s uid tid c) (subtree (frozenBy k s uid tid c) k.asid)
    let n := fun (c : Cur) => (opd64 c b).toNat
    let swept := fun (s : State) (c : Cur) =>
      settleAccesses (invalidate s c.team.asid (opd64 c (srcA o)).toNat (n c)) (subtree s c.team.asid)
    let inv := sigR (useRaw 2 (srcA o) ++ useTyped 0x03 b ++ useDst o.dst.toNat 1)
    (∀ (r : Block × State) (p : Ctx),
      (∀ s1, Waits (.dvnew o) new (fun s uid tid c => grd r p s uid tid c ∧ far r p = some s1) (fun _ _ _ _ => s1)
        (fun _ _ _ _ => .command)) ∧
      Traps (.dvnew o) new (fun s uid tid c => grd r p s uid tid c ∧ r.1.imga ≠ 0 ∧ far r p = none ∧ findImage r.2 p r.1.imga = none)
        (fun _ _ _ _ => r.2) (fun _ _ _ _ => { cause := .reservedField, aux := r.1.imga.toNat }) ∧
      (∀ v, Goes (.dvnew o) new (fun s uid tid c => grd r p s uid tid c ∧ far r p = none ∧
        (r.1.imga = 0 ∨ (findImage r.2 p r.1.imga).isSome = true) ∧ newOutcome r.2 p r.1 = some v) (fun _ uid tid _ => put v r.2 uid tid)) ∧
      (∀ (q a : Nat) (s2 : State), Goes (.dvnew o) new
        (fun s uid tid c => grd r p s uid tid c ∧ r.1.imga = 0 ∧ newOutcome r.2 p r.1 = none ∧
          queueRun r.2 p none r.1.grant.nqueue = some q ∧ freeAsid (treeWrites r.2 r.1 q).2 = some a ∧ freeAsid s2 = some a ∧
          (∃ s1, storeAll (treeWrites r.2 r.1 q).2 uid tid c (treeWrites r.2 r.1 q).1 = .ok s1 ∧
            s2 = mapMirrors s1 p.asid [] r.1.grant.mrng))
        (fun _ uid tid _ => put (ctxHandle (newChild s2 p a q r.1)) (hubDone (addChild s2 p (newChild s2 p a q r.1)) p.asid) uid tid))) ∧
    orphan (.dvfeat o) (useTyped 0x03 b) ∧ orphan (.dvfrz o) [] ∧ orphan (.dvthaw o) [] ∧ orphan (.dvckpt o) ck ∧
    queued (.dvfeat o) (useTyped 0x03 b) ∧ queued (.dvfrz o) [] ∧ queued (.dvthaw o) [] ∧ queued (.dvckpt o) ck ∧
    Goes (.dvgrant o) (sg (useRaw 2 b)) (fun s uid tid c => (getCtx s c.team.asid).isSome = true ∧
        hasBegun s uid tid begunGrant = true ∧ kid s c = none) (fun s uid tid _ => put 4 s uid tid) ∧
    (∀ (p : Ctx) (r : Block × State), Goes (.dvgrant o) (sg (useRaw 2 b)) (fun s uid tid c => getCtx s c.team.asid = some p ∧
        hasBegun s uid tid begunGrant = false ∧ kid s c = none ∧ readGrant s uid tid c (opd64 c b) (p.level + 1) true = .ok r)
      (fun _ uid tid _ => put 4 r.2 uid tid)) ∧
    (∀ (p k : Ctx) (r : Block × State) (v : W32) (s1 : State), Goes (.dvgrant o) (sg (useRaw 2 b)) (fun s uid tid c =>
        getCtx s c.team.asid = some p ∧ p.asid = c.team.asid ∧ hasBegun s uid tid begunGrant = false ∧ kid s c = some k ∧
        readGrant s uid tid c (opd64 c b) k.level true = .ok r ∧ (turn k r.2 uid tid).1 = true ∧
        grantChild (turn k r.2 uid tid).2 uid tid c p k r.1 = .ok (v, s1))
      (fun _ uid tid _ => over_ k s1 uid tid v)) ∧
    (∀ k : Ctx,
      Goes (.dvfeat o) (sg (useTyped 0x03 b)) (mine k true) (fun s uid tid c =>
        over_ k (modCtx (turn k s uid tid).2 k.asid (fun x => { x with feat := opd64 c b &&& 0x3FFF })) uid tid 0) ∧
      Goes (.dvfrz o) (sg []) (fun s uid tid c => mine k true s uid tid c ∧ stopped k s uid tid c = true)
        (fun s uid tid c => over_ k (frozenBy k s uid tid c) uid tid 0) ∧
      Waits (.dvfrz o) (sg []) (fun s uid tid c => mine k true s uid tid c ∧ stopped k s uid tid c = false)
        (fun s uid tid c => frozenBy k s uid tid c) (fun _ _ _ _ => .command) ∧
      Goes (.dvthaw o) (sg []) (fun s uid tid c => mine k true s uid tid c ∧ c.team.asid ∉ k.freezes)
        (fun s uid tid _ => over_ k (turn k s uid tid).2 uid tid 5) ∧
      Goes (.dvthaw o) (sg []) (fun s uid tid c => mine k true s uid tid c ∧ c.team.asid ∈ k.freezes) (fun s uid tid c =>
        over_ k (modCtx (turn k s uid tid).2 k.asid (fun x => { x with freezes := x.freezes.filter (· != c.team.asid) })) uid tid 0) ∧
      Waits (.dvckpt o) (sg ck) (fun s uid tid c => mine k true s uid tid c ∧ stopped k s uid tid c = false)
        (fun s uid tid c => frozenBy k s uid tid c) (fun _ _ _ _ => .command) ∧
      Goes (.dvckpt o) (sg ck) (fun s uid tid c => mine k true s uid tid c ∧ stopped k s uid tid c = true ∧
          (opd64 c lim).toNat < (image k s uid tid c).length)
        (fun s uid tid c => over_ k (nextFree (frozenBy k s uid tid c)) uid tid 6) ∧
      (∀ s3 : State, Goes (.dvckpt o) (sg ck) (fun s uid tid c => mine k true s uid tid c ∧ stopped k s uid tid c = true ∧
          (image k s uid tid c).length ≤ (opd64 c lim).toNat ∧ storeAll (nextFree (frozenBy k s uid tid c)) uid tid c
            [{ ea := opd64 c b, size := (image k s uid tid c).length, parts := [(0, image k s uid tid c)] }] = .ok s3)
        (fun s uid tid c =>
          let st := performContext s3 (teamCore c.team) c.team.asid
          over_ k { st with sched := { st.sched with
            images := (key k s uid tid c, image k s uid tid c, shot k s uid tid c) :: st.sched.images } } uid tid 0))) ∧
    (let a := fun (s : State) (c : Cur) => bitsAt (newHandle s c.team.asid (opd32 c (srcA o))).toNat 13 0
     let begun := fun (s : State) (uid tid : Nat) (c : Cur) => hasBegun s uid tid (begunRevoke (a s c))
     let left := fun (s : State) (x : Nat) => ∃ y ∈ s.ctxs, y.asid = x ∧ y.live = false
     let start := fun (k : Ctx) (s : State) (uid tid : Nat) (c : Cur) =>
       beginRevoke (markBegun (turn k s uid tid).2 uid tid (begunRevoke (a s c))) k.asid
     Goes (.dvrevoke o) (sg []) (fun s uid tid c => begun s uid tid c = true ∧ ¬ left s (a s c)) (fun s uid tid _ => put 0 s uid tid) ∧
     Waits (.dvrevoke o) (sg []) (fun s uid tid c => begun s uid tid c = true ∧ left s (a s c)) same (fun _ _ _ _ => .command) ∧
     Goes (.dvrevoke o) (sg []) (fun s uid tid c => begun s uid tid c = false ∧ kid s c = none) (fun s uid tid _ => put 4 s uid tid) ∧
     (∀ k : Ctx,
       Waits (.dvrevoke o) (sg []) (fun s uid tid c => begun s uid tid c = false ∧ mine k false s uid tid c)
         (fun s uid tid _ => (turn k s uid tid).2) (fun _ _ _ _ => .turn) ∧
       Goes (.dvrevoke o) (sg []) (fun s uid tid c => begun s uid tid c = false ∧ mine k true s uid tid c ∧
           ¬ left (start k s uid tid c) (a s c)) (fun s uid tid c => put 0 (start k s uid tid c) uid tid) ∧
       Waits (.dvrevoke o) (sg []) (fun s uid tid c => begun s uid tid c = false ∧ mine k true s uid tid c ∧
           left (start k s uid tid c) (a s c)) (fun s uid tid c => start k s uid tid c) (fun _ _ _ _ => .command))) ∧
    Goes (.dvinv o) inv (fun _ _ _ c => n c = 0) (fun s uid tid _ => put 0 s uid tid) ∧
    Goes (.dvinv o) inv (fun s _ _ c => n c ≠ 0 ∧ accessesOut (swept s c) (subtree s c.team.asid) = false)
      (fun s uid tid c => put 0 (swept s c) uid tid) ∧
    Waits (.dvinv o) inv (fun s _ _ c => n c ≠ 0 ∧ accessesOut (swept s c) (subtree s c.team.asid) = true)
      (fun s _ _ c => swept s c) (fun _ _ _ _ => .command)) ∧
  (∀ (s : State) (p : Ctx) (a q : Nat) (b : Block),
    (newChild s p a q b).level = p.level + 1 ∧ (newChild s p a q b).parent = some p.asid ∧ (newChild s p a q b).feat = p.feat ∧
    (p.level = 7 → newOutcome s p b = some 3) ∧
    (p.level < 7 → p.left < 1 + b.grant.dslot → newOutcome s p b = some 1) ∧
    ((∀ c ∈ s.ctxs, c.asid ≠ a) → getCtx (addChild s p (newChild s p a q b)) a = some (newChild s p a q b)))

/-- O54. Handler queues: an entry is queued at the nearest context of the chain with a binding that covers the faulting one, UNH once it
has passed one without, and becomes a notice of kind 2 past the root; `hqbind` and `hqbind.off` make and end a binding, `hqpop` and
`hqpop.wait` write the oldest entry and take it, and `hqret` answers one (R227, R344 to R346). -/
def Obligations.HandlerQueues : Prop :=
  (∀ (s : State) (h : Hqe) (c : Ctx) (r : List Ctx),
    ((∀ b ∈ c.bindings, covers s b h.ctx = false) → postEntry s h (c :: r) = postEntry s { h with unh := true } r) ∧
    ((∃ b ∈ c.bindings, covers s b h.ctx = true) → h.about ≠ .event → getCtx s c.asid = some c →
      ∃ id t, postEntry s h (c :: r) = (.queued c.asid id, t) ∧
        (∃ x under, getCtx t c.asid = some x ∧ x.hqes = c.hqes ++ [{ h with id := id, under := under }]) ∧
        t = { s with ctxs := t.ctxs } ∧ ∀ a, a ≠ c.asid → getCtx t a = getCtx s a)) ∧
  (∀ (s : State) (h : Hqe), h.about ≠ .event → ∃ id t, postEntry s h [] = (.notice id, t) ∧
    ∃ q ∈ t.host.asked, q.id = id ∧ q.about = h.about) ∧
  (∀ o : Long,
    let put := fun (v : W32) (s : State) (uid tid : Nat) => applyWrites s uid tid (outR [(o.dst.toNat, { val := v, tag := .b32 })])
    let one := sigR (useTyped 0x01 (srcA o) ++ [] ++ useDst o.dst.toNat 1)
    let who := fun (s : State) (c : Cur) => bindingOf s c.team.asid (opd32 c (srcA o))
    let held := fun (k : Option Nat) (s : State) (c : Cur) =>
      ((getCtx s c.team.asid).map (·.bindings)).bind (fun l => l.find? (fun b => b.child == k))
    let pop := sigR (useRaw 2 (srcA o) ++ useDst o.dst.toNat 1)
    let ea := fun (c : Cur) => opd64 c (srcA o)
    let pass := fun (p : Site × State) (s : State) (uid tid : Nat) (c : Cur) =>
      letPass s uid tid c { ea := ea c, size := 64, align := 64, rd := false, wr := true, winOnly := true } = .ok p
    let taken := fun (p : Site × State) (h : Hqe) (s1 : State) (s : State) (uid tid : Nat) (c : Cur) =>
      pass p s uid tid c ∧ popNext p.2 c.team.asid uid = some h ∧
      writeSite p.2 uid tid c (ea c) p.1 ((List.range 64).zip (natBytes 64 (hqeNat h))) .plain
        (writerSets p.2 uid tid (carryKey p.2 p.1) 64 0 false) = .ok s1
    let b := regOpd o.kb o.sb
    let ret := sigR (useTyped 0x01 (srcA o) ++ (if o.form = .bi then [] else useTyped 0x01 b) ++ useDst o.dst.toNat 1)
    let action := fun (c : Cur) => if o.form = .bi then o.imm.toNat else (opd32 c b).toNat
    let entry := fun (s : State) (c : Cur) =>
      (getCtx s c.team.asid).bind (fun x => x.popped.find? (fun h => h.id == opd32 c (srcA o)))
    let answer_ := fun (h : Hqe) (s : State) (c : Cur) =>
      answer (modCtx s c.team.asid (fun x => { x with popped := x.popped.erase h })) h.about (.entry c.team.asid h.id) h.id (action c)
        h.addr h.stage.toNat h.wr
    Goes (.hqbind o) one (fun s _ _ c => who s c = none) (fun s uid tid _ => put 4 s uid tid) ∧
    (∀ (k : Option Nat) (x : Binding), Goes (.hqbind o) one (fun s _ _ c => who s c = some k ∧ held k s c = some x)
      (fun s uid tid _ => put (if x.team = uid then 0 else 2) s uid tid)) ∧
    (∀ k : Option Nat, Goes (.hqbind o) one (fun s _ _ c => who s c = some k ∧ held k s c = none) (fun s uid tid c => put 0
      (modCtx s c.team.asid (fun x => { x with bindings := x.bindings ++ [{ team := uid, child := k }] })) uid tid)) ∧
    Goes (.hqbindOff o) one (fun s _ _ c => who s c = none) (fun s uid tid _ => put 4 s uid tid) ∧
    (∀ k : Option Nat, Goes (.hqbindOff o) one (fun s _ _ c => who s c = some k) (fun s uid tid c => put 0
      (endBindings s c.team.asid (fun x => x.team == uid && x.child == k)) uid tid)) ∧
    (∀ p : Site × State,
      Goes (.hqpop o) pop (fun s uid tid c => pass p s uid tid c ∧ popNext p.2 c.team.asid uid = none)
        (fun _ uid tid _ => put 0 p.2 uid tid) ∧
      Waits (.hqpopWait o) pop (fun s uid tid c => pass p s uid tid c ∧ popNext p.2 c.team.asid uid = none)
        (fun _ _ _ _ => p.2) (fun _ _ _ _ => .hqpop)) ∧
    (∀ (p : Site × State) (h : Hqe) (s1 : State),
      Goes (.hqpop o) pop (taken p h s1) (fun _ uid tid c => put 1 (popEntry s1 c.team.asid h) uid tid) ∧
      Goes (.hqpopWait o) pop (taken p h s1) (fun _ uid tid c => put 1 (popEntry s1 c.team.asid h) uid tid)) ∧
    Traps (.hqret o) ret (fun _ _ _ c => 2 < action c) same (fun _ _ _ _ => { cause := .reservedField }) ∧
    Goes (.hqret o) ret (fun s _ _ c => action c ≤ 2 ∧ entry s c = none) (fun s uid tid _ => put 4 s uid tid) ∧
    (∀ h : Hqe, Goes (.hqret o) ret (fun s _ _ c => action c ≤ 2 ∧ entry s c = some h)
      (fun s uid tid c => put (if (answer_ h s c).1 then 0 else 4) (answer_ h s c).2 uid tid))) ∧
  (∀ (s : State) (u tid : Nat) (t : Team) (th : Thread) (p : Park), getTeam s u = some t → getThread t tid = some th → th.st = .parked p →
    (∃ t' th', (answerThread s u tid p 0).1 = true ∧ getTeam (answerThread s u tid p 0).2 u = some t' ∧ getThread t' tid = some th' ∧
      th'.st = .ready ∧ th'.pc = th.pc ∧ th'.regs = th.regs) ∧
    (∃ t' th', (answerThread s u tid p 1).1 = true ∧ getTeam (answerThread s u tid p 1).2 u = some t' ∧ getThread t' tid = some th' ∧
      th'.st = .ready ∧ th'.pc = th.frc.pc + BitVec.ofNat 64 (4 * wordLen th.frc.word0) ∧ th'.regs = th.regs) ∧
    answerThread s u tid p 2 = (true, killThread s u tid))

/-! ## Special registers and counters (R23 to R26, R228, R229) -/

/-- O55. `rdsr` reads the register that IMM16 names, `wrsr` writes sr.ctl in its writable bits, sr.hent and sr.seed, takes PERMISSION
for another register, BAD_TARGET for a misaligned handler address and MASKED_FEATURE for a masked TAGRLX; `rdcnt` reads a counter
(R23 to R26, R228, R229; which trap a misaligned address and a masked TAGRLX take are readings of log 25). -/
def Obligations.SpecialRegisters : Prop :=
  (∀ o : Long,
    let n := o.imm.toNat
    let wide := n = 0x12 ∨ n = 0x15
    let rd := sigR (useDst o.dst.toNat (if srWide n then 2 else 1))
    let wr := { sigR (useRaw (if srWide n then 2 else 1) (srcA o)) with seedW := n == 0x15 }
    let v := fun (c : Cur) => opd32 c (srcA o) &&& 0xB0
    let x := fun (c : Cur) => opd64 c (srcA o)
    let masked := fun (s : State) (c : Cur) => (v c).getLsbD 5 = true ∧ (effFeat s c.team.asid).getLsbD 13 = false
    (srWide n = true ↔ wide) ∧
    (wide → Goes (.rdsr o) rd always (fun s uid tid c => applyWrites s uid tid
      (outR (result64 o.dst.toNat (readSr s c.team tid c.th n) .b32)))) ∧
    (¬ wide → Goes (.rdsr o) rd always (fun s uid tid c => applyWrites s uid tid
      (outR [(o.dst.toNat, { val := lo32 (readSr s c.team tid c.th n), tag := .b32 })]))) ∧
    (n = 0x10 → Goes (.wrsr o) wr (fun s _ _ c => ¬ masked s c) (fun s uid _ c => modTeam s uid (fun t => { t with ctl := v c }))) ∧
    (n = 0x10 → Traps (.wrsr o) wr (fun s _ _ c => masked s c) same (fun _ _ _ _ => { cause := .maskedFeature, aux := 13 })) ∧
    (n = 0x12 → Goes (.wrsr o) wr (fun _ _ _ c => (x c).toNat % 4 = 0) (fun s uid _ c => modTeam s uid (fun t => { t with hent := x c }))) ∧
    (n = 0x12 → Traps (.wrsr o) wr (fun _ _ _ c => (x c).toNat % 4 ≠ 0) same (fun _ _ _ c => { cause := .badTarget, addr := x c })) ∧
    (n = 0x15 → Goes (.wrsr o) wr always (fun s uid tid c => modThread s uid tid (fun th => { th with seed := x c }))) ∧
    (n ≠ 0x10 → ¬ wide → Traps (.wrsr o) wr always same (fun _ _ _ _ => { cause := .permission })) ∧
    Goes (.rdcnt o) (sigR (useDst o.dst.toNat 2)) always (fun s uid tid c => applyWrites s uid tid
      (outR (result64 o.dst.toNat (readCnt s c.team c.th n) .b32)))) ∧
  (∀ (s : State) (t : Team) (tid : Nat) (th : Thread),
    let r := readSr s t tid th
    r 0x00 = BitVec.ofNat 64 tid ∧ r 0x03 = BitVec.ofNat 64 th.role ∧ r 0x04 = t.tmx.setWidth 64 ∧ r 0x05 = t.tmy.setWidth 64 ∧
    r 0x06 = t.tmz.setWidth 64 ∧ r 0x07 = t.gdx.setWidth 64 ∧ r 0x08 = t.gdy.setWidth 64 ∧ r 0x09 = t.gdz.setWidth 64 ∧
    (t.gangs[th.gang]?.map (·.width) = some 8 ∨ t.gangs[th.gang]?.map (·.width) = some 16 ∨ t.gangs[th.gang]?.map (·.width) = some 32 ∨
        t.gangs[th.gang]?.map (·.width) = some 64 → th.gang < 64 → th.gpos < 64 →
      ((r 0x01).extractLsb' 14 50).toNat = 0 ∧ ((r 0x01).extractLsb' 8 6).toNat = th.gang ∧
      t.gangs[th.gang]?.map (·.width) = some (8 * 2 ^ ((r 0x01).extractLsb' 6 2).toNat) ∧ ((r 0x01).extractLsb' 0 6).toNat = th.gpos) ∧
    (teamCore t < 128 → th.part < 4 → th.lane < 64 → th.slot < 32 →
      ((r 0x02).extractLsb' 28 4).toNat = chipId s ∧ ((r 0x02).extractLsb' 21 7).toNat = teamCore t ∧
      ((r 0x02).extractLsb' 19 2).toNat = th.part ∧ ((r 0x02).extractLsb' 13 6).toNat = th.lane ∧
      ((r 0x02).extractLsb' 8 5).toNat = th.slot ∧ ((r 0x02).extractLsb' 0 8).toNat = 0) ∧
    r 0x10 = t.ctl.setWidth 64 ∧ r 0x12 = t.hent ∧ r 0x13 = t.bwd.setWidth 64 ∧ r 0x14 = t.pdl.setWidth 64 ∧ r 0x15 = th.seed ∧
    readCnt s t th 0 = BitVec.ofNat 64 s.cycle ∧ readCnt s t th 4 = th.issued)

/-! ## Events of the machine itself -/

/-- O56. A new token stands PENDING in a free slot of its core, attached to its team with the HOLD, UNORD, SCOPE and PRI of MOD, its
handle finds it, and no other token of the core changes. The engines' events: a token starts, an accumulator block ends, a sector is acknowledged, a chunk of a collective ends, a shuffle
begins to send, a Prism group leaves, an aged write-combining entry drains, a held store is performed, pending writes are there, a team
ends; each happens exactly where its condition holds (R72, R156, R239, R257, R280, R288, R299, R368, R374). -/
def Obligations.EngineEvents : Prop :=
  (∀ (s : State) (t : Team) (issuer : Nat) (mod : BitVec 6) (hb : List LEntry) (op : Op),
    let core := teamCore t
    freeSlots (getCore s core) ≠ [] →
    ∃ tk, getToken (createToken s t issuer mod hb op).2 core tk.slot = some tk ∧ (createToken s t issuer mod hb op).1 = tokenHandle s core tk ∧
      (tk.slot, tk.gen) ∈ freeSlots (getCore s core) ∧ tk.st = .pending ∧ tk.holder = .team t.uid ∧ tk.asid = t.asid ∧
      tk.hold = mod.getLsbD 5 ∧ tk.unord = mod.getLsbD 4 ∧ tk.scope = mod.extractLsb' 2 2 ∧ tk.pri = mod.extractLsb' 0 2 ∧
      tk.cxl = false ∧ tk.op = op ∧
      (∀ n, n ≠ tk.slot → getToken (createToken s t issuer mod hb op).2 core n = getToken s core n)) ∧
  (∀ s : State,
    (∀ (u : Nat) (t : Team), getTeam s u = some t → Happens (.teamEnd u) s (teamOver s t = true) (runQueues (endTeam s t))) ∧
    (∀ (core slot : Nat) (tk : Token), getToken s core slot = some tk →
      Happens (.tokenStart core slot) s (canStart s core tk = true ∧ firstPick s core tk = true)
        (setToken s core { tk with st := .running, age := 0, firstAt := s.cycle + 1 }) ∧
      (∀ (m : MmaOp) (k : Bool) (t : Team), tk.op = .mma m k → getTeam s tk.team = some t →
        Happens (.kBlockEnd core slot) s (mayAccess s tk = true ∧ tk.splitting = false ∧ teamResident t = true) (kBlock s core tk m k t)) ∧
      (∀ (c : CopyOp) (i j : Nat) (sl : Slice) (p : W64 × List SrcByte), copyOf tk = some c → c.slices[i]? = some sl →
        sliceSector sl.what j = some p →
        Happens (.sectorAcknowledged core slot i j) s
          (sectorReady s core tk c i j sl = true ∧ (sectorBegun sl j = true ∨ sectorNext s core tk i j = true))
          (sectorStep s core tk i j sl p.1 p.2)) ∧
      (∀ (c : CollOp) (j : Nat), collOf tk = some c →
        (c.kind = 6 → Happens (.sectorAcknowledged core slot 0 j) s
          (segmentReady s core tk c j = true ∧ sectorNext s core tk 0 j = true) (segmentSend s core tk c j)) ∧
        (c.kind ≠ 6 → Happens (.sectorAcknowledged core slot 0 j) s
          (rankReady s core tk c j = true ∧ (j ∈ c.acked ∨ sectorNext s core tk 0 j = true)) (rankSector s core tk c j))) ∧
      (∀ (c : CollOp) (remote : List RemoteRank), collOf tk = some c →
        (c.kind = 6 → c.sending = true → Happens (.collChunkEnd core slot remote) s ((shuffleChunkEnd s tk c remote).isSome = true)
          ((shuffleChunkEnd s tk c remote).getD s)) ∧
        (∀ ranks, c.kind ≠ 6 → runningRanks s tk c = some ranks → Happens (.collChunkEnd core slot remote) s
          (chunkReady s ranks = true ∧ remoteFits s c remote = true ∧ (chunkStep s ranks remote).isSome = true)
          ((chunkStep s ranks remote).getD s)) ∧
        ((c.kind ≠ 6 ∧ runningRanks s tk c = none) ∨ (c.kind = 6 ∧ c.sending = false) →
          Happens (.collChunkEnd core slot remote) s (terminal tk = false ∧ (∃ r ∈ remote, r.word = .differs) ∧
            ∀ r ∈ remote, r.rank ∈ remoteRanks s c) (spoilGroup s tk))) ∧
      (∀ c : CollOp, collOf tk = some c → c.kind = 6 →
        ∀ ranks, runningRanks s tk c = some ranks →
          Happens (.shuffleSendPhase core slot) s (c.sending = false ∧ (∀ p ∈ ranks, tokenHeld s p.1 p.2.1 = false ∧ mayAccess s p.2.1 = true) ∧
              ∀ h ∈ s.fab.haveWait, ¬ (h.1 = ftagOf s tk.asid ∧ h.2.1 = c.grp))
            (ranks.foldl (fun st p =>
              shuffleFinish (setColl st p.1 p.2.1.slot (fun d => { d with sending := true })) p.1 p.2.1.slot) s))) ∧
    (∀ (port : Nat) (h : PrismSeg) (r : List PrismSeg), (getPrism s port).segs = h :: r →
      Happens (.prismGroupTimeout port) s (slotsFree s port (prismGroup s h r).1 = true)
        (prismSettle port ((getPrism (prismFlush s port) port).segs.length) (prismFlush s port))) ∧
    (∀ (core n : Nat) (e : WcbEntry), (getCore s core).wcb[n]? = some e →
      Happens (.wcbAgeingDrain core n) s (wcbLimit s e ≤ e.age) (drainEntry s core e)) ∧
    (∀ (core n : Nat) (h : HeldStore), (getCore s core).held[n]? = some h →
      Happens (.accessPerformed core n) s (∀ e ∈ (getCore s core).held.take n, ∀ p ∈ e.data, ∀ q ∈ h.data, p.1 ≠ q.1)
        (performStore (setCore s { getCore s core with held := (getCore s core).held.eraseIdx n }) h)) ∧
    (∀ (u tid : Nat) (t : Team) (th : Thread), getTeam s u = some t → getThread t tid = some th →
      Happens (.pendingWriteCompletion u tid) s (th.pending ≠ [] ∨ th.st = .stalled) (modThread s u tid (fun x =>
        { x with pending := [], drain := false, st := if x.st = .stalled then .ready else x.st, age := 0 }))) ∧
    (∀ u tid core slot i j : Nat,
      (getTeam s u = none → exec (.teamEnd u) s = .fault .notEnabled ∧ exec (.pendingWriteCompletion u tid) s = .fault .notEnabled) ∧
      (getToken s core slot = none → exec (.tokenStart core slot) s = .fault .notEnabled ∧
        exec (.kBlockEnd core slot) s = .fault .notEnabled ∧ exec (.sectorAcknowledged core slot i j) s = .fault .notEnabled ∧
        exec (.collChunkEnd core slot []) s = .fault .notEnabled ∧ exec (.shuffleSendPhase core slot) s = .fault .notEnabled) ∧
      ((getPrism s slot).segs = [] → exec (.prismGroupTimeout slot) s = .fault .notEnabled)))

/-- O57. The scheduler's and the clock's events: a round begins, a team is placed or comes back where its context is next and has
credit, a starved context asks for a core, a late save is forced, a barrier's watchdog ends a wait, a revoke's deadline passes, a queue
is read, and a cycle ends, which adds one to the cycles and 1,000 / fclk to the nanoseconds (R178, R229, R242, R315 to R325, R349). -/
def Obligations.SchedulerEvents : Prop :=
  ∀ s : State,
    let s1 := syncRing s
    let turn := fun (a : Nat) => hasCredit s1 a = true ∧ servedFirst s1 a = true
    Happens .schedulerRound s (roundMembers s1 ≠ []) (beginRound s1) ∧
    (∀ (g : Nat) (x : Grid) (c : Ctx), getGrid s1 g = some x → getCtx s1 x.asid = some c →
      Happens (.teamPlacement g) s
        ((∃ y, nextOf s1 x.asid = some (.fresh y) ∧ y.uid = g) ∧ turn c.asid ∧ spotFree s1 (freshCore s1 x) = true)
        (placeFresh (roomFor (turnRing s1 c.asid) (.fresh x)) c x)) ∧
    (∀ (u : Nat) (t : Team), getTeam s1 u = some t →
      Happens (.teamRestore u) s
        ((∃ y, nextOf s1 t.asid = some (.back y) ∧ y.uid = u) ∧ turn t.asid ∧ spotFree s1 (backCore s1 t) = true)
        (placeBack (roomFor (turnRing s1 t.asid) (.back t)) t)) ∧
    (∀ (st : State) (t : Team) (core : Nat) (pos : List (Nat × Nat × Nat)) (runs : List Nat), t.range = none →
      backCore st t = some (.here core pos runs) → placeBack st t =
        modCtx (restoreOn (sendLeaf st core) t core pos runs) t.asid (fun c => { c with starve := 0 })) ∧
    (∀ (a : Nat) (c : Ctx) (x : Int × Nat × Nat) (r : List (Int × Nat × Nat)), getCtx s a = some c → starvers s a = x :: r →
      (ctxActive s c = false ∨ c.starve < starveLimit → exec (.starvationPreemption a) s = .fault .notEnabled) ∧
      (ctxActive s c = true → starveLimit ≤ c.starve → (∃ y ∈ starvers s a, y.1 = x.1 ∧ leafFree s y.2.1 = true) →
        ∃ y ∈ starvers s a, y.1 = x.1 ∧ leafFree s y.2.1 = true ∧ exec (.starvationPreemption a) s =
        .next (modCtx (requestPreempt (sendLeaf (nextFree s) y.2.1) y.2.1 y.2.2) a (fun k => { k with starve := 0 })))) ∧
    (∀ (core a : Nat) (p : Preempt), (getCore s core).prq.find? (fun q => q.asid == a) = some p →
      Happens (.forcedSave core a) s (forceDue s core p = true)
        (preemptStep (postForced (modCore s core (fun c =>
            { c with prq := c.prq.map (fun q => if q.asid = a then { q with forced := true } else q) })) a
          (((teamsHere s core a).map (fun t => (t.threads.filter unsaved).length)).sum) core) core)) ∧
    (∀ (u tid : Nat) (t : Team) (th : Thread), getTeam s u = some t → getThread t tid = some th →
      Happens (.barrierStall u tid) s ((stallDue s t tid th).isSome = true)
        (trapAt s u tid { cause := .barrierStall, aux := (stallDue s t tid th).getD 0 + t.bwd.toNat * 2 ^ 32 })) ∧
    (∀ (a : Nat) (c : Ctx), (revokeTops s).find? (fun x => x.asid == a) = some c →
      Happens (.revokeDrainDeadline a) s (drainDue s c = true) (advanceRevoke s c true)) ∧
    (∀ (a q : Nat) (c : Ctx), getCtx s a = some c →
      (readable s c q = false ∨ hubAsks s a = true → exec (.queueRead a q) s = .fault .notEnabled) ∧
      (readable s c q = true → hubAsks s a = false → ∀ x s2, qcbAddr s c q = (.ok x, s2) →
        exec (.queueRead a q) s = .next (if x = 0 then readOver s2 a q else consume a q x (2 ^ 20 + 1) s2)) ∧
      (readable s c q = true → hubAsks s a = false → ∀ e s2, qcbAddr s c q = (.error e, s2) → exec (.queueRead a q) s =
        .next (if (gotStop s2 a e).1 then (gotStop s2 a e).2 else malformed (gotStop s2 a e).2 a q 0 0))) ∧
    exec .cycleCharge s = .next { returnPermits (cycleEnd s) with part := 0 } ∧
    (tickTime s).cycle = s.cycle + 1 ∧ (tickTime s).nsRest < max 1 s.care.fclk ∧
    (tickTime s).ns * max 1 s.care.fclk + (tickTime s).nsRest = s.ns * max 1 s.care.fclk + s.nsRest + 1000

/-! ## Events of the fabric, the host and the module -/

/-- O58. The fabric's events: a flit is accepted in its order, and otherwise replay is asked for, which after eight failures gives the
link up; a packet that has arrived is dropped, forwarded or served at its home, a request of a stream and SEQ once; a reply of a packet
within the chip is taken from where it stands; the timeouts (R354 to R375, R396 to R398). -/
def Obligations.FabricEvents : Prop :=
  ∀ s : State,
    (∀ (port : Nat) (f : Flit) (lp : LinkPort), getPort s port = some lp →
      let ok := lp.up = true ∧ lp.disabled = false
      let lp1 : LinkPort := { takeFraming lp f with rxNext := lp.rxNext + 1, fails := 0, askReplay := false }
      let again := f.crcOk = false ∧ lp.askReplay = true ∧ f.seq = lp.rxNext
      let s1 := movePrism (pump (serveReplay s lp1 f) port) port
      (¬ ok → exec (.flitReceive port f) s = .fault .notEnabled) ∧
      (ok → f.crcOk = false ∨ f.seq ≠ lp.rxNext → ¬ again → exec (.flitReceive port f) s = .next (setPort s { lp with askReplay := true })) ∧
      (ok → again → exec (.flitReceive port f) s = .next (
        if lp.fails + 1 ≥ 8 then lostLink (setPort s { lp with askReplay := true, fails := lp.fails + 1 }) port
        else setPort s { lp with askReplay := true, fails := lp.fails + 1 })) ∧
      (ok → f.crcOk = true → f.seq = lp.rxNext → f.pkt = none → exec (.flitReceive port f) s = .next s1) ∧
      (∀ p, ok → f.crcOk = true → f.seq = lp.rxNext → f.pkt = some p → headerOk p = false →
        exec (.flitReceive port f) s = .next (dropHeader s1 port lp.peer p)) ∧
      (∀ p, ok → f.crcOk = true → f.seq = lp.rxNext → f.pkt = some p → headerOk p = true →
        exec (.flitReceive port f) s = .next (intoPool s1 port p)) ∧
      (∀ (st : State) (p : Packet) (x : LinkPort), getPort st port = some x → (port, p) ∈ (intoPool st port p).fab.arrived)) ∧
    (∀ (port : Nat) (lp : LinkPort), getPort s port = some lp →
      Happens (.lossOfLock port) s (lp.up = true) (lostLink s port) ∧
      (∀ peer, Happens (.linkRetrain port peer) s (lp.up = false) (if lp.peer = peer
        then retrainLink (setPort s { lp with disabled := false }) port peer
        else linkNotice (setPort s { lp with disabled := true }) 6 port peer none))) ∧
    (∀ (port : Nat) (p : Packet),
      let good := fun (kind : Nat) => (getPort s port).isSome = true ∧ p.kind.toNat = kind ∧ p.len.toNat = p.data.length ∧
        p.len.toNat ≤ 256 ∧ headerOk p = true
      let s1 := leavePool s port p
      let arrives := fun (i : Instr) (kind : Nat) (here : State → State) =>
        Happens i s (good kind) (if tagLive s1 p.ftag = false then dropReply s1 p
          else if p.dchip.toNat ≠ chipId s1 then
            (if p.rly = true then s1 else relayOn s1 p.score.toNat p.dchip.toNat p)
          else here s1)
      let local_ := fun (i : Instr) (kind : Nat) (work : State → State) =>
        Happens i s (p.kind.toNat = kind ∧ p ∈ s.fab.local_ ∧ rankWaits s p.dcore.toNat p = false)
          (if (kind = 7 ∨ kind = 8) ∧ rankPaused s p.dcore.toNat p = true then { s with fab := { s.fab with local_ := s.fab.local_.erase p } }
            else work { s with fab := { s.fab with local_ := s.fab.local_.erase p } })
      arrives (.wrPacket port p) 0 (serveRequest p 5 (writeHere p)) ∧
      arrives (.rdPacket port p) 1 (serveRequest p 2 (readHere p)) ∧
      arrives (.rrPacket port p) 2 (takeAnswer 1 p) ∧
      arrives (.atPacket port p) 3 (serveRequest p 4 (atomicHere p)) ∧
      arrives (.arPacket port p) 4 (takeAnswer 3 p) ∧
      arrives (.ackPacket port p) 5 (takeAck p) ∧
      arrives (.ctlPacket port p) 11 (fun st =>
        if p.data = [] then
          (if ∃ c, getCtx st (tagAsid p.ftag) = some c ∧ ownsQueue c p.addr.toNat = true then ringHere st (tagAsid p.ftag) p.addr.toNat []
            else st)
        else if p.data.head? = some placeCode ∧ p.data.length = 18 then placeHere st p
        else if p.data.head? = some endCode ∧ p.data.length = 18 then endedThere st p
        else { st with fab := { st.fab with commands := st.fab.commands ++ [p] } }) ∧
      (port < 15 →
        ((∃ k ∈ (pktComps p).map (·.dcore), Config.decodeSlots ≤ (getCore s k).decode.length) → p.dchip.toNat = chipId s →
          exec (.csbPacket port p) s = .fault .notEnabled) ∧
        ((∀ k ∈ (pktComps p).map (·.dcore), (getCore s k).decode.length < Config.decodeSlots) →
          arrives (.csbPacket port p) 6 (fun st => intoCores st ((pktComps p).map (·.dcore)) p)) ∧
        arrives (.usbPacket port p) 7 (fun st => farSegment st p) ∧
        arrives (.rsdPacket port p) 8 (fun st => if rankPaused st p.dcore.toNat p = true then st else serveResend st p) ∧
        arrives (.havePacket port p) 9 (fun st => takeHave st p) ∧
        arrives (.sackPacket port p) 10 (fun st => takeSack st p)) ∧
      (15 ≤ port →
        Happens (.csbPacket port p) s (p ∈ (getCore s (port - 256)).decode ∧ rankWaits s (port - 256) p = false)
          (decodeSlot s (port - 256) p) ∧
        local_ (.usbPacket port p) 7 (fun st => uncodedSegment st p) ∧
        local_ (.rsdPacket port p) 8 (fun st => serveResend st p) ∧
        local_ (.havePacket port p) 9 (fun st => takeHave st p) ∧
        local_ (.sackPacket port p) 10 (fun st => takeSack st p))) ∧
    (∀ (p r : Packet) (kind : Nat) (work : State → List Byte × State), performedBefore s p = some r →
      serveRequest p kind work s = sendToward s p.dcore.toNat p.schip.toNat r) ∧
    (∀ core seq : Nat,
      let dead := (getCore s core).outst.find? (fun x => x.dead && x.seq.toNat == seq && decide (s.ns ≥ x.since + oneMs))
      (dead = none → exec (.replyReservationTimeout core seq) s = .fault .notEnabled) ∧
      (∀ x, dead = some x → exec (.replyReservationTimeout core seq) s =
        .next (setCore s { getCore s core with outst := (getCore s core).outst.erase x }))) ∧
    (∀ peer : Nat,
      let held := (s.cores.filter (fun c => c.outst.any (heldTooLong s c.id peer))).map (·.id)
      Happens (.pathHoldTimeout peer) s (held ≠ [] ∨ ∃ t ∈ s.teams, ∃ th ∈ t.threads, waitedTooLong s t peer th = true)
        (held.foldl (fun st c => giveUpCore st peer c) { s with teams := s.teams.map (fun t =>
          { t with threads := t.threads.map (fun th => if waitedTooLong s t peer th then markLost th else th) }) }))

/-- O59. The host's events: a doorbell rings a queue that its function's context holds; translation completions, page answers and
invalidations; an answer to a notice; the stage-0 invalidation; the notice rings; a function's reset; the host's own accesses; the
semaphores, whose owner alone releases one or writes under one (R389 to R404, R409). -/
def Obligations.HostEvents : Prop :=
  ∀ s : State,
    (∀ (fn : Nat) (data : W32), exec (.dbell fn data) s = .next (match functionContext s fn with
      | none => s
      | some c => if ownsQueue c (data.toNat % 2 ^ 16) then ringQueue s c.asid (data.toNat % 2 ^ 16) [] else s)) ∧
    (∀ (rq : AtsReq) (rd wr : Bool),
      let asked := fun (m : HostMsg) => match m with
        | .atsRequest q _ => q == rq
        | _ => false
      let s1 := setAts s ((rq, rd, wr) :: s.host.ats.filter (fun e => e.1 != rq))
      Happens (.atsTranslationCompletion rq rd wr) s (s.host.out.any asked = true)
        { s1 with host := { s1.host with out := s1.host.out.filter (fun m => !asked m) } }) ∧
    (∀ (fn index : Nat) (code : PrgCode),
      let mine := fun (g : Prg) => g.fn == fn && g.index == index && g.sent
      let rest := ({ s with host := { s.host with prgs := s.host.prgs.filter (fun x => !(x.fn == fn && x.index == index)) } } : State)
      (s.host.prgs.find? mine = none → exec (.pageRequestResponse fn index code) s = .next s) ∧
      (∀ g, s.host.prgs.find? mine = some g → exec (.pageRequestResponse fn index code) s =
        .next (sendGroup (if code = .success then pageServed rest g.asid g.rq else pageFailed rest g.asid g.rq) fn))) ∧
    (∀ (rq : AtsReq) (pages : Nat),
      let s1 := setAts s (s.host.ats.filter (fun e =>
        !(e.1.fn == rq.fn && e.1.pasid == rq.pasid && decide (rq.page ≤ e.1.page ∧ e.1.page < rq.page + pages))))
      exec (.atsInvalidateRequest rq pages) s =
        .next (invalidateStep { s1 with host := { s1.host with invs := s1.host.invs ++ [(rq, pages)] } } (rq, pages))) ∧
    (∀ (port : Port) (data : W64),
      let id : W32 := data.setWidth 32
      let action := bitsAt data.toNat 33 32
      let asked := s.host.asked.find? (fun q => q.id == id)
      (asked = none ∨ action = 3 → exec (.nresp port data) s = .next s) ∧
      (∀ q, asked = some q → action ≠ 3 → exec (.nresp port data) s = .next (answer
        { s with host := { s.host with asked := s.host.asked.filter (fun x => x.id != id) } } q.about (.notice id) id action q.addr 0 q.wr).2)) ∧
    (∀ (port : Port) (data : W32),
      (data.getLsbD 0 = false ∨ s.host.s0invl = 0 → exec (.s0invgo port data) s = .next s) ∧
      (data.getLsbD 0 = true → s.host.s0invl ≠ 0 → exec (.s0invgo port data) s = .next (s0Sweep
        (invalidate { s with host := { s.host with s0invgo := true } } (rootAsid s) s.host.s0inva.toNat s.host.s0invl.toNat)))) ∧
    (∀ (port : Port) (data : W32),
      let log := bitsAt data.toNat 4 0
      let on := data.getLsbD 31 = true ∧ 7 ≤ log ∧ log ≤ 16
      let r := portRegs s port
      (on → exec (.nrctl port data) s =
        .next (flushWaiting r.waiting.length (setPortRegs s port { r with en := true, log := log, lost := 0 }) port)) ∧
      (¬ on → exec (.nrctl port data) s = .next (setPortRegs s port { r with en := false, log := log, lost := 0 })) ∧
      exec (.noticeRingTail port data) s = .next (if r.en = true
        then flushWaiting r.waiting.length (setPortRegs s port { r with tail := data }) port else setPortRegs s port { r with tail := data })) ∧
    (∀ vf : Nat,
      (vf = 0 ∨ functionContext s vf = none → exec (.functionLevelReset vf) s = .next s) ∧
      (∀ c, vf ≠ 0 → functionContext s vf = some c → exec (.functionLevelReset vf) s =
        .next (beginRevoke (modCtx s c.asid (fun x => { x with cxr := { x.cxr with vf := 0 } })) c.asid))) ∧
    (∀ (pa len core off : Nat) (data : List Byte) (v : W64),
      Happens (.hostMemoryAccess (.read pa len)) s (len ≠ 0 ∧ hostReach s pa len = true) (hostRead s (hostKeys s pa len) pa) ∧
      Happens (.hostMemoryAccess (.write pa data)) s (data ≠ [] ∧ hostReach s pa data.length = true) (hostPutAll (hostKeys s pa data.length) data s) ∧
      Happens (.hostMemoryAccess (.readSlice core off len)) s (len ≠ 0 ∧ sliceReach core off len = true)
        (hostRead s [(sliceKey core off, len)] 0) ∧
      Happens (.hostMemoryAccess (.writeSlice core off data)) s (data ≠ [] ∧ sliceReach core off data.length = true)
        (hostPut s (sliceKey core off) data) ∧
      Happens (.hostMemoryAccess (.fetchAdd pa v)) s (pa % 8 = 0 ∧ hostReach s pa 8 = true)
        (let key := frameKey s pa
         if poisoned s key 8 = true then sendHost s (.poisoned pa)
          else sendHost (hostPut s key (natBytes 8 ((bytesNat (readKey s key 8) + v.toNat) % 2 ^ 64))) (.readData (readKey s key 8))) ∧
      (s.mirrors = [] → frameKey s pa = pa)) ∧
    (∀ (port : Port) (n lease : Nat),
      let ms := min (lease % 2 ^ 20) 1000000
      let until_ := if ms = 0 then 0 else s.ns + ms * 1000000
      Happens (.semaphoreTake port n lease) s (n < 32)
        (if semOwner s n = none ∨ semOwner s n = some port then setSem s n (some (port, until_)) else s) ∧
      Happens (.semaphoreRelease port n) s (n < 32) (if semOwner s n = some port then setSem s n none else s) ∧
      (∀ q, s.host.sems.find? (fun p => p.1 == n) = some q →
        Happens (.semaphoreLeaseExpiry n) s (q.2.2 ≠ 0 ∧ q.2.2 ≤ s.ns) (setSem s n none)) ∧
      (s.host.sems.find? (fun p => p.1 == n) = none → exec (.semaphoreLeaseExpiry n) s = .fault .notEnabled)) ∧
    (∀ (port : Port) (obj : FlashObj) (off : Nat) (data : List Byte),
      (semOwner s 0 ≠ some port → exec (.flashWindowWrite port obj off data) s = .next s) ∧
      (semOwner s 0 = some port → exec (.flashWindowWrite port obj off data) s = .next { s with care := match obj with
        | .firmware => { s.care with firmware := flashBytes s.care.firmware off data }
        | .owner => { s.care with owner := flashBytes s.care.owner off data }
        | .config => { s.care with record := flashBytes s.care.record off data } })) ∧
    (∀ (port : Port) (data : W64),
      let wr := fun (off : Nat) (t : State) => exec (.registerWrite port off data) s = .next t
      let mine := semOwner s 1 = some port
      wr 0x100 (setPortRegs s port { portRegs s port with nrbase := data }) ∧
      wr 0x120 { s with host := { s.host with s0inva := data } } ∧
      wr 0x128 { s with host := { s.host with s0invl := data } } ∧
      wr 0x300 { s with host := { s.host with easid := data.setWidth 14 } } ∧
      (mine → wr 0x218 { s with care := { s.care with ckBase := data } }) ∧ (¬ mine → wr 0x218 s ∧ wr 0x210 s) ∧
      (mine → s.care.ckSt ≠ 1 → data.getLsbD 31 = false → wr 0x210 { s with care :=
        { s.care with ckOp := BitVec.ofNat 2 (bitsAt data.toNat 30 29), ckScope := data.getLsbD 28 } }) ∧
      (s.care.ckSt = 1 ∨ data.getLsbD 31 = true → wr 0x210 s) ∧
      (∀ off, off ∉ [0x100, 0x120, 0x128, 0x300, 0x210, 0x218] → off < 0x10000 ∨ 0x30000 ≤ off →
        wr off (match rootWordAt off with
          | some i => writeRootWord s i data
          | none => s)) ∧
      (∀ off, off < 0x500 → rootWordAt off = none) ∧
      (∀ core n w, core < 128 → n < 16 → w < 0x40 → wr (0x10000 + 0x400 * core + 0x40 * n + w)
        (if Config.comparators ≤ n then s else modCore s core (fun c =>
          { c with retic := putKey c.retic n (writeComparator ((getKey c.retic n).getD {}) w data) }))) ∧
      (let rd := readRegister s port
       rd 0x100 = (portRegs s port).nrbase ∧ rd 0x120 = s.host.s0inva ∧ rd 0x130 = BitVec.ofNat 64 s.host.s0invgo.toNat ∧ rd 0x208 = 0 ∧
       rd 0x218 = s.care.ckBase ∧ rd 0x308 = energyWord s s.host.easid.toNat ∧
       (∀ n, n < 32 → rd (0x400 + 8 * n) = readSemaphore s n ∧ (readSemaphore s n).getLsbD 31 = false ∧
         ((readSemaphore s n).extractLsb' 32 2).toNat = (match semOwner s n with
           | none => 0
           | some .a => 1
           | some .b => 2)) ∧
       (∀ c : Comparator, ((readComparator c 8).extractLsb' 14 7).toNat = 0 ∧ (writeComparator c 0 data).caddr = data ∧
         readComparator (writeComparator c 8 data) 8 = data &&& 0xFFE03FFF)) ∧
      (∀ vf : Nat, readVf s vf 8 = 0 ∧ (functionContext s vf = none → readVf s vf 0 = 0)))

/-- O60. The module's events: starts, hangs and resets with ATT, LAST and SRCE as they leave them, checkpoints under semaphore 1, the
attestation messages, the power and temperature intervals, a thermal trip, lost power, lost tiers, and errors that a scrub finds
(R395, R405 to R411, R416, R418; the messages' own codes are log 9's choice). -/
def Obligations.ModuleEvents : Prop :=
  ∀ s : State,
    let may := s.care.phase = .off ∨ s.care.phase = .resetting
    let att := fun (st : State) => st.care.att
    (∀ r : StartInput,
      let c1 : Care := { s.care with att := s.care.att + 1 }
      (¬ may → exec (.start r) s = .fault .notEnabled) ∧
      (may → 3 ≤ s.care.att → exec (.start r) s = .next (startPinhole s) ∧ (startPinhole s).care.phase = .pinhole) ∧
      (∀ cause, may → s.care.att < 3 → startFault c1 r = some cause →
        ∃ t, exec (.start r) s = .next t ∧ t.care.phase = .resetting ∧ att t = s.care.att + 1 ∧ t.care.last = cause ∧
          t.care.srce = s.care.srce ∧ t.teams = [] ∧ t.ctxs = []) ∧
      (may → s.care.att < 3 → startFault c1 r = none →
        exec (.start r) s = .next (startUp { s with care := c1 } r) ∧ att (startUp { s with care := c1 } r) = 0)) ∧
    Happens .wdog s (may ∧ s.care.att < 3)
      (moduleReset { s with care := { s.care with att := s.care.att + 1, last := 7 } } s.care.srce) ∧
    (∀ port : Port, exec (.bootctlClr port) s = .next { s with care := { s.care with att := 0, last := 0 } } ∧
      exec (.bootctlRst port false) s = .next (moduleReset s (if port = .a then 1 else 2)) ∧
      exec (.bootctlRst port true) s = .next (moduleReset s (if s.host.tieLost = .a then 1 else 2))) ∧
    Happens .pcieFundamentalReset s (s.care.phase ≠ .off) (moduleReset s 3) ∧
    Happens .sidebandReset s (s.care.phase ≠ .off) (moduleReset s 4) ∧
    (∀ n : Nat, (moduleReset s n).care.phase = .resetting ∧ (moduleReset s n).care.srce = n ∧ att (moduleReset s n) = s.care.att ∧
      (moduleReset s n).teams = [] ∧ (moduleReset s n).ctxs = [] ∧ (moduleReset s n).host.sems = []) ∧
    exec .standbyPowerRemoval s = .next (powerOff s false) ∧ (∀ b : Bool, exec (.powerLoss b) s = .next (powerOff s b)) ∧
    (∀ b : Bool, (powerOff s b).care.phase = .off ∧ att (powerOff s b) = if b then s.care.att else 0) ∧
    Happens .thermalTrip s (s.care.phase ≠ .off)
      { powerOff s true with care := { (powerOff s true).care with srce := 5, last := 6 } } ∧
    (∀ watts celsius : Nat,
      let lim := plimOf s
      (s.care.phase ≠ .running → exec (.powerLimitInterval watts celsius) s = .fault .notEnabled) ∧
      (s.care.phase = .running → ∃ t, exec (.powerLimitInterval watts celsius) s = .next t ∧ t = { s with care := t.care } ∧
        t.care.pwr = watts ∧ t.care.tj = celsius ∧
        (lim < watts ∨ 100 < celsius → t.care.fclk = max 1000 (s.care.fclk - 100)) ∧
        (watts ≤ lim → celsius ≤ 100 → 100 * watts < 95 * lim → t.care.fclk = min 2700 (s.care.fclk + 100)) ∧
        (watts ≤ lim → celsius ≤ 100 → 95 * lim ≤ 100 * watts → t.care.fclk = s.care.fclk) ∧
        (t.care.thr.getLsbD 1 = true ↔ 100 < celsius) ∧ (lim < watts → t.care.thr.getLsbD 0 = true))) ∧
    (∀ (port : Port) (data : W32),
      let asks := fun (op : Nat) => data.getLsbD 31 = true ∧ bitsAt data.toNat 30 29 = op ∧ (s.care.phase = .running ∨ s.care.phase = .pinhole)
      let free := semOwner s 1 = some port ∧ s.care.ckSt ≠ 1
      let begun := fun (op : Nat) => ({ s with care := { s.care with
        ckGo := true, ckOp := BitVec.ofNat 2 op, ckScope := data.getLsbD 28, ckSt := 1, ckDone := 0, ckCause := 0, ckAt := s.care.ckBase } }
        : State)
      Happens (.checkpointSave port data) s (asks 0) (if free then
        (if tierThere (begun 0) (begun 0).care.ckScope
          then checkpointStep (freezeAll (eraseImage (begun 0) (begun 0).care.ckScope (begun 0).care.ckAt)) else endCheckpoint (begun 0) 3 1) else s) ∧
      Happens (.checkpointRestore port data) s (asks 1) (if free then
        (if tierUp (begun 1) (begun 1).care.ckScope = false then endCheckpoint (begun 1) 3 1
          else if findCheckpoint (begun 1) = none then endCheckpoint (begun 1) 3 2 else checkpointStep (freezeAll (begun 1))) else s) ∧
      Happens (.checkpointThaw port data) s (asks 2) (if free then
        endCheckpoint { begun 2 with ctxs := s.ctxs.map (fun c => { c with freezes := c.freezes.filter (· != moduleIssuer) }) } 2 0 else s)) ∧
    (∀ (x : Bool) (n : Nat),
      let lost := if (x, n) ∈ s.care.lostTier then s.care.lostTier else (x, n) :: s.care.lostTier
      let s1 : State := { s with care := { s.care with lostTier := lost } }
      Happens (.tierPortLost x n) s (n < if x then 4 else 6)
        (if s.care.ckSt = 1 ∧ s.care.ckScope = x then endCheckpoint s1 3 0xFF else s1)) ∧
    (∀ (port : Port) (sig hash slot off len index : Nat) (nonce : List Byte),
      let up := s.care.phase = .running ∨ s.care.phase = .pinhole
      let tells := fun (i : Instr) (st : State) (asked body : List Byte) =>
        Happens i s up (sendHost st (.spdm port (body ++ edSign (aliasKey s) (asked ++ body))))
      let held := fun (body : List Byte) => if port ∈ s.care.spdm then body else spdmError 4
      let agreed := fun (l : List Port) => ({ s with care := { s.care with spdm := l } } : State)
      tells (.getVersion port) (agreed (s.care.spdm.filter (· != port))) [] [0x10, 0x04, 0, 0, 0, 1, 0x00, 0x13] ∧
      tells (.getCapabilities port) s [] (spdm 0x61 0 0 ([0, Config.spdmExponent, 0, 0, 0x16, 0, 0, 0]
        ++ natBytes 4 Config.spdmSize.toNat ++ natBytes 4 Config.spdmSize.toNat)) ∧
      (sig = 0 ∧ hash = 0 → tells (.negotiateAlgorithms port sig hash)
        (agreed (if port ∈ s.care.spdm then s.care.spdm else port :: s.care.spdm)) [] (algorithms true true)) ∧
      (¬ (sig = 0 ∧ hash = 0) → tells (.negotiateAlgorithms port sig hash) s [] (algorithms (sig == 0) (hash == 0))) ∧
      tells (.getDigests port) s [] (held (spdm 0x01 1 1 (digest (certChain s)))) ∧
      (slot ≠ 0 → tells (.getCertificate port slot off len) s [] (held (spdmError 1)) ∧
        tells (.challenge port slot nonce) (nextFree s) nonce (held (spdmError 1))) ∧
      (off < (certChain s).length → tells (.getCertificate port 0 off len) s [] (held (
        let part := ((certChain s).drop off).take len
        spdm 0x02 0 0 (natBytes 2 part.length ++ natBytes 2 ((certChain s).length - off - part.length) ++ part)))) ∧
      tells (.challenge port 0 nonce) (nextFree s) nonce (held (spdm 0x03 0 1 (digest (certChain s) ++ spdmNonce s ++ List.replicate 10 0))) ∧
      tells (.getMeasurements port index nonce) (nextFree s) nonce (held (measureBody s.care.measures index (spdmNonce s))) ∧
      (∀ v, 1 ≤ index → s.care.measures[index - 1]? = some v → index ≠ 0xFF → measureBody s.care.measures index (spdmNonce s) =
        spdm 0x60 0 0 ([1] ++ natBytes 3 (measureBlock index v).length ++ measureBlock index v ++ spdmNonce s ++ List.replicate 10 0))) ∧
    (∀ (pa core off : Nat),
      let spoiled := fun (l : Nat) => ({ s with poison := if l ∈ s.poison then s.poison else l :: s.poison } : State)
      let owner := grantHolder s core (off / 65536)
      (∀ at_ : ErrPlace, exec (.scrub at_ false) s = .next s) ∧
      exec (.scrub (.cleanLine pa) true) s = .next s ∧
      Happens (.scrub (.line pa) true) s (hostReach s pa 1 = true)
        (containOwner (spoiled (pa / 128)) (ownerOf s (pa / 128)) (pa / 128 * 128 + ownerOf s (pa / 128) * 2 ^ 52) (paCore pa)) ∧
      Happens (.scrub (.slice core off) true) s (sliceReach core off 1 = true)
        (containOwner (spoiled (sliceKey core off / 128)) owner (owner * 2 ^ 52 + 2 ^ 66) core) ∧
      exec (.scrub (.regfile core) true) s = .next (arrayError s core 2) ∧ exec (.scrub (.accum core) true) s = .next (arrayError s core 3))
end

