-- ==== Sys2Proof/Laws/State.lean ====
section
/-! SUPPORT. One lemma per field of State per update, and the same for the updates of a thread and a team, all by `rfl`, so that
no proof unfolds a record update. -/

namespace Sys2Proof.Machine

open Sys2Proof

/-! ## setTeam -/

@[simp] theorem setTeam_mem (s : State) (t : Team) : (setTeam s t).mem = s.mem := rfl
@[simp] theorem setTeam_cores (s : State) (t : Team) : (setTeam s t).cores = s.cores := rfl
@[simp] theorem setTeam_teams (s : State) (t : Team) : (setTeam s t).teams = replaceIf (fun x => x.uid == t.uid) t s.teams := rfl
@[simp] theorem setTeam_ctxs (s : State) (t : Team) : (setTeam s t).ctxs = s.ctxs := rfl
@[simp] theorem setTeam_asidGen (s : State) (t : Team) : (setTeam s t).asidGen = s.asidGen := rfl
@[simp] theorem setTeam_grids (s : State) (t : Team) : (setTeam s t).grids = s.grids := rfl
@[simp] theorem setTeam_coll (s : State) (t : Team) : (setTeam s t).coll = s.coll := rfl
@[simp] theorem setTeam_granules (s : State) (t : Team) : (setTeam s t).granules = s.granules := rfl
@[simp] theorem setTeam_carry (s : State) (t : Team) : (setTeam s t).carry = s.carry := rfl
@[simp] theorem setTeam_mirrors (s : State) (t : Team) : (setTeam s t).mirrors = s.mirrors := rfl
@[simp] theorem setTeam_pool (s : State) (t : Team) : (setTeam s t).pool = s.pool := rfl
@[simp] theorem setTeam_poison (s : State) (t : Team) : (setTeam s t).poison = s.poison := rfl
@[simp] theorem setTeam_owners (s : State) (t : Team) : (setTeam s t).owners = s.owners := rfl
@[simp] theorem setTeam_fab (s : State) (t : Team) : (setTeam s t).fab = s.fab := rfl
@[simp] theorem setTeam_host (s : State) (t : Team) : (setTeam s t).host = s.host := rfl
@[simp] theorem setTeam_care (s : State) (t : Team) : (setTeam s t).care = s.care := rfl
@[simp] theorem setTeam_sched (s : State) (t : Team) : (setTeam s t).sched = s.sched := rfl
@[simp] theorem setTeam_cycle (s : State) (t : Team) : (setTeam s t).cycle = s.cycle := rfl
@[simp] theorem setTeam_ns (s : State) (t : Team) : (setTeam s t).ns = s.ns := rfl
@[simp] theorem setTeam_nsRest (s : State) (t : Team) : (setTeam s t).nsRest = s.nsRest := rfl
@[simp] theorem setTeam_nextUid (s : State) (t : Team) : (setTeam s t).nextUid = s.nextUid := rfl
@[simp] theorem setTeam_stamp (s : State) (t : Team) : (setTeam s t).stamp = s.stamp := rfl
@[simp] theorem setTeam_inputs (s : State) (t : Team) : (setTeam s t).inputs = s.inputs := rfl
@[simp] theorem setTeam_issue (s : State) (t : Team) : (setTeam s t).issue = s.issue := rfl
@[simp] theorem setTeam_part (s : State) (t : Team) : (setTeam s t).part = s.part := rfl
@[simp] theorem setTeam_setPc (s : State) (t : Team) : (setTeam s t).setPc = s.setPc := rfl
@[simp] theorem setTeam_ir (s : State) (t : Team) : (setTeam s t).ir = s.ir := rfl
@[simp] theorem setTeam_freeCtr (s : State) (t : Team) : (setTeam s t).freeCtr = s.freeCtr := rfl

/-! ## setCtx -/

@[simp] theorem setCtx_mem (s : State) (c : Ctx) : (setCtx s c).mem = s.mem := rfl
@[simp] theorem setCtx_cores (s : State) (c : Ctx) : (setCtx s c).cores = s.cores := rfl
@[simp] theorem setCtx_teams (s : State) (c : Ctx) : (setCtx s c).teams = s.teams := rfl
@[simp] theorem setCtx_ctxs (s : State) (c : Ctx) : (setCtx s c).ctxs = replaceIf (fun x => x.asid == c.asid) c s.ctxs := rfl
@[simp] theorem setCtx_asidGen (s : State) (c : Ctx) : (setCtx s c).asidGen = s.asidGen := rfl
@[simp] theorem setCtx_grids (s : State) (c : Ctx) : (setCtx s c).grids = s.grids := rfl
@[simp] theorem setCtx_coll (s : State) (c : Ctx) : (setCtx s c).coll = s.coll := rfl
@[simp] theorem setCtx_granules (s : State) (c : Ctx) : (setCtx s c).granules = s.granules := rfl
@[simp] theorem setCtx_carry (s : State) (c : Ctx) : (setCtx s c).carry = s.carry := rfl
@[simp] theorem setCtx_mirrors (s : State) (c : Ctx) : (setCtx s c).mirrors = s.mirrors := rfl
@[simp] theorem setCtx_pool (s : State) (c : Ctx) : (setCtx s c).pool = s.pool := rfl
@[simp] theorem setCtx_poison (s : State) (c : Ctx) : (setCtx s c).poison = s.poison := rfl
@[simp] theorem setCtx_owners (s : State) (c : Ctx) : (setCtx s c).owners = s.owners := rfl
@[simp] theorem setCtx_fab (s : State) (c : Ctx) : (setCtx s c).fab = s.fab := rfl
@[simp] theorem setCtx_host (s : State) (c : Ctx) : (setCtx s c).host = s.host := rfl
@[simp] theorem setCtx_care (s : State) (c : Ctx) : (setCtx s c).care = s.care := rfl
@[simp] theorem setCtx_sched (s : State) (c : Ctx) : (setCtx s c).sched = s.sched := rfl
@[simp] theorem setCtx_cycle (s : State) (c : Ctx) : (setCtx s c).cycle = s.cycle := rfl
@[simp] theorem setCtx_ns (s : State) (c : Ctx) : (setCtx s c).ns = s.ns := rfl
@[simp] theorem setCtx_nsRest (s : State) (c : Ctx) : (setCtx s c).nsRest = s.nsRest := rfl
@[simp] theorem setCtx_nextUid (s : State) (c : Ctx) : (setCtx s c).nextUid = s.nextUid := rfl
@[simp] theorem setCtx_stamp (s : State) (c : Ctx) : (setCtx s c).stamp = s.stamp := rfl
@[simp] theorem setCtx_inputs (s : State) (c : Ctx) : (setCtx s c).inputs = s.inputs := rfl
@[simp] theorem setCtx_issue (s : State) (c : Ctx) : (setCtx s c).issue = s.issue := rfl
@[simp] theorem setCtx_part (s : State) (c : Ctx) : (setCtx s c).part = s.part := rfl
@[simp] theorem setCtx_setPc (s : State) (c : Ctx) : (setCtx s c).setPc = s.setPc := rfl
@[simp] theorem setCtx_ir (s : State) (c : Ctx) : (setCtx s c).ir = s.ir := rfl
@[simp] theorem setCtx_freeCtr (s : State) (c : Ctx) : (setCtx s c).freeCtr = s.freeCtr := rfl

/-! ## setGrid -/

@[simp] theorem setGrid_mem (s : State) (g : Grid) : (setGrid s g).mem = s.mem := rfl
@[simp] theorem setGrid_cores (s : State) (g : Grid) : (setGrid s g).cores = s.cores := rfl
@[simp] theorem setGrid_teams (s : State) (g : Grid) : (setGrid s g).teams = s.teams := rfl
@[simp] theorem setGrid_ctxs (s : State) (g : Grid) : (setGrid s g).ctxs = s.ctxs := rfl
@[simp] theorem setGrid_asidGen (s : State) (g : Grid) : (setGrid s g).asidGen = s.asidGen := rfl
@[simp] theorem setGrid_grids (s : State) (g : Grid) : (setGrid s g).grids = replaceIf (fun x => x.uid == g.uid) g s.grids := rfl
@[simp] theorem setGrid_coll (s : State) (g : Grid) : (setGrid s g).coll = s.coll := rfl
@[simp] theorem setGrid_granules (s : State) (g : Grid) : (setGrid s g).granules = s.granules := rfl
@[simp] theorem setGrid_carry (s : State) (g : Grid) : (setGrid s g).carry = s.carry := rfl
@[simp] theorem setGrid_mirrors (s : State) (g : Grid) : (setGrid s g).mirrors = s.mirrors := rfl
@[simp] theorem setGrid_pool (s : State) (g : Grid) : (setGrid s g).pool = s.pool := rfl
@[simp] theorem setGrid_poison (s : State) (g : Grid) : (setGrid s g).poison = s.poison := rfl
@[simp] theorem setGrid_owners (s : State) (g : Grid) : (setGrid s g).owners = s.owners := rfl
@[simp] theorem setGrid_fab (s : State) (g : Grid) : (setGrid s g).fab = s.fab := rfl
@[simp] theorem setGrid_host (s : State) (g : Grid) : (setGrid s g).host = s.host := rfl
@[simp] theorem setGrid_care (s : State) (g : Grid) : (setGrid s g).care = s.care := rfl
@[simp] theorem setGrid_sched (s : State) (g : Grid) : (setGrid s g).sched = s.sched := rfl
@[simp] theorem setGrid_cycle (s : State) (g : Grid) : (setGrid s g).cycle = s.cycle := rfl
@[simp] theorem setGrid_ns (s : State) (g : Grid) : (setGrid s g).ns = s.ns := rfl
@[simp] theorem setGrid_nsRest (s : State) (g : Grid) : (setGrid s g).nsRest = s.nsRest := rfl
@[simp] theorem setGrid_nextUid (s : State) (g : Grid) : (setGrid s g).nextUid = s.nextUid := rfl
@[simp] theorem setGrid_stamp (s : State) (g : Grid) : (setGrid s g).stamp = s.stamp := rfl
@[simp] theorem setGrid_inputs (s : State) (g : Grid) : (setGrid s g).inputs = s.inputs := rfl
@[simp] theorem setGrid_issue (s : State) (g : Grid) : (setGrid s g).issue = s.issue := rfl
@[simp] theorem setGrid_part (s : State) (g : Grid) : (setGrid s g).part = s.part := rfl
@[simp] theorem setGrid_setPc (s : State) (g : Grid) : (setGrid s g).setPc = s.setPc := rfl
@[simp] theorem setGrid_ir (s : State) (g : Grid) : (setGrid s g).ir = s.ir := rfl
@[simp] theorem setGrid_freeCtr (s : State) (g : Grid) : (setGrid s g).freeCtr = s.freeCtr := rfl

/-! ## setCore -/

@[simp] theorem setCore_mem (s : State) (c : CoreSt) : (setCore s c).mem = s.mem := rfl
@[simp] theorem setCore_cores (s : State) (c : CoreSt) : (setCore s c).cores = upsert (fun x => x.id == c.id) c s.cores := rfl
@[simp] theorem setCore_teams (s : State) (c : CoreSt) : (setCore s c).teams = s.teams := rfl
@[simp] theorem setCore_ctxs (s : State) (c : CoreSt) : (setCore s c).ctxs = s.ctxs := rfl
@[simp] theorem setCore_asidGen (s : State) (c : CoreSt) : (setCore s c).asidGen = s.asidGen := rfl
@[simp] theorem setCore_grids (s : State) (c : CoreSt) : (setCore s c).grids = s.grids := rfl
@[simp] theorem setCore_coll (s : State) (c : CoreSt) : (setCore s c).coll = s.coll := rfl
@[simp] theorem setCore_granules (s : State) (c : CoreSt) : (setCore s c).granules = s.granules := rfl
@[simp] theorem setCore_carry (s : State) (c : CoreSt) : (setCore s c).carry = s.carry := rfl
@[simp] theorem setCore_mirrors (s : State) (c : CoreSt) : (setCore s c).mirrors = s.mirrors := rfl
@[simp] theorem setCore_pool (s : State) (c : CoreSt) : (setCore s c).pool = s.pool := rfl
@[simp] theorem setCore_poison (s : State) (c : CoreSt) : (setCore s c).poison = s.poison := rfl
@[simp] theorem setCore_owners (s : State) (c : CoreSt) : (setCore s c).owners = s.owners := rfl
@[simp] theorem setCore_fab (s : State) (c : CoreSt) : (setCore s c).fab = s.fab := rfl
@[simp] theorem setCore_host (s : State) (c : CoreSt) : (setCore s c).host = s.host := rfl
@[simp] theorem setCore_care (s : State) (c : CoreSt) : (setCore s c).care = s.care := rfl
@[simp] theorem setCore_sched (s : State) (c : CoreSt) : (setCore s c).sched = s.sched := rfl
@[simp] theorem setCore_cycle (s : State) (c : CoreSt) : (setCore s c).cycle = s.cycle := rfl
@[simp] theorem setCore_ns (s : State) (c : CoreSt) : (setCore s c).ns = s.ns := rfl
@[simp] theorem setCore_nsRest (s : State) (c : CoreSt) : (setCore s c).nsRest = s.nsRest := rfl
@[simp] theorem setCore_nextUid (s : State) (c : CoreSt) : (setCore s c).nextUid = s.nextUid := rfl
@[simp] theorem setCore_stamp (s : State) (c : CoreSt) : (setCore s c).stamp = s.stamp := rfl
@[simp] theorem setCore_inputs (s : State) (c : CoreSt) : (setCore s c).inputs = s.inputs := rfl
@[simp] theorem setCore_issue (s : State) (c : CoreSt) : (setCore s c).issue = s.issue := rfl
@[simp] theorem setCore_part (s : State) (c : CoreSt) : (setCore s c).part = s.part := rfl
@[simp] theorem setCore_setPc (s : State) (c : CoreSt) : (setCore s c).setPc = s.setPc := rfl
@[simp] theorem setCore_ir (s : State) (c : CoreSt) : (setCore s c).ir = s.ir := rfl
@[simp] theorem setCore_freeCtr (s : State) (c : CoreSt) : (setCore s c).freeCtr = s.freeCtr := rfl

/-! ## writeKey -/

@[simp] theorem writeKey_mem (s : State) (k : Nat) (bs : List Byte) : (writeKey s k bs).mem = memWrite s.mem k bs := rfl
@[simp] theorem writeKey_cores (s : State) (k : Nat) (bs : List Byte) : (writeKey s k bs).cores = s.cores := rfl
@[simp] theorem writeKey_teams (s : State) (k : Nat) (bs : List Byte) : (writeKey s k bs).teams = s.teams := rfl
@[simp] theorem writeKey_ctxs (s : State) (k : Nat) (bs : List Byte) : (writeKey s k bs).ctxs = s.ctxs := rfl
@[simp] theorem writeKey_asidGen (s : State) (k : Nat) (bs : List Byte) : (writeKey s k bs).asidGen = s.asidGen := rfl
@[simp] theorem writeKey_grids (s : State) (k : Nat) (bs : List Byte) : (writeKey s k bs).grids = s.grids := rfl
@[simp] theorem writeKey_coll (s : State) (k : Nat) (bs : List Byte) : (writeKey s k bs).coll = s.coll := rfl
@[simp] theorem writeKey_granules (s : State) (k : Nat) (bs : List Byte) : (writeKey s k bs).granules = s.granules := rfl
@[simp] theorem writeKey_carry (s : State) (k : Nat) (bs : List Byte) : (writeKey s k bs).carry = s.carry := rfl
@[simp] theorem writeKey_mirrors (s : State) (k : Nat) (bs : List Byte) : (writeKey s k bs).mirrors = s.mirrors := rfl
@[simp] theorem writeKey_pool (s : State) (k : Nat) (bs : List Byte) : (writeKey s k bs).pool = s.pool := rfl
@[simp] theorem writeKey_poison (s : State) (k : Nat) (bs : List Byte) : (writeKey s k bs).poison = s.poison := rfl
@[simp] theorem writeKey_owners (s : State) (k : Nat) (bs : List Byte) : (writeKey s k bs).owners = s.owners := rfl
@[simp] theorem writeKey_fab (s : State) (k : Nat) (bs : List Byte) : (writeKey s k bs).fab = s.fab := rfl
@[simp] theorem writeKey_host (s : State) (k : Nat) (bs : List Byte) : (writeKey s k bs).host = s.host := rfl
@[simp] theorem writeKey_care (s : State) (k : Nat) (bs : List Byte) : (writeKey s k bs).care = s.care := rfl
@[simp] theorem writeKey_sched (s : State) (k : Nat) (bs : List Byte) : (writeKey s k bs).sched = s.sched := rfl
@[simp] theorem writeKey_cycle (s : State) (k : Nat) (bs : List Byte) : (writeKey s k bs).cycle = s.cycle := rfl
@[simp] theorem writeKey_ns (s : State) (k : Nat) (bs : List Byte) : (writeKey s k bs).ns = s.ns := rfl
@[simp] theorem writeKey_nsRest (s : State) (k : Nat) (bs : List Byte) : (writeKey s k bs).nsRest = s.nsRest := rfl
@[simp] theorem writeKey_nextUid (s : State) (k : Nat) (bs : List Byte) : (writeKey s k bs).nextUid = s.nextUid := rfl
@[simp] theorem writeKey_stamp (s : State) (k : Nat) (bs : List Byte) : (writeKey s k bs).stamp = s.stamp := rfl
@[simp] theorem writeKey_inputs (s : State) (k : Nat) (bs : List Byte) : (writeKey s k bs).inputs = s.inputs := rfl
@[simp] theorem writeKey_issue (s : State) (k : Nat) (bs : List Byte) : (writeKey s k bs).issue = s.issue := rfl
@[simp] theorem writeKey_part (s : State) (k : Nat) (bs : List Byte) : (writeKey s k bs).part = s.part := rfl
@[simp] theorem writeKey_setPc (s : State) (k : Nat) (bs : List Byte) : (writeKey s k bs).setPc = s.setPc := rfl
@[simp] theorem writeKey_ir (s : State) (k : Nat) (bs : List Byte) : (writeKey s k bs).ir = s.ir := rfl
@[simp] theorem writeKey_freeCtr (s : State) (k : Nat) (bs : List Byte) : (writeKey s k bs).freeCtr = s.freeCtr := rfl

/-! ## putKeys -/

@[simp] theorem putKeys_mem (s : State) (ps : List (Nat × Byte)) : (putKeys s ps).mem = memPut s.mem ps := rfl
@[simp] theorem putKeys_cores (s : State) (ps : List (Nat × Byte)) : (putKeys s ps).cores = s.cores := rfl
@[simp] theorem putKeys_teams (s : State) (ps : List (Nat × Byte)) : (putKeys s ps).teams = s.teams := rfl
@[simp] theorem putKeys_ctxs (s : State) (ps : List (Nat × Byte)) : (putKeys s ps).ctxs = s.ctxs := rfl
@[simp] theorem putKeys_asidGen (s : State) (ps : List (Nat × Byte)) : (putKeys s ps).asidGen = s.asidGen := rfl
@[simp] theorem putKeys_grids (s : State) (ps : List (Nat × Byte)) : (putKeys s ps).grids = s.grids := rfl
@[simp] theorem putKeys_coll (s : State) (ps : List (Nat × Byte)) : (putKeys s ps).coll = s.coll := rfl
@[simp] theorem putKeys_granules (s : State) (ps : List (Nat × Byte)) : (putKeys s ps).granules = s.granules := rfl
@[simp] theorem putKeys_carry (s : State) (ps : List (Nat × Byte)) : (putKeys s ps).carry = s.carry := rfl
@[simp] theorem putKeys_mirrors (s : State) (ps : List (Nat × Byte)) : (putKeys s ps).mirrors = s.mirrors := rfl
@[simp] theorem putKeys_pool (s : State) (ps : List (Nat × Byte)) : (putKeys s ps).pool = s.pool := rfl
@[simp] theorem putKeys_poison (s : State) (ps : List (Nat × Byte)) : (putKeys s ps).poison = s.poison := rfl
@[simp] theorem putKeys_owners (s : State) (ps : List (Nat × Byte)) : (putKeys s ps).owners = s.owners := rfl
@[simp] theorem putKeys_fab (s : State) (ps : List (Nat × Byte)) : (putKeys s ps).fab = s.fab := rfl
@[simp] theorem putKeys_host (s : State) (ps : List (Nat × Byte)) : (putKeys s ps).host = s.host := rfl
@[simp] theorem putKeys_care (s : State) (ps : List (Nat × Byte)) : (putKeys s ps).care = s.care := rfl
@[simp] theorem putKeys_sched (s : State) (ps : List (Nat × Byte)) : (putKeys s ps).sched = s.sched := rfl
@[simp] theorem putKeys_cycle (s : State) (ps : List (Nat × Byte)) : (putKeys s ps).cycle = s.cycle := rfl
@[simp] theorem putKeys_ns (s : State) (ps : List (Nat × Byte)) : (putKeys s ps).ns = s.ns := rfl
@[simp] theorem putKeys_nsRest (s : State) (ps : List (Nat × Byte)) : (putKeys s ps).nsRest = s.nsRest := rfl
@[simp] theorem putKeys_nextUid (s : State) (ps : List (Nat × Byte)) : (putKeys s ps).nextUid = s.nextUid := rfl
@[simp] theorem putKeys_stamp (s : State) (ps : List (Nat × Byte)) : (putKeys s ps).stamp = s.stamp := rfl
@[simp] theorem putKeys_inputs (s : State) (ps : List (Nat × Byte)) : (putKeys s ps).inputs = s.inputs := rfl
@[simp] theorem putKeys_issue (s : State) (ps : List (Nat × Byte)) : (putKeys s ps).issue = s.issue := rfl
@[simp] theorem putKeys_part (s : State) (ps : List (Nat × Byte)) : (putKeys s ps).part = s.part := rfl
@[simp] theorem putKeys_setPc (s : State) (ps : List (Nat × Byte)) : (putKeys s ps).setPc = s.setPc := rfl
@[simp] theorem putKeys_ir (s : State) (ps : List (Nat × Byte)) : (putKeys s ps).ir = s.ir := rfl
@[simp] theorem putKeys_freeCtr (s : State) (ps : List (Nat × Byte)) : (putKeys s ps).freeCtr = s.freeCtr := rfl

/-! ## clearKeys -/

@[simp] theorem clearKeys_mem (s : State) (k n : Nat) : (clearKeys s k n).mem = memClear s.mem k n := rfl
@[simp] theorem clearKeys_cores (s : State) (k n : Nat) : (clearKeys s k n).cores = s.cores := rfl
@[simp] theorem clearKeys_teams (s : State) (k n : Nat) : (clearKeys s k n).teams = s.teams := rfl
@[simp] theorem clearKeys_ctxs (s : State) (k n : Nat) : (clearKeys s k n).ctxs = s.ctxs := rfl
@[simp] theorem clearKeys_asidGen (s : State) (k n : Nat) : (clearKeys s k n).asidGen = s.asidGen := rfl
@[simp] theorem clearKeys_grids (s : State) (k n : Nat) : (clearKeys s k n).grids = s.grids := rfl
@[simp] theorem clearKeys_coll (s : State) (k n : Nat) : (clearKeys s k n).coll = s.coll := rfl
@[simp] theorem clearKeys_granules (s : State) (k n : Nat) : (clearKeys s k n).granules = s.granules := rfl
@[simp] theorem clearKeys_carry (s : State) (k n : Nat) : (clearKeys s k n).carry = s.carry := rfl
@[simp] theorem clearKeys_mirrors (s : State) (k n : Nat) : (clearKeys s k n).mirrors = s.mirrors := rfl
@[simp] theorem clearKeys_pool (s : State) (k n : Nat) : (clearKeys s k n).pool = s.pool := rfl
@[simp] theorem clearKeys_poison (s : State) (k n : Nat) : (clearKeys s k n).poison = s.poison := rfl
@[simp] theorem clearKeys_owners (s : State) (k n : Nat) : (clearKeys s k n).owners = s.owners := rfl
@[simp] theorem clearKeys_fab (s : State) (k n : Nat) : (clearKeys s k n).fab = s.fab := rfl
@[simp] theorem clearKeys_host (s : State) (k n : Nat) : (clearKeys s k n).host = s.host := rfl
@[simp] theorem clearKeys_care (s : State) (k n : Nat) : (clearKeys s k n).care = s.care := rfl
@[simp] theorem clearKeys_sched (s : State) (k n : Nat) : (clearKeys s k n).sched = s.sched := rfl
@[simp] theorem clearKeys_cycle (s : State) (k n : Nat) : (clearKeys s k n).cycle = s.cycle := rfl
@[simp] theorem clearKeys_ns (s : State) (k n : Nat) : (clearKeys s k n).ns = s.ns := rfl
@[simp] theorem clearKeys_nsRest (s : State) (k n : Nat) : (clearKeys s k n).nsRest = s.nsRest := rfl
@[simp] theorem clearKeys_nextUid (s : State) (k n : Nat) : (clearKeys s k n).nextUid = s.nextUid := rfl
@[simp] theorem clearKeys_stamp (s : State) (k n : Nat) : (clearKeys s k n).stamp = s.stamp := rfl
@[simp] theorem clearKeys_inputs (s : State) (k n : Nat) : (clearKeys s k n).inputs = s.inputs := rfl
@[simp] theorem clearKeys_issue (s : State) (k n : Nat) : (clearKeys s k n).issue = s.issue := rfl
@[simp] theorem clearKeys_part (s : State) (k n : Nat) : (clearKeys s k n).part = s.part := rfl
@[simp] theorem clearKeys_setPc (s : State) (k n : Nat) : (clearKeys s k n).setPc = s.setPc := rfl
@[simp] theorem clearKeys_ir (s : State) (k n : Nat) : (clearKeys s k n).ir = s.ir := rfl
@[simp] theorem clearKeys_freeCtr (s : State) (k n : Nat) : (clearKeys s k n).freeCtr = s.freeCtr := rfl

/-! ## nextFree -/

@[simp] theorem nextFree_mem (s : State) : (nextFree s).mem = s.mem := rfl
@[simp] theorem nextFree_cores (s : State) : (nextFree s).cores = s.cores := rfl
@[simp] theorem nextFree_teams (s : State) : (nextFree s).teams = s.teams := rfl
@[simp] theorem nextFree_ctxs (s : State) : (nextFree s).ctxs = s.ctxs := rfl
@[simp] theorem nextFree_asidGen (s : State) : (nextFree s).asidGen = s.asidGen := rfl
@[simp] theorem nextFree_grids (s : State) : (nextFree s).grids = s.grids := rfl
@[simp] theorem nextFree_coll (s : State) : (nextFree s).coll = s.coll := rfl
@[simp] theorem nextFree_granules (s : State) : (nextFree s).granules = s.granules := rfl
@[simp] theorem nextFree_carry (s : State) : (nextFree s).carry = s.carry := rfl
@[simp] theorem nextFree_mirrors (s : State) : (nextFree s).mirrors = s.mirrors := rfl
@[simp] theorem nextFree_pool (s : State) : (nextFree s).pool = s.pool := rfl
@[simp] theorem nextFree_poison (s : State) : (nextFree s).poison = s.poison := rfl
@[simp] theorem nextFree_owners (s : State) : (nextFree s).owners = s.owners := rfl
@[simp] theorem nextFree_fab (s : State) : (nextFree s).fab = s.fab := rfl
@[simp] theorem nextFree_host (s : State) : (nextFree s).host = s.host := rfl
@[simp] theorem nextFree_care (s : State) : (nextFree s).care = s.care := rfl
@[simp] theorem nextFree_sched (s : State) : (nextFree s).sched = s.sched := rfl
@[simp] theorem nextFree_cycle (s : State) : (nextFree s).cycle = s.cycle := rfl
@[simp] theorem nextFree_ns (s : State) : (nextFree s).ns = s.ns := rfl
@[simp] theorem nextFree_nsRest (s : State) : (nextFree s).nsRest = s.nsRest := rfl
@[simp] theorem nextFree_nextUid (s : State) : (nextFree s).nextUid = s.nextUid := rfl
@[simp] theorem nextFree_stamp (s : State) : (nextFree s).stamp = s.stamp := rfl
@[simp] theorem nextFree_inputs (s : State) : (nextFree s).inputs = s.inputs := rfl
@[simp] theorem nextFree_issue (s : State) : (nextFree s).issue = s.issue := rfl
@[simp] theorem nextFree_part (s : State) : (nextFree s).part = s.part := rfl
@[simp] theorem nextFree_setPc (s : State) : (nextFree s).setPc = s.setPc := rfl
@[simp] theorem nextFree_ir (s : State) : (nextFree s).ir = s.ir := rfl
@[simp] theorem nextFree_freeCtr (s : State) : (nextFree s).freeCtr = s.freeCtr + 1 := rfl

/-! ## popIssue -/

@[simp] theorem popIssue_mem (s : State) : (popIssue s).mem = s.mem := rfl
@[simp] theorem popIssue_cores (s : State) : (popIssue s).cores = s.cores := rfl
@[simp] theorem popIssue_teams (s : State) : (popIssue s).teams = s.teams := rfl
@[simp] theorem popIssue_ctxs (s : State) : (popIssue s).ctxs = s.ctxs := rfl
@[simp] theorem popIssue_asidGen (s : State) : (popIssue s).asidGen = s.asidGen := rfl
@[simp] theorem popIssue_grids (s : State) : (popIssue s).grids = s.grids := rfl
@[simp] theorem popIssue_coll (s : State) : (popIssue s).coll = s.coll := rfl
@[simp] theorem popIssue_granules (s : State) : (popIssue s).granules = s.granules := rfl
@[simp] theorem popIssue_carry (s : State) : (popIssue s).carry = s.carry := rfl
@[simp] theorem popIssue_mirrors (s : State) : (popIssue s).mirrors = s.mirrors := rfl
@[simp] theorem popIssue_pool (s : State) : (popIssue s).pool = s.pool := rfl
@[simp] theorem popIssue_poison (s : State) : (popIssue s).poison = s.poison := rfl
@[simp] theorem popIssue_owners (s : State) : (popIssue s).owners = s.owners := rfl
@[simp] theorem popIssue_fab (s : State) : (popIssue s).fab = s.fab := rfl
@[simp] theorem popIssue_host (s : State) : (popIssue s).host = s.host := rfl
@[simp] theorem popIssue_care (s : State) : (popIssue s).care = s.care := rfl
@[simp] theorem popIssue_sched (s : State) : (popIssue s).sched = s.sched := rfl
@[simp] theorem popIssue_cycle (s : State) : (popIssue s).cycle = s.cycle := rfl
@[simp] theorem popIssue_ns (s : State) : (popIssue s).ns = s.ns := rfl
@[simp] theorem popIssue_nsRest (s : State) : (popIssue s).nsRest = s.nsRest := rfl
@[simp] theorem popIssue_nextUid (s : State) : (popIssue s).nextUid = s.nextUid := rfl
@[simp] theorem popIssue_stamp (s : State) : (popIssue s).stamp = s.stamp := rfl
@[simp] theorem popIssue_inputs (s : State) : (popIssue s).inputs = s.inputs := rfl
@[simp] theorem popIssue_issue (s : State) : (popIssue s).issue = s.issue.drop 1 := rfl
@[simp] theorem popIssue_part (s : State) : (popIssue s).part = s.part := rfl
@[simp] theorem popIssue_setPc (s : State) : (popIssue s).setPc = s.setPc := rfl
@[simp] theorem popIssue_ir (s : State) : (popIssue s).ir = s.ir := rfl
@[simp] theorem popIssue_freeCtr (s : State) : (popIssue s).freeCtr = s.freeCtr := rfl

/-! ## writeV and settled -/

@[simp] theorem writeV_regs (th : Thread) (n : Nat) (r : Reg) : (writeV th n r).regs = th.regs.set n r := rfl
@[simp] theorem writeV_preds (th : Thread) (n : Nat) (r : Reg) : (writeV th n r).preds = th.preds := rfl
@[simp] theorem writeV_pc (th : Thread) (n : Nat) (r : Reg) : (writeV th n r).pc = th.pc := rfl
@[simp] theorem writeV_stack (th : Thread) (n : Nat) (r : Reg) : (writeV th n r).stack = th.stack := rfl
@[simp] theorem writeV_spill (th : Thread) (n : Nat) (r : Reg) : (writeV th n r).spill = th.spill := rfl
@[simp] theorem writeV_landing (th : Thread) (n : Nat) (r : Reg) : (writeV th n r).landing = th.landing := rfl
@[simp] theorem writeV_seed (th : Thread) (n : Nat) (r : Reg) : (writeV th n r).seed = th.seed := rfl
@[simp] theorem writeV_st (th : Thread) (n : Nat) (r : Reg) : (writeV th n r).st = th.st := rfl
@[simp] theorem writeV_cohort (th : Thread) (n : Nat) (r : Reg) : (writeV th n r).cohort = th.cohort := rfl
@[simp] theorem writeV_path (th : Thread) (n : Nat) (r : Reg) : (writeV th n r).path = th.path := rfl
@[simp] theorem writeV_handler (th : Thread) (n : Nat) (r : Reg) : (writeV th n r).handler = th.handler := rfl
@[simp] theorem writeV_frc (th : Thread) (n : Nat) (r : Reg) : (writeV th n r).frc = th.frc := rfl
@[simp] theorem writeV_marks (th : Thread) (n : Nat) (r : Reg) : (writeV th n r).marks = th.marks := rfl
@[simp] theorem writeV_syncing (th : Thread) (n : Nat) (r : Reg) : (writeV th n r).syncing = th.syncing := rfl
@[simp] theorem writeV_freed (th : Thread) (n : Nat) (r : Reg) : (writeV th n r).freed = th.freed := rfl
@[simp] theorem writeV_saved (th : Thread) (n : Nat) (r : Reg) : (writeV th n r).saved = th.saved := rfl
@[simp] theorem writeV_reply (th : Thread) (n : Nat) (r : Reg) : (writeV th n r).reply = th.reply := rfl
@[simp] theorem writeV_begun (th : Thread) (n : Nat) (r : Reg) : (writeV th n r).begun = th.begun := rfl
@[simp] theorem writeV_rel (th : Thread) (n : Nat) (r : Reg) : (writeV th n r).rel = th.rel := rfl
@[simp] theorem writeV_noFill (th : Thread) (n : Nat) (r : Reg) : (writeV th n r).noFill = th.noFill := rfl
@[simp] theorem writeV_early (th : Thread) (n : Nat) (r : Reg) : (writeV th n r).early = th.early := rfl
@[simp] theorem writeV_pass (th : Thread) (n : Nat) (r : Reg) : (writeV th n r).pass = th.pass := rfl
@[simp] theorem writeV_stall (th : Thread) (n : Nat) (r : Reg) : (writeV th n r).stall = th.stall := rfl
@[simp] theorem writeV_drain (th : Thread) (n : Nat) (r : Reg) : (writeV th n r).drain = th.drain := rfl
@[simp] theorem writeV_age (th : Thread) (n : Nat) (r : Reg) : (writeV th n r).age = th.age := rfl
@[simp] theorem writeV_pauseLeft (th : Thread) (n : Nat) (r : Reg) : (writeV th n r).pauseLeft = th.pauseLeft := rfl
@[simp] theorem writeV_waited (th : Thread) (n : Nat) (r : Reg) : (writeV th n r).waited = th.waited := rfl
@[simp] theorem writeV_since (th : Thread) (n : Nat) (r : Reg) : (writeV th n r).since = th.since := rfl
@[simp] theorem writeV_released (th : Thread) (n : Nat) (r : Reg) : (writeV th n r).released = th.released := rfl
@[simp] theorem writeV_hazards (th : Thread) (n : Nat) (r : Reg) : (writeV th n r).hazards = th.hazards := rfl
@[simp] theorem writeV_pending (th : Thread) (n : Nat) (r : Reg) : (writeV th n r).pending = th.pending := rfl
@[simp] theorem writeV_issued (th : Thread) (n : Nat) (r : Reg) : (writeV th n r).issued = th.issued := rfl
@[simp] theorem writeV_gang (th : Thread) (n : Nat) (r : Reg) : (writeV th n r).gang = th.gang := rfl
@[simp] theorem writeV_gpos (th : Thread) (n : Nat) (r : Reg) : (writeV th n r).gpos = th.gpos := rfl
@[simp] theorem writeV_role (th : Thread) (n : Nat) (r : Reg) : (writeV th n r).role = th.role := rfl
@[simp] theorem writeV_part (th : Thread) (n : Nat) (r : Reg) : (writeV th n r).part = th.part := rfl
@[simp] theorem writeV_lane (th : Thread) (n : Nat) (r : Reg) : (writeV th n r).lane = th.lane := rfl
@[simp] theorem writeV_slot (th : Thread) (n : Nat) (r : Reg) : (writeV th n r).slot = th.slot := rfl
@[simp] theorem writeV_clock (th : Thread) (n : Nat) (r : Reg) : (writeV th n r).clock = th.clock := rfl
@[simp] theorem writeV_frel (th : Thread) (n : Nat) (r : Reg) : (writeV th n r).frel = th.frel := rfl
@[simp] theorem writeV_fseen (th : Thread) (n : Nat) (r : Reg) : (writeV th n r).fseen = th.fseen := rfl

/-! ## setThread -/

@[simp] theorem setThread_uid (t : Team) (tid : Nat) (th : Thread) : (setThread t tid th).uid = t.uid := rfl
@[simp] theorem setThread_serial (t : Team) (tid : Nat) (th : Thread) : (setThread t tid th).serial = t.serial := rfl
@[simp] theorem setThread_asid (t : Team) (tid : Nat) (th : Thread) : (setThread t tid th).asid = t.asid := rfl
@[simp] theorem setThread_grid (t : Team) (tid : Nat) (th : Thread) : (setThread t tid th).grid = t.grid := rfl
@[simp] theorem setThread_lin (t : Team) (tid : Nat) (th : Thread) : (setThread t tid th).lin = t.lin := rfl
@[simp] theorem setThread_tmx (t : Team) (tid : Nat) (th : Thread) : (setThread t tid th).tmx = t.tmx := rfl
@[simp] theorem setThread_tmy (t : Team) (tid : Nat) (th : Thread) : (setThread t tid th).tmy = t.tmy := rfl
@[simp] theorem setThread_tmz (t : Team) (tid : Nat) (th : Thread) : (setThread t tid th).tmz = t.tmz := rfl
@[simp] theorem setThread_gdx (t : Team) (tid : Nat) (th : Thread) : (setThread t tid th).gdx = t.gdx := rfl
@[simp] theorem setThread_gdy (t : Team) (tid : Nat) (th : Thread) : (setThread t tid th).gdy = t.gdy := rfl
@[simp] theorem setThread_gdz (t : Team) (tid : Nat) (th : Thread) : (setThread t tid th).gdz = t.gdz := rfl
@[simp] theorem setThread_home (t : Team) (tid : Nat) (th : Thread) : (setThread t tid th).home = t.home := rfl
@[simp] theorem setThread_gangs (t : Team) (tid : Nat) (th : Thread) : (setThread t tid th).gangs = t.gangs := rfl
@[simp] theorem setThread_threads (t : Team) (tid : Nat) (th : Thread) : (setThread t tid th).threads = t.threads.set tid th := rfl
@[simp] theorem setThread_k (t : Team) (tid : Nat) (th : Thread) : (setThread t tid th).k = t.k := rfl
@[simp] theorem setThread_bars (t : Team) (tid : Nat) (th : Thread) : (setThread t tid th).bars = t.bars := rfl
@[simp] theorem setThread_ctl (t : Team) (tid : Nat) (th : Thread) : (setThread t tid th).ctl = t.ctl := rfl
@[simp] theorem setThread_hent (t : Team) (tid : Nat) (th : Thread) : (setThread t tid th).hent = t.hent := rfl
@[simp] theorem setThread_bwd (t : Team) (tid : Nat) (th : Thread) : (setThread t tid th).bwd = t.bwd := rfl
@[simp] theorem setThread_pdl (t : Team) (tid : Nat) (th : Thread) : (setThread t tid th).pdl = t.pdl := rfl
@[simp] theorem setThread_trm (t : Team) (tid : Nat) (th : Thread) : (setThread t tid th).trm = t.trm := rfl
@[simp] theorem setThread_calld (t : Team) (tid : Nat) (th : Thread) : (setThread t tid th).calld = t.calld := rfl
@[simp] theorem setThread_scr (t : Team) (tid : Nat) (th : Thread) : (setThread t tid th).scr = t.scr := rfl
@[simp] theorem setThread_grant0 (t : Team) (tid : Nat) (th : Thread) : (setThread t tid th).grant0 = t.grant0 := rfl
@[simp] theorem setThread_ngrants (t : Team) (tid : Nat) (th : Thread) : (setThread t tid th).ngrants = t.ngrants := rfl
@[simp] theorem setThread_recLen (t : Team) (tid : Nat) (th : Thread) : (setThread t tid th).recLen = t.recLen := rfl
@[simp] theorem setThread_image (t : Team) (tid : Nat) (th : Thread) : (setThread t tid th).image = t.image := rfl
@[simp] theorem setThread_imageAt (t : Team) (tid : Nat) (th : Thread) : (setThread t tid th).imageAt = t.imageAt := rfl
@[simp] theorem setThread_tiles (t : Team) (tid : Nat) (th : Thread) : (setThread t tid th).tiles = t.tiles := rfl
@[simp] theorem setThread_tracker (t : Team) (tid : Nat) (th : Thread) : (setThread t tid th).tracker = t.tracker := rfl
@[simp] theorem setThread_colls (t : Team) (tid : Nat) (th : Thread) : (setThread t tid th).colls = t.colls := rfl
@[simp] theorem setThread_execs (t : Team) (tid : Nat) (th : Thread) : (setThread t tid th).execs = t.execs := rfl
@[simp] theorem setThread_kids (t : Team) (tid : Nat) (th : Thread) : (setThread t tid th).kids = t.kids := rfl
@[simp] theorem setThread_ranges (t : Team) (tid : Nat) (th : Thread) : (setThread t tid th).ranges = t.ranges := rfl
@[simp] theorem setThread_range (t : Team) (tid : Nat) (th : Thread) : (setThread t tid th).range = t.range := rfl
@[simp] theorem setThread_hurt (t : Team) (tid : Nat) (th : Thread) : (setThread t tid th).hurt = t.hurt := rfl
@[simp] theorem setThread_evicted (t : Team) (tid : Nat) (th : Thread) : (setThread t tid th).evicted = t.evicted := rfl
@[simp] theorem setThread_epoch (t : Team) (tid : Nat) (th : Thread) : (setThread t tid th).epoch = t.epoch := rfl
@[simp] theorem setThread_acq (t : Team) (tid : Nat) (th : Thread) : (setThread t tid th).acq = t.acq := rfl
@[simp] theorem setThread_ordered (t : Team) (tid : Nat) (th : Thread) : (setThread t tid th).ordered = t.ordered := rfl
@[simp] theorem setThread_nextCohort (t : Team) (tid : Nat) (th : Thread) : (setThread t tid th).nextCohort = t.nextCohort := rfl

end Sys2Proof.Machine
end

