-- ==== Sys2Proof/Laws/Tables.lean ====
section
/-! SUPPORT. The tables of the state: what is found after an entry is replaced. -/

namespace Sys2Proof.Machine

open Sys2Proof

theorem find_replaceIf_self {α : Type} (p : α → Bool) (v x : α) (l : List α) (h : l.find? p = some x) (hv : p v = true) :
    (replaceIf p v l).find? p = some v := by
  induction l with
  | nil => cases h
  | cons a r ih =>
    by_cases ha : p a = true
    · simp [replaceIf, ha, hv]
    · simp only [List.find?_cons, ha] at h
      simp [replaceIf, ha, ih h]

theorem find_replaceIf_other {α : Type} (p q : α → Bool) (v : α) (l : List α) (hv : q v = false)
    (hd : ∀ x, p x = true → q x = false) : (replaceIf p v l).find? q = l.find? q := by
  induction l with
  | nil => rfl
  | cons a r ih =>
    by_cases ha : p a = true
    · simp [replaceIf, ha, hv, hd a ha]
    · simp [replaceIf, ha, List.find?_cons, ih]

theorem replaceIf_twice {α : Type} (p q : α → Bool) (v w : α) (l : List α) (hpq : p = q) (hv : p v = true) :
    replaceIf q w (replaceIf p v l) = replaceIf q w l := by
  subst hpq
  induction l with
  | nil => rfl
  | cons a r ih => by_cases ha : p a = true <;> simp [replaceIf, ha, hv, ih]

theorem replaceIf_same {α : Type} (p : α → Bool) (v : α) (l : List α) (h : l.find? p = some v) : replaceIf p v l = l := by
  induction l with
  | nil => rfl
  | cons a r ih =>
    by_cases ha : p a = true
    · simp only [List.find?_cons, ha] at h
      cases h
      simp [replaceIf, ha]
    · simp only [List.find?_cons, ha] at h
      simp [replaceIf, ha, ih h]

/-! ## Teams -/

/-- A team that is found has the uid it is found by. -/
theorem getTeam_uid {s : State} {uid : Nat} {t : Team} (h : getTeam s uid = some t) : t.uid = uid := by
  have := List.find?_some h
  simpa using this

theorem getTeam_setTeam {s : State} {uid : Nat} {t t' : Team} (h : getTeam s uid = some t) (hu : t'.uid = uid) :
    getTeam (setTeam s t') uid = some t' := by
  subst hu
  exact find_replaceIf_self _ t' t _ h (by simp)

theorem getTeam_setTeam_other {s : State} {u : Nat} {t' : Team} (hu : t'.uid ≠ u) : getTeam (setTeam s t') u = getTeam s u := by
  refine find_replaceIf_other _ _ t' _ (by simpa using hu) ?_
  intro x hx
  have : x.uid = t'.uid := by simpa using hx
  simpa [this] using hu

theorem setTeam_twice (s : State) (t t' : Team) (h : t'.uid = t.uid) : setTeam (setTeam s t) t' = setTeam s t' := by
  have : replaceIf (fun x => x.uid == t'.uid) t' (replaceIf (fun x => x.uid == t.uid) t s.teams) =
      replaceIf (fun x => x.uid == t'.uid) t' s.teams :=
    replaceIf_twice _ _ _ _ _ (by rw [h]) (by simp)
  simp only [setTeam, this]

theorem setTeam_same {s : State} {t : Team} {uid : Nat} (h : getTeam s uid = some t) : setTeam s t = s := by
  have hu := getTeam_uid h
  subst hu
  simp only [setTeam]
  rw [replaceIf_same _ t _ h]

/-! ## Contexts -/

theorem getCtx_asid {s : State} {a : Nat} {c : Ctx} (h : getCtx s a = some c) : c.asid = a := by
  have := List.find?_some h
  simpa using this

theorem getCtx_setCtx {s : State} {a : Nat} {c c' : Ctx} (h : getCtx s a = some c) (hu : c'.asid = a) :
    getCtx (setCtx s c') a = some c' := by
  subst hu
  exact find_replaceIf_self _ c' c _ h (by simp)

theorem getCtx_setCtx_other {s : State} {a : Nat} {c' : Ctx} (hu : c'.asid ≠ a) : getCtx (setCtx s c') a = getCtx s a := by
  refine find_replaceIf_other _ _ c' _ (by simpa using hu) ?_
  intro x hx
  have : x.asid = c'.asid := by simpa using hx
  simpa [this] using hu

/-! ## Threads -/

theorem getThread_setThread {t : Team} {tid : Nat} {th th' : Thread} (h : getThread t tid = some th) :
    getThread (setThread t tid th') tid = some th' := by
  have hl : tid < t.threads.length := (List.getElem?_eq_some_iff.mp h).1
  simp [getThread, setThread, hl]

theorem getThread_setThread_other {t : Team} {tid u : Nat} {th' : Thread} (h : tid ≠ u) :
    getThread (setThread t tid th') u = getThread t u := by
  simp [getThread, setThread, List.getElem?_set_ne h]

theorem setThread_twice (t : Team) (tid : Nat) (a b : Thread) : setThread (setThread t tid a) tid b = setThread t tid b := by
  simp [setThread]

theorem setThread_same {t : Team} {tid : Nat} {th : Thread} (h : getThread t tid = some th) : setThread t tid th = t := by
  have : t.threads.set tid th = t.threads := by
    apply List.ext_getElem?
    intro i
    by_cases hi : tid = i
    · subst hi
      have hl : tid < t.threads.length := (List.getElem?_eq_some_iff.mp h).1
      rw [List.getElem?_set_self hl]
      exact h.symm
    · simp [List.getElem?_set_ne hi]
  simp [setThread, this]

end Sys2Proof.Machine
end

