-- ==== Sys2Proof/Laws/Alu.lean ====
section
/-! SUPPORT. What the checks of R76, the writes of an instruction and its end do: an instruction that passes the checks comes to
its effect, and one whose effect is its writes leaves what `Wrote` says. -/

namespace Sys2Proof.Machine

open Sys2Proof

/-! ## The checks -/

theorem oneOf_nil {α : Type} (c : Nat) : oneOf c ([] : List α) = none := rfl

theorem gate_go {i : Instr} {sg : Sig} {s : State} {t : Team} {th : Thread} (h : Passes i sg s t th) :
    gate s i t th sg = .go (curOf s t th) (ctrOf s th) := by
  obtain ⟨⟨h1, h2, h3, h4⟩, ⟨h5, h6⟩, h7, h13, ⟨h8, h9, h10, h11, h12⟩⟩ := h
  have f3 : i.features.filter (fun b => !(effFeat s t.asid).getLsbD b) = [] := by
    rw [List.filter_eq_nil_iff]; intro b hb; simp [h3 b hb]
  have f5 : (if sbChk t th && (encOf i).grd != 7 then oneOf s.freeCtr (shortOn th [] [(encOf i).grd]) else none) = none := by
    by_cases a : sbChk t th = true <;> by_cases b : (encOf i).grd = 7 <;> simp_all [oneOf_nil]
  have f6 : ((encOf i).grd != 7 && interlocked th [] [(encOf i).grd]) = false := by
    by_cases b : (encOf i).grd = 7 <;> simp_all
  have f8 : (if sbChk t th then oneOf (hazardView th.hazards th s.freeCtr).2.2 (shortOn th sg.regs (sg.pr ++ sg.pw)) else none) = none := by
    by_cases a : sbChk t th = true <;> simp_all [oneOf_nil]
  have f9 : (if tagRlx t th then none
      else oneOf (hazardView th.hazards th s.freeCtr).2.2 (badTag (hazardView th.hazards th s.freeCtr).1 sg.regs)) = none := by
    by_cases a : tagRlx t th = true
    · simp [a]
    · have := h12 (by simpa using a)
      simp only [viewOf] at this
      simp [a, this, oneOf_nil]
  have f7 : guardHolds (hazardView th.hazards th s.freeCtr).1.preds (encOf i).grd (encOf i).gneg = true := h7
  simp only [gate, h1, h2, f3, h4, oneOf_nil, f5, f6, f7, h13, gateOperands, h8, h9, h10, f8, f9, Bool.not_true,
    Bool.false_eq_true, if_false]
  rfl

/-! ## Instructions of one thread -/

/-- An instruction whose checks pass comes to its effect. -/
theorem run_go {i : Instr} {sg : Sig} {s : State} {uid tid : Nat} {t : Team} {th : Thread} (eff : State → Nat → Nat → Cur → Act)
    (hT : Turn s uid tid t th) (hP : Passes i sg s t th) :
    run i sg eff s = .next (popIssue (match eff (issueState s th) uid tid (curOf s t th) with
      | .done s1 => chargeIssue i t.asid th (retireAt s1 uid tid i sg true th (nextPc i th))
      | .jump s1 pc => chargeIssue i t.asid th (retireAt s1 uid tid i sg true th pc)
      | .trap s1 tr => chargeIssue i t.asid th (takeTrap s1 uid tid tr)
      | .hold s1 w => chargeIssue i t.asid th (holdThread s1 uid tid w)
      | .left s1 => chargeIssue i t.asid th s1)) := by
  obtain ⟨h1, h2, h3, h4⟩ := hT
  match hs : s.issue, h1 with
  | (u, d) :: r, h1 =>
    simp only [List.head?_cons, Option.some.injEq, Prod.mk.injEq] at h1
    obtain ⟨rfl, rfl⟩ := h1
    simp only [run, issueState, hs, h2, h3, h4, gate_go hP, Bool.not_true, Bool.false_eq_true, if_false] <;> rfl

theorem run_done {i : Instr} {sg : Sig} {s : State} {uid tid : Nat} {t : Team} {th : Thread} {eff : State → Nat → Nat → Cur → Act}
    {s1 : State} (hT : Turn s uid tid t th) (hP : Passes i sg s t th)
    (he : eff (issueState s th) uid tid (curOf s t th) = .done s1) :
    run i sg eff s = .next (ended i sg s uid tid t th s1 (nextPc i th)) := by
  rw [run_go eff hT hP, he]; rfl

theorem run_jump {i : Instr} {sg : Sig} {s : State} {uid tid : Nat} {t : Team} {th : Thread} {eff : State → Nat → Nat → Cur → Act}
    {s1 : State} {pc : W64} (hT : Turn s uid tid t th) (hP : Passes i sg s t th)
    (he : eff (issueState s th) uid tid (curOf s t th) = .jump s1 pc) :
    run i sg eff s = .next (ended i sg s uid tid t th s1 pc) := by
  rw [run_go eff hT hP, he]; rfl

theorem run_trap {i : Instr} {sg : Sig} {s : State} {uid tid : Nat} {t : Team} {th : Thread} {eff : State → Nat → Nat → Cur → Act}
    {s1 : State} {tr : Trap} (hT : Turn s uid tid t th) (hP : Passes i sg s t th)
    (he : eff (issueState s th) uid tid (curOf s t th) = .trap s1 tr) :
    run i sg eff s = .next (trapped i t th uid tid s1 tr) := by
  rw [run_go eff hT hP, he]; rfl

theorem run_hold {i : Instr} {sg : Sig} {s : State} {uid tid : Nat} {t : Team} {th : Thread} {eff : State → Nat → Nat → Cur → Act}
    {s1 : State} {w : Wait} (hT : Turn s uid tid t th) (hP : Passes i sg s t th)
    (he : eff (issueState s th) uid tid (curOf s t th) = .hold s1 w) :
    run i sg eff s = .next (popIssue (chargeIssue i t.asid th (holdThread s1 uid tid w))) := by
  rw [run_go eff hT hP, he]

theorem run_left {i : Instr} {sg : Sig} {s : State} {uid tid : Nat} {t : Team} {th : Thread} {eff : State → Nat → Nat → Cur → Act}
    {s1 : State} (hT : Turn s uid tid t th) (hP : Passes i sg s t th)
    (he : eff (issueState s th) uid tid (curOf s t th) = .left s1) :
    run i sg eff s = .next (popIssue (chargeIssue i t.asid th s1)) := by
  rw [run_go eff hT hP, he]

/-! ## Statements about one arm from what its effect answers -/

theorem goes_of {i : Instr} {sg : Sig} {pre : State → Nat → Nat → Cur → Prop} {eff : State → Nat → Nat → Cur → State}
    {act : State → Nat → Nat → Cur → Act} (hx : ∀ s, exec i s = run i sg act s)
    (ha : ∀ s uid tid c, pre s uid tid c → act s uid tid c = .done (eff s uid tid c)) : Goes i sg pre eff :=
  fun s _ _ _ _ hT hP hp => (hx s).trans (run_done hT hP (ha _ _ _ _ hp))

theorem jumps_of {i : Instr} {sg : Sig} {pre : State → Nat → Nat → Cur → Prop} {eff : State → Nat → Nat → Cur → State}
    {pc : State → Nat → Nat → Cur → W64} {act : State → Nat → Nat → Cur → Act} (hx : ∀ s, exec i s = run i sg act s)
    (ha : ∀ s uid tid c, pre s uid tid c → act s uid tid c = .jump (eff s uid tid c) (pc s uid tid c)) : Jumps i sg pre eff pc :=
  fun s _ _ _ _ hT hP hp => (hx s).trans (run_jump hT hP (ha _ _ _ _ hp))

theorem traps_of {i : Instr} {sg : Sig} {pre : State → Nat → Nat → Cur → Prop} {eff : State → Nat → Nat → Cur → State}
    {tr : State → Nat → Nat → Cur → Trap} {act : State → Nat → Nat → Cur → Act} (hx : ∀ s, exec i s = run i sg act s)
    (ha : ∀ s uid tid c, pre s uid tid c → act s uid tid c = .trap (eff s uid tid c) (tr s uid tid c)) : Traps i sg pre eff tr :=
  fun s _ _ _ _ hT hP hp => (hx s).trans (run_trap hT hP (ha _ _ _ _ hp))

theorem waits_of {i : Instr} {sg : Sig} {pre : State → Nat → Nat → Cur → Prop} {eff : State → Nat → Nat → Cur → State}
    {w : State → Nat → Nat → Cur → Wait} {act : State → Nat → Nat → Cur → Act} (hx : ∀ s, exec i s = run i sg act s)
    (ha : ∀ s uid tid c, pre s uid tid c → act s uid tid c = .hold (eff s uid tid c) (w s uid tid c)) : Waits i sg pre eff w :=
  fun s _ _ _ _ hT hP hp => (hx s).trans (run_hold hT hP (ha _ _ _ _ hp))

theorem leaves_of {i : Instr} {sg : Sig} {pre : State → Nat → Nat → Cur → Prop} {eff : State → Nat → Nat → Cur → State}
    {act : State → Nat → Nat → Cur → Act} (hx : ∀ s, exec i s = run i sg act s)
    (ha : ∀ s uid tid c, pre s uid tid c → act s uid tid c = .left (eff s uid tid c)) : Leaves i sg pre eff :=
  fun s _ _ _ _ hT hP hp => (hx s).trans (run_left hT hP (ha _ _ _ _ hp))

/-! ## A thread replaced in the state -/

/-- The state with thread `tid` of team `t` replaced, and the counter of free values. -/
def withThread (s : State) (t : Team) (tid : Nat) (th : Thread) (ctr : Nat) : State :=
  { setTeam s (setThread t tid th) with freeCtr := ctr }

theorem getTeam_withThread {s : State} {uid tid ctr : Nat} {t : Team} (th : Thread) (h : getTeam s uid = some t) :
    getTeam (withThread s t tid th ctr) uid = some (setThread t tid th) :=
  getTeam_setTeam (t' := setThread t tid th) h (show t.uid = uid from getTeam_uid h)

theorem getTeam_withThread_other {s : State} {uid tid ctr u : Nat} {t : Team} (th : Thread) (h : getTeam s uid = some t) (hu : u ≠ uid) :
    getTeam (withThread s t tid th ctr) u = getTeam s u := by
  have := getTeam_uid h
  exact getTeam_setTeam_other (by simp [this]; omega)

theorem modThread_withThread {s : State} {uid tid ctr : Nat} {t : Team} {th0 th : Thread} (f : Thread → Thread)
    (h : getTeam s uid = some t) (ht : getThread t tid = some th0) :
    modThread (withThread s t tid th ctr) uid tid f = withThread s t tid (f th) ctr := by
  simp only [modThread, modTeam, getTeam_withThread th h, getThread_setThread ht, setThread_twice]
  have := setTeam_twice s (setThread t tid th) (setThread t tid (f th)) rfl
  simp only [withThread, setTeam] at *
  simpa using this

theorem withThread_self {s : State} {uid tid : Nat} {t : Team} {th : Thread} (h : getTeam s uid = some t)
    (ht : getThread t tid = some th) (ctr : Nat) : withThread s t tid th ctr = { s with freeCtr := ctr } := by
  simp only [withThread, setThread_same ht, setTeam_same h]

/-! ## Writes -/

/-- What one register write does to the thread and to the counter of free values (R70). -/
def regWrite (p : Thread × Nat) (q : Nat × Reg) : Thread × Nat :=
  if hazardOn p.1 false q.1 then (if Config.hazardNew p.2 then writeV p.1 q.1 q.2 else p.1, p.2 + 1)
  else (writeV p.1 q.1 q.2, p.2)

def predWrite (p : Thread × Nat) (q : Nat × Bool) : Thread × Nat :=
  if hazardOn p.1 true q.1 then
    (if Config.hazardNew p.2 then { p.1 with preds := writePred p.1.preds q.1 q.2 } else p.1, p.2 + 1)
  else ({ p.1 with preds := writePred p.1.preds q.1 q.2 }, p.2)

theorem putReg_withThread {s : State} {uid tid : Nat} {t : Team} {th0 : Thread} (h : getTeam s uid = some t)
    (ht : getThread t tid = some th0) (p : Thread × Nat) (q : Nat × Reg) :
    putReg (withThread s t tid p.1 p.2) uid tid q.1 q.2 =
      withThread s t tid (regWrite p q).1 (regWrite p q).2 := by
  have e : hazardOn p.1 false q.1 = p.1.hazards.any (fun h => isShort h && !h.pred && h.num == q.1) := by
    simp [hazardOn]
  simp only [putReg, getTeam_withThread _ h, Option.bind_some, getThread_setThread ht, regWrite, e]
  split
  · simp only [show (withThread s t tid p.1 p.2).freeCtr = p.2 from rfl]
    have n : nextFree (withThread s t tid p.1 p.2) = withThread s t tid p.1 (p.2 + 1) := rfl
    rw [n]
    split
    · rw [modThread_withThread _ h ht]
    · rfl
  · rw [modThread_withThread _ h ht]

theorem putPred_withThread {s : State} {uid tid : Nat} {t : Team} {th0 : Thread} (h : getTeam s uid = some t)
    (ht : getThread t tid = some th0) (p : Thread × Nat) (q : Nat × Bool) :
    putPred (withThread s t tid p.1 p.2) uid tid q.1 q.2 =
      withThread s t tid (predWrite p q).1 (predWrite p q).2 := by
  have e : hazardOn p.1 true q.1 = p.1.hazards.any (fun h => isShort h && h.pred && h.num == q.1) := by
    simp [hazardOn]
  simp only [putPred, getTeam_withThread _ h, Option.bind_some, getThread_setThread ht, predWrite, e]
  split
  · simp only [show (withThread s t tid p.1 p.2).freeCtr = p.2 from rfl]
    have n : nextFree (withThread s t tid p.1 p.2) = withThread s t tid p.1 (p.2 + 1) := rfl
    rw [n]
    split
    · rw [modThread_withThread _ h ht]
    · rfl
  · rw [modThread_withThread _ h ht]

/-- The thread and counter after all writes. -/
def allWrites (th : Thread) (ctr : Nat) (w : Writes) : Thread × Nat :=
  let p := w.preds.foldl predWrite (w.regs.foldl regWrite (th, ctr))
  match w.seed with
  | none => p
  | some v => ({ p.1 with seed := v }, p.2)

theorem applyWrites_withThread {s : State} {uid tid : Nat} {t : Team} {th0 : Thread} (h : getTeam s uid = some t)
    (ht : getThread t tid = some th0) (th : Thread) (ctr : Nat) (w : Writes) :
    applyWrites (withThread s t tid th ctr) uid tid w =
      withThread s t tid (allWrites th ctr w).1 (allWrites th ctr w).2 := by
  have hr : ∀ (l : List (Nat × Reg)) (p : Thread × Nat),
      l.foldl (fun st q => putReg st uid tid q.1 q.2) (withThread s t tid p.1 p.2) =
        withThread s t tid (l.foldl regWrite p).1 (l.foldl regWrite p).2 := by
    intro l
    induction l with
    | nil => intro p; rfl
    | cons q r ih => intro p; simp only [List.foldl_cons, putReg_withThread h ht, ih]
  have hp : ∀ (l : List (Nat × Bool)) (p : Thread × Nat),
      l.foldl (fun st q => putPred st uid tid q.1 q.2) (withThread s t tid p.1 p.2) =
        withThread s t tid (l.foldl predWrite p).1 (l.foldl predWrite p).2 := by
    intro l
    induction l with
    | nil => intro p; rfl
    | cons q r ih => intro p; simp only [List.foldl_cons, putPred_withThread h ht, ih]
  simp only [applyWrites, hr w.regs (th, ctr), hp, allWrites]
  cases w.seed with
  | none => rfl
  | some v => simp only [modThread_withThread _ h ht]

/-! ## What the writes leave -/

theorem readV_writeV {th : Thread} {n : Nat} {r : Reg} (h : n < th.regs.length) : readV (writeV th n r) n = r := by
  simp [readV, writeV, List.getD_eq_getElem?_getD, List.getElem?_set_self h]

theorem readV_writeV_other {th : Thread} {n m : Nat} {r : Reg} (h : n ≠ m) : readV (writeV th n r) m = readV th m := by
  simp [readV, writeV, List.getD_eq_getElem?_getD, List.getElem?_set_ne h]

/-- A thread with other registers, and with other predicates. -/
def withRegs (th : Thread) (rs : List Reg) : Thread := { th with regs := rs }
def withPreds (th : Thread) (ps : BitVec 7) : Thread := { th with preds := ps }

theorem withRegs_twice (th : Thread) (a b : List Reg) : withRegs (withRegs th a) b = withRegs th b := rfl
theorem withPreds_twice (th : Thread) (a b : BitVec 7) : withPreds (withPreds th a) b = withPreds th b := rfl

theorem readPred_writePred {p : BitVec 7} {n : Nat} {b : Bool} (h : n < 7) : readPred (writePred p n b) n = b := by
  have h7 : n ≠ 7 := by omega
  simp only [readPred, writePred, h7, if_false]
  have e : (BitVec.ofNat 7 (2 ^ n)).getLsbD n = true := by
    rw [BitVec.getLsbD_ofNat, Nat.testBit_two_pow]
    simp [h]
  cases b
  · simp only [Bool.false_eq_true, if_false, BitVec.getLsbD_and, BitVec.getLsbD_not, e, Bool.not_true, Bool.and_false]
  · simp only [if_true, BitVec.getLsbD_or, e, Bool.or_true]

theorem readPred_writePred_other {p : BitVec 7} {n m : Nat} {b : Bool} (h : n ≠ m) (hm : m < 8) :
    readPred (writePred p n b) m = readPred p m := by
  by_cases h7 : m = 7
  · simp [readPred, h7]
  · have hm' : m < 7 := by omega
    simp only [readPred, h7, if_false, writePred]
    split
    · rfl
    · have e : (BitVec.ofNat 7 (2 ^ n)).getLsbD m = false := by
        rw [BitVec.getLsbD_ofNat, Nat.testBit_two_pow]
        simp [h]
      cases b
      · simp only [Bool.false_eq_true, if_false, BitVec.getLsbD_and, BitVec.getLsbD_not, e, hm', decide_true, Bool.not_false,
          Bool.and_self, Bool.and_true]
      · simp only [if_true, BitVec.getLsbD_or, e, Bool.or_false]

theorem regWrites_frame (l : List (Nat × Reg)) : ∀ (p : Thread × Nat),
    (l.foldl regWrite p).1 = withRegs p.1 (l.foldl regWrite p).1.regs ∧
    (l.foldl regWrite p).1.regs.length = p.1.regs.length ∧
    (∀ n, (∀ q ∈ l, q.1 ≠ n) → readV (l.foldl regWrite p).1 n = readV p.1 n) := by
  induction l with
  | nil => intro p; exact ⟨rfl, rfl, fun _ _ => rfl⟩
  | cons q r ih =>
    intro p
    obtain ⟨h1, h2, h3⟩ := ih (regWrite p q)
    have f : (regWrite p q).1 = withRegs p.1 (regWrite p q).1.regs ∧ (regWrite p q).1.regs.length = p.1.regs.length ∧
        ∀ n, q.1 ≠ n → readV (regWrite p q).1 n = readV p.1 n := by
      unfold regWrite
      split
      · split
        · exact ⟨rfl, by simp, fun n hn => readV_writeV_other hn⟩
        · exact ⟨rfl, rfl, fun _ _ => rfl⟩
      · exact ⟨rfl, by simp, fun n hn => readV_writeV_other hn⟩
    refine ⟨?_, ?_, ?_⟩
    · simp only [List.foldl_cons]
      exact h1.trans (by rw [f.1]; rfl)
    · simp only [List.foldl_cons, h2, f.2.1]
    · intro n hn
      simp only [List.foldl_cons]
      rw [h3 n (fun x hx => hn x (List.mem_cons_of_mem _ hx)), f.2.2 n (hn q (List.mem_cons_self ..))]

theorem hazardOn_regs (th : Thread) (rs : List Reg) (b : Bool) (n : Nat) : hazardOn { th with regs := rs } b n = hazardOn th b n := rfl

theorem regWrites_value (l : List (Nat × Reg)) : ∀ (p : Thread × Nat), (l.map (·.1)).Nodup → (∀ q ∈ l, q.1 < p.1.regs.length) →
    ∀ n v, (n, v) ∈ l → readV (l.foldl regWrite p).1 n = v ∨
      (hazardOn p.1 false n = true ∧ readV (l.foldl regWrite p).1 n = readV p.1 n) := by
  induction l with
  | nil => intro p _ _ n v h; cases h
  | cons q r ih =>
    intro p hn hb n v hm
    simp only [List.map_cons, List.nodup_cons] at hn
    obtain ⟨hq, hr⟩ := hn
    have f := regWrites_frame [q] p
    simp only [List.foldl_cons, List.foldl_nil] at f
    rcases List.mem_cons.mp hm with h | h
    · subst h
      have k := (regWrites_frame r (regWrite p (n, v))).2.2 n (fun x hx hxn => hq (hxn ▸ List.mem_map_of_mem (f := (·.1)) hx))
      simp only [List.foldl_cons, k]
      unfold regWrite
      have hl := hb (n, v) (List.mem_cons_self ..)
      split
      · split
        · exact .inl (readV_writeV hl)
        · exact .inr ⟨by assumption, rfl⟩
      · exact .inl (readV_writeV hl)
    · have hne : q.1 ≠ n := fun e => hq (e ▸ (List.mem_map_of_mem (f := (·.1)) h))
      have b' : ∀ x ∈ r, x.1 < (regWrite p q).1.regs.length := by
        intro x hx; rw [f.2.1]; exact hb x (List.mem_cons_of_mem _ hx)
      have := ih (regWrite p q) hr b' n v h
      simp only [List.foldl_cons]
      have hz : hazardOn (regWrite p q).1 false n = hazardOn p.1 false n := by rw [f.1]; rfl
      rw [hz, f.2.2 n (by simpa using hne)] at this
      exact this

theorem predWrites_frame (l : List (Nat × Bool)) : ∀ (p : Thread × Nat),
    (l.foldl predWrite p).1 = withPreds p.1 (l.foldl predWrite p).1.preds ∧
    (∀ n, n < 8 → (∀ q ∈ l, q.1 ≠ n) → readPred (l.foldl predWrite p).1.preds n = readPred p.1.preds n) := by
  induction l with
  | nil => intro p; exact ⟨rfl, fun _ _ _ => rfl⟩
  | cons q r ih =>
    intro p
    obtain ⟨h1, h3⟩ := ih (predWrite p q)
    have f : (predWrite p q).1 = withPreds p.1 (predWrite p q).1.preds ∧
        ∀ n, n < 8 → q.1 ≠ n → readPred (predWrite p q).1.preds n = readPred p.1.preds n := by
      unfold predWrite
      split
      · split
        · exact ⟨rfl, fun n h8 hn => readPred_writePred_other hn h8⟩
        · exact ⟨rfl, fun _ _ _ => rfl⟩
      · exact ⟨rfl, fun n h8 hn => readPred_writePred_other hn h8⟩
    refine ⟨?_, ?_⟩
    · simp only [List.foldl_cons]
      exact h1.trans (by rw [f.1]; rfl)
    · intro n h8 hn
      simp only [List.foldl_cons]
      rw [h3 n h8 (fun x hx => hn x (List.mem_cons_of_mem _ hx)), f.2 n h8 (hn q (List.mem_cons_self ..))]

theorem predWrites_value (l : List (Nat × Bool)) : ∀ (p : Thread × Nat), (l.map (·.1)).Nodup →
    ∀ n b, n < 7 → (n, b) ∈ l → readPred (l.foldl predWrite p).1.preds n = b ∨
      (hazardOn p.1 true n = true ∧ readPred (l.foldl predWrite p).1.preds n = readPred p.1.preds n) := by
  induction l with
  | nil => intro p _ n b _ h; cases h
  | cons q r ih =>
    intro p hn n b h7 hm
    simp only [List.map_cons, List.nodup_cons] at hn
    obtain ⟨hq, hr⟩ := hn
    have f := predWrites_frame [q] p
    simp only [List.foldl_cons, List.foldl_nil] at f
    rcases List.mem_cons.mp hm with h | h
    · subst h
      have k := (predWrites_frame r (predWrite p (n, b))).2 n (by omega) (fun x hx hxn => hq (hxn ▸ List.mem_map_of_mem (f := (·.1)) hx))
      simp only [List.foldl_cons, k]
      unfold predWrite
      split
      · split
        · exact .inl (readPred_writePred h7)
        · exact .inr ⟨by assumption, rfl⟩
      · exact .inl (readPred_writePred h7)
    · have hne : q.1 ≠ n := fun e => hq (e ▸ (List.mem_map_of_mem (f := (·.1)) h))
      have := ih (predWrite p q) hr n b h7 h
      simp only [List.foldl_cons]
      have hz : hazardOn (predWrite p q).1 true n = hazardOn p.1 true n := by rw [f.1]; rfl
      rw [hz, f.2 n (by omega) (by simpa using hne)] at this
      exact this

/-- The writes as they leave the thread. -/
theorem allWrites_spec (th : Thread) (ctr : Nat) (w : Writes) (hr : (w.regs.map (·.1)).Nodup)
    (hb : ∀ q ∈ w.regs, q.1 < th.regs.length) (hp : (w.preds.map (·.1)).Nodup) :
    (∀ n v, (n, v) ∈ w.regs → readV (allWrites th ctr w).1 n = v ∨
      (hazardOn th false n = true ∧ readV (allWrites th ctr w).1 n = readV th n)) ∧
    (∀ n, (∀ q ∈ w.regs, q.1 ≠ n) → readV (allWrites th ctr w).1 n = readV th n) ∧
    (∀ n b, (n, b) ∈ w.preds → n < 7 → readPred (allWrites th ctr w).1.preds n = b ∨
      (hazardOn th true n = true ∧ readPred (allWrites th ctr w).1.preds n = readPred th.preds n)) ∧
    (∀ n, n < 8 → (∀ q ∈ w.preds, q.1 ≠ n) → readPred (allWrites th ctr w).1.preds n = readPred th.preds n) ∧
    (allWrites th ctr w).1.seed = w.seed.getD th.seed ∧
    (allWrites th ctr w).1 = { th with regs := (allWrites th ctr w).1.regs, preds := (allWrites th ctr w).1.preds,
                                       seed := (allWrites th ctr w).1.seed } := by
  obtain ⟨r1, r2, r3⟩ := regWrites_frame w.regs (th, ctr)
  obtain ⟨p1, p2⟩ := predWrites_frame w.preds (w.regs.foldl regWrite (th, ctr))
  have r4 := regWrites_value w.regs (th, ctr) hr hb
  have p3 := predWrites_value w.preds (w.regs.foldl regWrite (th, ctr)) hp
  generalize hR : w.regs.foldl regWrite (th, ctr) = R at *
  generalize hQ : w.preds.foldl predWrite R = Q at *
  simp only at r1 r2 r3 r4
  have er : Q.1.regs = R.1.regs := by rw [p1]; rfl
  have eq : ∀ n, readV Q.1 n = readV R.1 n := by intro n; simp only [readV, er]
  have e1 : R.1.preds = th.preds := by rw [r1]; rfl
  have e2 : ∀ n, hazardOn R.1 true n = hazardOn th true n := by
    intro n; rw [r1]; rfl
  have e3 : Q.1.seed = th.seed := by rw [p1]; exact (by rw [r1]; rfl : R.1.seed = th.seed)
  have e4 : Q.1 = withPreds (withRegs th R.1.regs) Q.1.preds := p1.trans (congrArg (fun x => withPreds x Q.1.preds) r1)
  simp only [e1, e2] at p2 p3
  have key : (allWrites th ctr w).1.regs = Q.1.regs ∧ (allWrites th ctr w).1.preds = Q.1.preds ∧
      (allWrites th ctr w).1.seed = w.seed.getD th.seed ∧
      (allWrites th ctr w).1 = { Q.1 with seed := w.seed.getD th.seed } := by
    unfold allWrites
    rw [hR, hQ]
    cases w.seed with
    | none => exact ⟨rfl, rfl, e3, by simp only [Option.getD_none]; rw [← e3]⟩
    | some v => exact ⟨rfl, rfl, rfl, rfl⟩
  obtain ⟨k1, k2, k3, k4⟩ := key
  have kr : ∀ n, readV (allWrites th ctr w).1 n = readV R.1 n := by
    intro n; rw [← eq n]; simp only [readV, k1]
  refine ⟨?_, ?_, ?_, ?_, k3, ?_⟩
  · intro n v h; rw [kr]; exact r4 n v h
  · intro n h; rw [kr]; exact r3 n h
  · intro n b h h7; rw [k2]; exact p3 n b h7 h
  · intro n h8 h; rw [k2]; exact p2 n h8 h
  · rw [k1, k2, k3, er]
    refine k4.trans ?_
    exact congrArg (fun (x : Thread) => ({ x with seed := w.seed.getD th.seed } : Thread)) e4

/-! ## The end of an instruction -/

/-- A thread that has retired an instruction, at an address (R149: what it may have read early stays or goes). -/
def retired (i : Instr) (sg : Sig) (wrote : Bool) (old th : Thread) (pc : W64) : Thread :=
  { advance (encOf i) sg wrote old th pc with early := if keepsEarly i then th.early else [] }

theorem retireAt_withThread {s : State} {uid tid : Nat} {t : Team} {th0 : Thread} (h : getTeam s uid = some t)
    (ht : getThread t tid = some th0) {i : Instr} (hi : isControl i = false) (sg : Sig) (wrote : Bool) (old th : Thread) (ctr : Nat)
    (pc : W64) (hg : th.st ≠ .gone) :
    retireAt (withThread s t tid th ctr) uid tid i sg wrote old pc =
      withThread s t tid (retired i sg wrote old th pc) ctr := by
  have hg' : (th.st == ThreadState.gone) = false := by simpa using hg
  simp only [retireAt, getTeam_withThread _ h, getThread_setThread ht, hg', hi, Bool.false_eq_true, if_false, setThread_twice]
  have := setTeam_twice s (setThread t tid th) (setThread t tid (retired i sg wrote old th pc)) rfl
  change setTeam (withThread s t tid th ctr) (setThread t tid (retired i sg wrote old th pc)) = _
  simp only [withThread, setTeam] at *
  simpa using this

/-- The state with other contexts. -/
def withCtxs (s : State) (cs : List Ctx) : State := { s with ctxs := cs }

/-- What an energy charge changes: the contexts, and of them the energy of this cycle. -/
theorem addDue_spec (s : State) (a n : Nat) :
    addDue s a n = withCtxs s (addDue s a n).ctxs ∧
    ∀ x, ∃ d, getCtx (addDue s a n) x = (getCtx s x).map (fun (c : Ctx) => { c with due := c.due + d }) := by
  have z : ∀ x, ∃ d, getCtx s x = (getCtx s x).map (fun (c : Ctx) => { c with due := c.due + d }) := by
    intro x; refine ⟨0, ?_⟩; cases getCtx s x <;> rfl
  unfold addDue
  split
  · exact ⟨rfl, z⟩
  · unfold modCtx
    cases hc : getCtx s a with
    | none => exact ⟨rfl, z⟩
    | some c =>
      refine ⟨rfl, ?_⟩
      intro x
      have ha := getCtx_asid hc
      by_cases hx : x = a
      · subst hx
        exact ⟨n, by rw [getCtx_setCtx hc (by exact ha), hc]; rfl⟩
      · obtain ⟨d, hd⟩ := z x
        refine ⟨d, ?_⟩
        rw [getCtx_setCtx_other]
        · exact hd
        · intro e; exact hx (by rw [← e]; exact ha)

theorem chargeIssue_spec (i : Instr) (a : Nat) (th : Thread) (s : State) :
    chargeIssue i a th s = withCtxs s (chargeIssue i a th s).ctxs ∧
    ∀ x, ∃ d, getCtx (chargeIssue i a th s) x = (getCtx s x).map (fun (c : Ctx) => { c with due := c.due + d }) := by
  have z : ∀ x, ∃ d, getCtx s x = (getCtx s x).map (fun (c : Ctx) => { c with due := c.due + d }) := by
    intro x; refine ⟨0, ?_⟩; cases getCtx s x <;> rfl
  have one := addDue_spec s a (energyWeight s 0 * 1)
  have two := addDue_spec (charge s a 0 1) a (energyWeight (charge s a 0 1) 1 * 1)
  have both : (∀ x, ∃ d, getCtx (charge (charge s a 0 1) a 1 1) x = (getCtx s x).map (fun (c : Ctx) => { c with due := c.due + d })) := by
    intro x
    obtain ⟨d1, e1⟩ := one.2 x
    obtain ⟨d2, e2⟩ := two.2 x
    refine ⟨d1 + d2, ?_⟩
    have e1' : getCtx (charge s a 0 1) x = (getCtx s x).map (fun (c : Ctx) => { c with due := c.due + d1 }) := e1
    have e2' : getCtx (charge (charge s a 0 1) a 1 1) x =
        (getCtx (charge s a 0 1) x).map (fun (c : Ctx) => { c with due := c.due + d2 }) := e2
    rw [e2', e1']
    cases getCtx s x with
    | none => rfl
    | some c => simp only [Option.map_some]; congr 2; omega
  have frame2 : charge (charge s a 0 1) a 1 1 = withCtxs s (charge (charge s a 0 1) a 1 1).ctxs := by
    have f1 : charge s a 0 1 = withCtxs s (charge s a 0 1).ctxs := one.1
    have f2 : charge (charge s a 0 1) a 1 1 = withCtxs (charge s a 0 1) (charge (charge s a 0 1) a 1 1).ctxs := two.1
    generalize (charge (charge s a 0 1) a 1 1).ctxs = D at f2 ⊢
    rw [f2, f1]
    rfl
  unfold chargeIssue
  split
  · exact ⟨rfl, z⟩
  · simp only
    split
    · exact ⟨frame2, both⟩
    · exact ⟨one.1, one.2⟩

theorem canRun_not_gone {th : Thread} (h : canRun th = true) : th.st ≠ .gone := by
  intro e
  simp [canRun, e] at h

/-- What an instruction leaves that has made its writes, and goes on. -/
theorem wrote_after {i : Instr} {s : State} {uid tid : Nat} {t : Team} {th : Thread} (hT : Turn s uid tid t th)
    (hi : isControl i = false) (sg : Sig) (wrote : Bool) (ctr : Nat) (w : Writes) (hr : (w.regs.map (·.1)).Nodup)
    (hb : ∀ q ∈ w.regs, q.1 < th.regs.length) (hp : (w.preds.map (·.1)).Nodup) :
    Wrote i s uid tid t th w (popIssue (chargeIssue i t.asid th
      (retireAt (applyWrites { s with freeCtr := ctr } uid tid w) uid tid i sg wrote th (nextPc i th)))) := by
  have hth : getThread t tid = some th := hT.thread
  rw [← withThread_self hT.team hth ctr, applyWrites_withThread hT.team hth]
  obtain ⟨a1, a2, a3, a4, a5, a6⟩ := allWrites_spec th ctr w hr hb hp
  generalize hA : allWrites th ctr w = A at *
  have hg : A.1.st ≠ .gone := by rw [a6]; exact canRun_not_gone hT.runs
  rw [retireAt_withThread hT.team hth hi sg wrote th A.1 A.2 (nextPc i th) hg]
  generalize hB : retired i sg wrote th A.1 (nextPc i th) = B
  obtain ⟨c1, c2⟩ := chargeIssue_spec i t.asid th (withThread s t tid B A.2)
  have b1 : B.regs = A.1.regs ∧ B.preds = A.1.preds ∧ B.seed = A.1.seed ∧ B.pc = nextPc i th ∧ B.st = .ready ∧
      B = { A.1 with pc := B.pc, hazards := B.hazards, pending := B.pending, stall := B.stall, drain := B.drain,
                     issued := A.1.issued + 1, age := 0, waited := 0, begun := none, released := false,
                     rel := A.1.rel.filter (fun r => !r.own), noFill := false,
                     early := if keepsEarly i then A.1.early else [], pass := false, freed := false, syncing := none,
                     reply := [], st := B.st } := by
    subst hB; exact ⟨rfl, rfl, rfl, rfl, rfl, rfl⟩
  obtain ⟨b1, b2, b3, b4, b5, b6⟩ := b1
  have rv : ∀ n, readV B n = readV A.1 n := by intro n; simp only [readV, b1]
  refine ⟨⟨B, ?_, ⟨b4, ?_, ?_, ?_, ?_, ?_, b5, ?_⟩⟩, ?_, ?_, ?_⟩
  · rw [c1]
    exact getTeam_withThread (ctr := A.2) B hT.team
  · intro n r h; rw [rv]; exact a1 n r h
  · intro n h; rw [rv]; exact a2 n h
  · intro n b h h7; rw [b2]; exact a3 n b h h7
  · intro n h8 h; rw [b2]; exact a4 n h8 h
  · rw [b3]; exact a5
  · rw [b1, b2, b3]
    conv => lhs; rw [b6]
    conv => lhs; rw [a6]
  · intro u hu
    rw [c1]
    exact getTeam_withThread_other (ctr := A.2) B hT.team hu
  · intro a
    obtain ⟨d, hd⟩ := c2 a
    exact ⟨d, hd⟩
  · generalize chargeIssue i t.asid th (withThread s t tid B A.2) = C at c1 ⊢
    rw [c1]
    rfl

/-- A list of register writes that lies in [d, d + n), each register once. -/
structure Placed (d n : Nat) (l : List (Nat × Reg)) : Prop where
  once   : (l.map (·.1)).Nodup
  inside : ∀ q ∈ l, d ≤ q.1 ∧ q.1 < d + n

theorem placed_nil (d n : Nat) : Placed d n [] := ⟨by simp, by simp⟩

theorem placed_one (d n : Nat) (r : Reg) (h : 0 < n) : Placed d n [(d, r)] := by
  refine ⟨by simp, ?_⟩
  intro q hq
  rw [List.mem_singleton] at hq
  subst hq
  exact ⟨Nat.le_refl _, by simp only; omega⟩

theorem placed_two (d n : Nat) (r q : Reg) (h : 1 < n) : Placed d n [(d, r), (d + 1, q)] := by
  refine ⟨by simp, ?_⟩
  intro x hx
  rcases List.mem_cons.mp hx with h1 | h1
  · subst h1; exact ⟨Nat.le_refl _, by simp only; omega⟩
  · rw [List.mem_singleton] at h1; subst h1; exact ⟨by simp, by simp only; omega⟩

theorem placed_result32 (d n : Nat) (v : W32) (t : Tag) (h : 0 < n) : Placed d n (result32 d v t) := placed_one d n _ h
theorem placed_result64 (d n : Nat) (v : W64) (t : Tag) (h : 1 < n) : Placed d n (result64 d v t) := placed_two d n _ _ h

theorem placed_resultAs (t : BitVec 6) (d n : Nat) (v : W64) (h : (tyTags t).length ≤ n ∨ (ty64 t || t == 0x11) = true ∧ 1 < n ∨
    (ty64 t || t == 0x11) = false ∧ 0 < n) : Placed d n (resultAs t d v) := by
  unfold resultAs
  split
  · rename_i a b e
    refine placed_two d n _ _ ?_
    rcases h with h | h | h
    · rw [e] at h; exact h
    · exact h.2
    · simp only [tyTags] at e
      have h1 := h.1
      simp only [Bool.or_eq_false_iff] at h1
      repeat' split at e
      all_goals simp_all
  · rename_i a r hn e
    refine placed_one d n _ ?_
    rcases h with h | h | h
    · rw [e] at h; simp at h; omega
    · omega
    · exact h.2
  · exact placed_nil d n

/-- Registers d to d + n - 1, one write each. -/
theorem placed_range (d n m : Nat) (f : Nat → Reg) (h : n ≤ m) : Placed d m ((List.range n).map (fun j => (d + j, f j))) := by
  refine ⟨?_, ?_⟩
  · rw [List.map_map]
    have : ((fun x => x.1) ∘ fun j => (d + j, f j)) = fun j => d + j := rfl
    rw [this]
    rw [List.Nodup, List.pairwise_map]
    exact List.Pairwise.imp (fun h e => h (by omega)) List.nodup_range
  · intro q hq
    obtain ⟨j, hj, rfl⟩ := List.mem_map.mp hq
    have := List.mem_range.mp hj
    exact ⟨by simp, by simp only; omega⟩

/-- An instruction whose meaning is its writes computes them (R76, R72), and changes nothing else. -/
theorem computes_of_runAlu {i : Instr} {sg : Sig} {w : Cur → Writes} (he : ∀ s, exec i s = runAlu i sg w s)
    (hi : isControl i = false) (hp : ∀ c, ((w c).preds.map (·.1)).Nodup)
    (hb : ∀ c, (w c).regs = [] ∨ ∃ u ∈ sg.regs, u.k = false ∧ Placed u.num u.n (w c).regs) : Computes i sg w := by
  intro s uid tid t th hT hP
  refine ⟨_, by rw [he s]; exact run_done (eff := fun st u d c => .done (applyWrites st u d (w c))) hT hP rfl, ?_⟩
  refine wrote_after hT hi sg true _ _ ?_ ?_ (hp _)
  · rcases hb (curOf s t th) with h | ⟨u, -, -, h⟩
    · rw [h]; simp
    · exact h.once
  · intro q hq
    rcases hb (curOf s t th) with h | ⟨u, hu, hk, h⟩
    · rw [h] at hq; cases hq
    · have hlt := (h.inside q hq).2
      have := hP.operands.regs
      simp only [badReg, List.map_eq_nil_iff, List.filter_eq_nil_iff] at this
      have := this u hu
      simp [hk] at this
      omega

/-- One that writes registers from `d` up, its destination. -/
theorem computes_regs {i : Instr} {sg : Sig} {w : Cur → Writes} (d n : Nat) (he : ∀ s, exec i s = runAlu i sg w s)
    (hi : isControl i = false) (hd : ({ k := false, num := d, n := n, wr := true } : RegUse) ∈ sg.regs)
    (hp : ∀ c, (w c).preds.length ≤ 1) (hb : ∀ c, Placed d n (w c).regs) : Computes i sg w := by
  refine computes_of_runAlu he hi ?_ (fun c => .inr ⟨_, hd, rfl, hb c⟩)
  intro c
  have := hp c
  match h : (w c).preds with
  | [] => simp
  | [x] => simp
  | _ :: _ :: _ => rw [h] at this; simp at this

/-- One that writes predicates only. -/
theorem computes_preds {i : Instr} {sg : Sig} {w : Cur → Writes} (he : ∀ s, exec i s = runAlu i sg w s)
    (hi : isControl i = false) (hp : ∀ c, ((w c).preds.map (·.1)).Nodup) (hb : ∀ c, (w c).regs = []) : Computes i sg w :=
  computes_of_runAlu he hi hp (fun c => .inl (hb c))

end Sys2Proof.Machine
end

