-- ==== Sys2Proof/Laws/PerInstr.lean ====
section
/-! SUPPORT. What holds of each instruction by itself: the decoder's tables and the opcode map agree (R77). -/

namespace Sys2Proof.Laws.Opcode

open Sys2Proof

/-- The opcode that the map gives an instruction fits OPC, and the decoder reads it, with the instruction's fields, as that
instruction; a 96-bit form is CM exactly where the decoder takes it so. -/
def Statement (i : Instr) : Prop :=
  match i.view with
  | .short opc _ o => opc < 256 ∧ shortInstr opc o = some i
  | .long opc _ _ o =>
    opc < 256 ∧ (i.allocated = true → longInstr opc o = some i ∧ (o.form = .cm → isCm opc = true) ∧ (o.form = .c → isCm opc = false))
  | .event => encode i = none

/-- An allocated form is one that its row lists. -/
theorem formOf {fs : List Form} {ss : List Nat} {o : Long}
    (h : (rowsOf fs ss).any (fun r => r.1 == o.form && r.2.contains o.sub.toNat) = true) : o.form ∈ fs ∧ o.sub.toNat ∈ ss := by
  simp only [rowsOf, List.any_map, List.any_eq_true, Function.comp, Bool.and_eq_true, beq_iff_eq, List.contains_iff_mem] at h
  obtain ⟨f, hf, he, hs⟩ := h
  exact ⟨he ▸ hf, hs⟩

theorem read44 (o : Long) : longInstr 0x44 o = (match o.sub.toNat with
    | 0 => some (.pmov o)
    | 1 => some (.pmovSave o)
    | 2 => some (.pmovLoad o)
    | _ => none) := rfl
theorem readB1 (o : Long) : longInstr 0xB1 o = (match o.sub.toNat with
    | 0 => some (.flushIcache o)
    | 1 => some (.flushNear o)
    | 2 => some (.flushWcb o)
    | _ => none) := rfl
theorem readD0 (o : Long) : longInstr 0xD0 o = (match o.sub.toNat with
    | 0 => some (.barInit o)
    | 1 => some (.barExp o)
    | 2 => some (.barArv o)
    | 3 => some (.barWait o)
    | 4 => some (.barSync o)
    | 5 => some (.barTest o)
    | _ => none) := rfl
theorem readDE (o : Long) : longInstr 0xDE o = (match o.sub.toNat with
    | 0 => some (.sidrop o)
    | 1 => some (.sidropAll o)
    | _ => none) := rfl
theorem readE5 (o : Long) : longInstr 0xE5 o = (match o.sub.toNat with
    | 0 => some (.tkdepAdd o)
    | 1 => some (.tkdepRel o)
    | _ => none) := rfl
theorem readE8 (o : Long) : longInstr 0xE8 o = (match o.sub.toNat with
    | 0 => some (.launch o)
    | 1 => some (.launchTry o)
    | _ => none) := rfl
theorem readE9 (o : Long) : longInstr 0xE9 o = (match o.sub.toNat with
    | 0 => some (.join o)
    | 1 => some (.joinAll o)
    | 2 => some (.joinRng o)
    | _ => none) := rfl
theorem readF6 (o : Long) : longInstr 0xF6 o = (match o.sub.toNat with
    | 0 => some (.hqbind o)
    | 1 => some (.hqbindOff o)
    | _ => none) := rfl
theorem readF7 (o : Long) : longInstr 0xF7 o = (match o.sub.toNat with
    | 0 => some (.hqpop o)
    | 1 => some (.hqpopWait o)
    | _ => none) := rfl

theorem iaddA (o : Short) : Statement (.iaddA o) := ⟨by decide, rfl⟩
theorem iadd (o : Long) : Statement (.iadd o) :=
  ⟨by decide, fun h => ⟨rfl,
    fun hf => absurd (hf ▸ (formOf h).1) (by decide), fun _ => by decide⟩⟩
theorem isubA (o : Short) : Statement (.isubA o) := ⟨by decide, rfl⟩
theorem isub (o : Long) : Statement (.isub o) :=
  ⟨by decide, fun h => ⟨rfl,
    fun hf => absurd (hf ▸ (formOf h).1) (by decide), fun _ => by decide⟩⟩
theorem iaddc (o : Long) : Statement (.iaddc o) :=
  ⟨by decide, fun h => ⟨rfl,
    fun hf => absurd (hf ▸ (formOf h).1) (by decide), fun _ => by decide⟩⟩
theorem isubb (o : Long) : Statement (.isubb o) :=
  ⟨by decide, fun h => ⟨rfl,
    fun hf => absurd (hf ▸ (formOf h).1) (by decide), fun _ => by decide⟩⟩
theorem imulA (o : Short) : Statement (.imulA o) := ⟨by decide, rfl⟩
theorem imul (o : Long) : Statement (.imul o) :=
  ⟨by decide, fun h => ⟨rfl,
    fun hf => absurd (hf ▸ (formOf h).1) (by decide), fun _ => by decide⟩⟩
theorem imulh (o : Long) : Statement (.imulh o) :=
  ⟨by decide, fun h => ⟨rfl,
    fun hf => absurd (hf ▸ (formOf h).1) (by decide), fun _ => by decide⟩⟩
theorem imad (o : Long) : Statement (.imad o) :=
  ⟨by decide, fun h => ⟨rfl,
    fun hf => absurd (hf ▸ (formOf h).1) (by decide), fun _ => by decide⟩⟩
theorem iminA (o : Short) : Statement (.iminA o) := ⟨by decide, rfl⟩
theorem imin (o : Long) : Statement (.imin o) :=
  ⟨by decide, fun h => ⟨rfl,
    fun hf => absurd (hf ▸ (formOf h).1) (by decide), fun _ => by decide⟩⟩
theorem imaxA (o : Short) : Statement (.imaxA o) := ⟨by decide, rfl⟩
theorem imax (o : Long) : Statement (.imax o) :=
  ⟨by decide, fun h => ⟨rfl,
    fun hf => absurd (hf ▸ (formOf h).1) (by decide), fun _ => by decide⟩⟩
theorem iabsA (o : Short) : Statement (.iabsA o) := ⟨by decide, rfl⟩
theorem iabs (o : Long) : Statement (.iabs o) :=
  ⟨by decide, fun h => ⟨rfl,
    fun hf => absurd (hf ▸ (formOf h).1) (by decide), fun _ => by decide⟩⟩
theorem inegA (o : Short) : Statement (.inegA o) := ⟨by decide, rfl⟩
theorem ineg (o : Long) : Statement (.ineg o) :=
  ⟨by decide, fun h => ⟨rfl,
    fun hf => absurd (hf ▸ (formOf h).1) (by decide), fun _ => by decide⟩⟩
theorem iset (o : Long) : Statement (.iset o) :=
  ⟨by decide, fun h => ⟨rfl,
    fun hf => absurd (hf ▸ (formOf h).1) (by decide), fun _ => by decide⟩⟩
theorem andA (o : Short) : Statement (.andA o) := ⟨by decide, rfl⟩
theorem and (o : Long) : Statement (.and o) :=
  ⟨by decide, fun h => ⟨rfl,
    fun hf => absurd (hf ▸ (formOf h).1) (by decide), fun _ => by decide⟩⟩
theorem orA (o : Short) : Statement (.orA o) := ⟨by decide, rfl⟩
theorem or (o : Long) : Statement (.or o) :=
  ⟨by decide, fun h => ⟨rfl,
    fun hf => absurd (hf ▸ (formOf h).1) (by decide), fun _ => by decide⟩⟩
theorem xorA (o : Short) : Statement (.xorA o) := ⟨by decide, rfl⟩
theorem xor (o : Long) : Statement (.xor o) :=
  ⟨by decide, fun h => ⟨rfl,
    fun hf => absurd (hf ▸ (formOf h).1) (by decide), fun _ => by decide⟩⟩
theorem andnA (o : Short) : Statement (.andnA o) := ⟨by decide, rfl⟩
theorem andn (o : Long) : Statement (.andn o) :=
  ⟨by decide, fun h => ⟨rfl,
    fun hf => absurd (hf ▸ (formOf h).1) (by decide), fun _ => by decide⟩⟩
theorem notA (o : Short) : Statement (.notA o) := ⟨by decide, rfl⟩
theorem not (o : Long) : Statement (.not o) :=
  ⟨by decide, fun h => ⟨rfl,
    fun hf => absurd (hf ▸ (formOf h).1) (by decide), fun _ => by decide⟩⟩
theorem shlAi (o : Short) : Statement (.shlAi o) := ⟨by decide, rfl⟩
theorem shl (o : Long) : Statement (.shl o) :=
  ⟨by decide, fun h => ⟨rfl,
    fun hf => absurd (hf ▸ (formOf h).1) (by decide), fun _ => by decide⟩⟩
theorem shrAi (o : Short) : Statement (.shrAi o) := ⟨by decide, rfl⟩
theorem shr (o : Long) : Statement (.shr o) :=
  ⟨by decide, fun h => ⟨rfl,
    fun hf => absurd (hf ▸ (formOf h).1) (by decide), fun _ => by decide⟩⟩
theorem sarAi (o : Short) : Statement (.sarAi o) := ⟨by decide, rfl⟩
theorem sar (o : Long) : Statement (.sar o) :=
  ⟨by decide, fun h => ⟨rfl,
    fun hf => absurd (hf ▸ (formOf h).1) (by decide), fun _ => by decide⟩⟩
theorem rolAi (o : Short) : Statement (.rolAi o) := ⟨by decide, rfl⟩
theorem rol (o : Long) : Statement (.rol o) :=
  ⟨by decide, fun h => ⟨rfl,
    fun hf => absurd (hf ▸ (formOf h).1) (by decide), fun _ => by decide⟩⟩
theorem rorAi (o : Short) : Statement (.rorAi o) := ⟨by decide, rfl⟩
theorem ror (o : Long) : Statement (.ror o) :=
  ⟨by decide, fun h => ⟨rfl,
    fun hf => absurd (hf ▸ (formOf h).1) (by decide), fun _ => by decide⟩⟩
theorem popcA (o : Short) : Statement (.popcA o) := ⟨by decide, rfl⟩
theorem popc (o : Long) : Statement (.popc o) :=
  ⟨by decide, fun h => ⟨rfl,
    fun hf => absurd (hf ▸ (formOf h).1) (by decide), fun _ => by decide⟩⟩
theorem clzA (o : Short) : Statement (.clzA o) := ⟨by decide, rfl⟩
theorem clz (o : Long) : Statement (.clz o) :=
  ⟨by decide, fun h => ⟨rfl,
    fun hf => absurd (hf ▸ (formOf h).1) (by decide), fun _ => by decide⟩⟩
theorem ctzA (o : Short) : Statement (.ctzA o) := ⟨by decide, rfl⟩
theorem ctz (o : Long) : Statement (.ctz o) :=
  ⟨by decide, fun h => ⟨rfl,
    fun hf => absurd (hf ▸ (formOf h).1) (by decide), fun _ => by decide⟩⟩
theorem brevA (o : Short) : Statement (.brevA o) := ⟨by decide, rfl⟩
theorem brev (o : Long) : Statement (.brev o) :=
  ⟨by decide, fun h => ⟨rfl,
    fun hf => absurd (hf ▸ (formOf h).1) (by decide), fun _ => by decide⟩⟩
theorem bfx (o : Long) : Statement (.bfx o) :=
  ⟨by decide, fun h => ⟨rfl,
    fun hf => absurd (hf ▸ (formOf h).1) (by decide), fun _ => by decide⟩⟩
theorem bfi (o : Long) : Statement (.bfi o) :=
  ⟨by decide, fun h => ⟨rfl,
    fun hf => absurd (hf ▸ (formOf h).1) (by decide), fun _ => by decide⟩⟩
theorem prmt (o : Long) : Statement (.prmt o) :=
  ⟨by decide, fun h => ⟨rfl,
    fun hf => absurd (hf ▸ (formOf h).1) (by decide), fun _ => by decide⟩⟩
theorem sel (o : Long) : Statement (.sel o) :=
  ⟨by decide, fun h => ⟨rfl,
    fun hf => absurd (hf ▸ (formOf h).1) (by decide), fun _ => by decide⟩⟩
theorem movA (o : Short) : Statement (.movA o) := ⟨by decide, rfl⟩
theorem mov (o : Long) : Statement (.mov o) :=
  ⟨by decide, fun h => ⟨rfl,
    fun hf => absurd (hf ▸ (formOf h).1) (by decide), fun _ => by decide⟩⟩
theorem moviAi (o : Short) : Statement (.moviAi o) := ⟨by decide, rfl⟩
theorem movi (o : Long) : Statement (.movi o) :=
  ⟨by decide, fun h => ⟨rfl,
    fun hf => absurd (hf ▸ (formOf h).1) (by decide), fun _ => by decide⟩⟩
theorem movl (o : Long) : Statement (.movl o) :=
  ⟨by decide, fun h => ⟨rfl,
    fun hf => absurd (hf ▸ (formOf h).1) (by decide), fun _ => by decide⟩⟩
theorem lea (o : Long) : Statement (.lea o) :=
  ⟨by decide, fun h => ⟨rfl,
    fun hf => absurd (hf ▸ (formOf h).1) (by decide), fun _ => by decide⟩⟩
theorem pand (o : Long) : Statement (.pand o) :=
  ⟨by decide, fun h => ⟨rfl,
    fun hf => absurd (hf ▸ (formOf h).1) (by decide), fun _ => by decide⟩⟩
theorem por (o : Long) : Statement (.por o) :=
  ⟨by decide, fun h => ⟨rfl,
    fun hf => absurd (hf ▸ (formOf h).1) (by decide), fun _ => by decide⟩⟩
theorem pxor (o : Long) : Statement (.pxor o) :=
  ⟨by decide, fun h => ⟨rfl,
    fun hf => absurd (hf ▸ (formOf h).1) (by decide), fun _ => by decide⟩⟩
theorem pnot (o : Long) : Statement (.pnot o) :=
  ⟨by decide, fun h => ⟨rfl,
    fun hf => absurd (hf ▸ (formOf h).1) (by decide), fun _ => by decide⟩⟩
theorem pmov (o : Long) : Statement (.pmov o) :=
  ⟨by decide, fun h => ⟨by rw [read44, List.mem_singleton.mp (formOf h).2]; rfl,
    fun hf => absurd (hf ▸ (formOf h).1) (by decide), fun _ => by decide⟩⟩
theorem pmovSave (o : Long) : Statement (.pmovSave o) :=
  ⟨by decide, fun h => ⟨by rw [read44, List.mem_singleton.mp (formOf h).2]; rfl,
    fun hf => absurd (hf ▸ (formOf h).1) (by decide), fun _ => by decide⟩⟩
theorem pmovLoad (o : Long) : Statement (.pmovLoad o) :=
  ⟨by decide, fun h => ⟨by rw [read44, List.mem_singleton.mp (formOf h).2]; rfl,
    fun hf => absurd (hf ▸ (formOf h).1) (by decide), fun _ => by decide⟩⟩
theorem vote (o : Long) : Statement (.vote o) :=
  ⟨by decide, fun h => ⟨rfl,
    fun hf => absurd (hf ▸ (formOf h).1) (by decide), fun _ => by decide⟩⟩
theorem shfl (o : Long) : Statement (.shfl o) :=
  ⟨by decide, fun h => ⟨rfl,
    fun hf => absurd (hf ▸ (formOf h).1) (by decide), fun _ => by decide⟩⟩
theorem gred (o : Long) : Statement (.gred o) :=
  ⟨by decide, fun h => ⟨rfl,
    fun hf => absurd (hf ▸ (formOf h).1) (by decide), fun _ => by decide⟩⟩
theorem gscan (o : Long) : Statement (.gscan o) :=
  ⟨by decide, fun h => ⟨rfl,
    fun hf => absurd (hf ▸ (formOf h).1) (by decide), fun _ => by decide⟩⟩
theorem matchG (o : Long) : Statement (.matchG o) :=
  ⟨by decide, fun h => ⟨rfl,
    fun hf => absurd (hf ▸ (formOf h).1) (by decide), fun _ => by decide⟩⟩
theorem elect (o : Long) : Statement (.elect o) :=
  ⟨by decide, fun h => ⟨rfl,
    fun hf => absurd (hf ▸ (formOf h).1) (by decide), fun _ => by decide⟩⟩
theorem bra (o : Long) : Statement (.bra o) :=
  ⟨by decide, fun h => ⟨rfl,
    fun _ => by decide, fun hf => absurd (hf ▸ (formOf h).1) (by decide)⟩⟩
theorem brx (o : Long) : Statement (.brx o) :=
  ⟨by decide, fun h => ⟨rfl,
    fun hf => absurd (hf ▸ (formOf h).1) (by decide), fun _ => by decide⟩⟩
theorem land (o : Short) : Statement (.land o) := ⟨by decide, rfl⟩
theorem call (o : Long) : Statement (.call o) :=
  ⟨by decide, fun h => ⟨rfl,
    fun _ => by decide, fun hf => absurd (hf ▸ (formOf h).1) (by decide)⟩⟩
theorem callx (o : Long) : Statement (.callx o) :=
  ⟨by decide, fun h => ⟨rfl,
    fun hf => absurd (hf ▸ (formOf h).1) (by decide), fun _ => by decide⟩⟩
theorem ret (o : Short) : Statement (.ret o) := ⟨by decide, rfl⟩
theorem switch (o : Long) : Statement (.switch o) :=
  ⟨by decide, fun h => ⟨rfl,
    fun hf => absurd (hf ▸ (formOf h).1) (by decide), fun _ => by decide⟩⟩
theorem reconv (o : Short) : Statement (.reconv o) := ⟨by decide, rfl⟩
theorem exit (o : Short) : Statement (.exit o) := ⟨by decide, rfl⟩
theorem tail (o : Short) : Statement (.tail o) := ⟨by decide, rfl⟩
theorem yield (o : Short) : Statement (.yield o) := ⟨by decide, rfl⟩
theorem pause (o : Short) : Statement (.pause o) := ⟨by decide, rfl⟩
theorem nopA (o : Short) : Statement (.nopA o) := ⟨by decide, rfl⟩
theorem nop (o : Long) : Statement (.nop o) :=
  ⟨by decide, fun h => ⟨rfl,
    fun hf => absurd (hf ▸ (formOf h).1) (by decide), fun _ => by decide⟩⟩
theorem trap (o : Short) : Statement (.trap o) := ⟨by decide, rfl⟩
theorem bkpt (o : Short) : Statement (.bkpt o) := ⟨by decide, rfl⟩
theorem hret (o : Short) : Statement (.hret o) := ⟨by decide, rfl⟩
theorem faddA (o : Short) : Statement (.faddA o) := ⟨by decide, rfl⟩
theorem fadd (o : Long) : Statement (.fadd o) :=
  ⟨by decide, fun h => ⟨rfl,
    fun hf => absurd (hf ▸ (formOf h).1) (by decide), fun _ => by decide⟩⟩
theorem fsubA (o : Short) : Statement (.fsubA o) := ⟨by decide, rfl⟩
theorem fsub (o : Long) : Statement (.fsub o) :=
  ⟨by decide, fun h => ⟨rfl,
    fun hf => absurd (hf ▸ (formOf h).1) (by decide), fun _ => by decide⟩⟩
theorem fmulA (o : Short) : Statement (.fmulA o) := ⟨by decide, rfl⟩
theorem fmul (o : Long) : Statement (.fmul o) :=
  ⟨by decide, fun h => ⟨rfl,
    fun hf => absurd (hf ▸ (formOf h).1) (by decide), fun _ => by decide⟩⟩
theorem ffma (o : Long) : Statement (.ffma o) :=
  ⟨by decide, fun h => ⟨rfl,
    fun hf => absurd (hf ▸ (formOf h).1) (by decide), fun _ => by decide⟩⟩
theorem fminA (o : Short) : Statement (.fminA o) := ⟨by decide, rfl⟩
theorem fmin (o : Long) : Statement (.fmin o) :=
  ⟨by decide, fun h => ⟨rfl,
    fun hf => absurd (hf ▸ (formOf h).1) (by decide), fun _ => by decide⟩⟩
theorem fmaxA (o : Short) : Statement (.fmaxA o) := ⟨by decide, rfl⟩
theorem fmax (o : Long) : Statement (.fmax o) :=
  ⟨by decide, fun h => ⟨rfl,
    fun hf => absurd (hf ▸ (formOf h).1) (by decide), fun _ => by decide⟩⟩
theorem fset (o : Long) : Statement (.fset o) :=
  ⟨by decide, fun h => ⟨rfl,
    fun hf => absurd (hf ▸ (formOf h).1) (by decide), fun _ => by decide⟩⟩
theorem frcpA (o : Short) : Statement (.frcpA o) := ⟨by decide, rfl⟩
theorem frcp (o : Long) : Statement (.frcp o) :=
  ⟨by decide, fun h => ⟨rfl,
    fun hf => absurd (hf ▸ (formOf h).1) (by decide), fun _ => by decide⟩⟩
theorem frsqA (o : Short) : Statement (.frsqA o) := ⟨by decide, rfl⟩
theorem frsq (o : Long) : Statement (.frsq o) :=
  ⟨by decide, fun h => ⟨rfl,
    fun hf => absurd (hf ▸ (formOf h).1) (by decide), fun _ => by decide⟩⟩
theorem fsqrtA (o : Short) : Statement (.fsqrtA o) := ⟨by decide, rfl⟩
theorem fsqrt (o : Long) : Statement (.fsqrt o) :=
  ⟨by decide, fun h => ⟨rfl,
    fun hf => absurd (hf ▸ (formOf h).1) (by decide), fun _ => by decide⟩⟩
theorem fdivA (o : Short) : Statement (.fdivA o) := ⟨by decide, rfl⟩
theorem fdiv (o : Long) : Statement (.fdiv o) :=
  ⟨by decide, fun h => ⟨rfl,
    fun hf => absurd (hf ▸ (formOf h).1) (by decide), fun _ => by decide⟩⟩
theorem fex2A (o : Short) : Statement (.fex2A o) := ⟨by decide, rfl⟩
theorem fex2 (o : Long) : Statement (.fex2 o) :=
  ⟨by decide, fun h => ⟨rfl,
    fun hf => absurd (hf ▸ (formOf h).1) (by decide), fun _ => by decide⟩⟩
theorem flg2A (o : Short) : Statement (.flg2A o) := ⟨by decide, rfl⟩
theorem flg2 (o : Long) : Statement (.flg2 o) :=
  ⟨by decide, fun h => ⟨rfl,
    fun hf => absurd (hf ▸ (formOf h).1) (by decide), fun _ => by decide⟩⟩
theorem fsinA (o : Short) : Statement (.fsinA o) := ⟨by decide, rfl⟩
theorem fsin (o : Long) : Statement (.fsin o) :=
  ⟨by decide, fun h => ⟨rfl,
    fun hf => absurd (hf ▸ (formOf h).1) (by decide), fun _ => by decide⟩⟩
theorem fcosA (o : Short) : Statement (.fcosA o) := ⟨by decide, rfl⟩
theorem fcos (o : Long) : Statement (.fcos o) :=
  ⟨by decide, fun h => ⟨rfl,
    fun hf => absurd (hf ▸ (formOf h).1) (by decide), fun _ => by decide⟩⟩
theorem frndA (o : Short) : Statement (.frndA o) := ⟨by decide, rfl⟩
theorem frnd (o : Long) : Statement (.frnd o) :=
  ⟨by decide, fun h => ⟨rfl,
    fun hf => absurd (hf ▸ (formOf h).1) (by decide), fun _ => by decide⟩⟩
theorem ffrcA (o : Short) : Statement (.ffrcA o) := ⟨by decide, rfl⟩
theorem ffrc (o : Long) : Statement (.ffrc o) :=
  ⟨by decide, fun h => ⟨rfl,
    fun hf => absurd (hf ▸ (formOf h).1) (by decide), fun _ => by decide⟩⟩
theorem fclassA (o : Short) : Statement (.fclassA o) := ⟨by decide, rfl⟩
theorem fclass (o : Long) : Statement (.fclass o) :=
  ⟨by decide, fun h => ⟨rfl,
    fun hf => absurd (hf ▸ (formOf h).1) (by decide), fun _ => by decide⟩⟩
theorem fscale (o : Long) : Statement (.fscale o) :=
  ⟨by decide, fun h => ⟨rfl,
    fun hf => absurd (hf ▸ (formOf h).1) (by decide), fun _ => by decide⟩⟩
theorem fqnt (o : Long) : Statement (.fqnt o) :=
  ⟨by decide, fun h => ⟨rfl,
    fun hf => absurd (hf ▸ (formOf h).1) (by decide), fun _ => by decide⟩⟩
theorem fdeq (o : Long) : Statement (.fdeq o) :=
  ⟨by decide, fun h => ⟨rfl,
    fun hf => absurd (hf ▸ (formOf h).1) (by decide), fun _ => by decide⟩⟩
theorem dadd (o : Long) : Statement (.dadd o) :=
  ⟨by decide, fun h => ⟨rfl,
    fun hf => absurd (hf ▸ (formOf h).1) (by decide), fun _ => by decide⟩⟩
theorem dmul (o : Long) : Statement (.dmul o) :=
  ⟨by decide, fun h => ⟨rfl,
    fun hf => absurd (hf ▸ (formOf h).1) (by decide), fun _ => by decide⟩⟩
theorem dfma (o : Long) : Statement (.dfma o) :=
  ⟨by decide, fun h => ⟨rfl,
    fun hf => absurd (hf ▸ (formOf h).1) (by decide), fun _ => by decide⟩⟩
theorem dmin (o : Long) : Statement (.dmin o) :=
  ⟨by decide, fun h => ⟨rfl,
    fun hf => absurd (hf ▸ (formOf h).1) (by decide), fun _ => by decide⟩⟩
theorem dmax (o : Long) : Statement (.dmax o) :=
  ⟨by decide, fun h => ⟨rfl,
    fun hf => absurd (hf ▸ (formOf h).1) (by decide), fun _ => by decide⟩⟩
theorem dset (o : Long) : Statement (.dset o) :=
  ⟨by decide, fun h => ⟨rfl,
    fun hf => absurd (hf ▸ (formOf h).1) (by decide), fun _ => by decide⟩⟩
theorem ddiv (o : Long) : Statement (.ddiv o) :=
  ⟨by decide, fun h => ⟨rfl,
    fun hf => absurd (hf ▸ (formOf h).1) (by decide), fun _ => by decide⟩⟩
theorem dsqrt (o : Long) : Statement (.dsqrt o) :=
  ⟨by decide, fun h => ⟨rfl,
    fun hf => absurd (hf ▸ (formOf h).1) (by decide), fun _ => by decide⟩⟩
theorem dfrnd (o : Long) : Statement (.dfrnd o) :=
  ⟨by decide, fun h => ⟨rfl,
    fun hf => absurd (hf ▸ (formOf h).1) (by decide), fun _ => by decide⟩⟩
theorem hadd2 (o : Long) : Statement (.hadd2 o) :=
  ⟨by decide, fun h => ⟨rfl,
    fun hf => absurd (hf ▸ (formOf h).1) (by decide), fun _ => by decide⟩⟩
theorem hmul2 (o : Long) : Statement (.hmul2 o) :=
  ⟨by decide, fun h => ⟨rfl,
    fun hf => absurd (hf ▸ (formOf h).1) (by decide), fun _ => by decide⟩⟩
theorem hfma2 (o : Long) : Statement (.hfma2 o) :=
  ⟨by decide, fun h => ⟨rfl,
    fun hf => absurd (hf ▸ (formOf h).1) (by decide), fun _ => by decide⟩⟩
theorem hmin2 (o : Long) : Statement (.hmin2 o) :=
  ⟨by decide, fun h => ⟨rfl,
    fun hf => absurd (hf ▸ (formOf h).1) (by decide), fun _ => by decide⟩⟩
theorem hmax2 (o : Long) : Statement (.hmax2 o) :=
  ⟨by decide, fun h => ⟨rfl,
    fun hf => absurd (hf ▸ (formOf h).1) (by decide), fun _ => by decide⟩⟩
theorem hset2 (o : Long) : Statement (.hset2 o) :=
  ⟨by decide, fun h => ⟨rfl,
    fun hf => absurd (hf ▸ (formOf h).1) (by decide), fun _ => by decide⟩⟩
theorem cvt (o : Long) : Statement (.cvt o) :=
  ⟨by decide, fun h => ⟨rfl,
    fun hf => absurd (hf ▸ (formOf h).1) (by decide), fun _ => by decide⟩⟩
theorem pack (o : Long) : Statement (.pack o) :=
  ⟨by decide, fun h => ⟨rfl,
    fun hf => absurd (hf ▸ (formOf h).1) (by decide), fun _ => by decide⟩⟩
theorem unpk (o : Long) : Statement (.unpk o) :=
  ⟨by decide, fun h => ⟨rfl,
    fun hf => absurd (hf ▸ (formOf h).1) (by decide), fun _ => by decide⟩⟩
theorem tagset (o : Long) : Statement (.tagset o) :=
  ⟨by decide, fun h => ⟨rfl,
    fun hf => absurd (hf ▸ (formOf h).1) (by decide), fun _ => by decide⟩⟩
theorem tagget (o : Long) : Statement (.tagget o) :=
  ⟨by decide, fun h => ⟨rfl,
    fun hf => absurd (hf ▸ (formOf h).1) (by decide), fun _ => by decide⟩⟩
theorem dot4 (o : Long) : Statement (.dot4 o) :=
  ⟨by decide, fun h => ⟨rfl,
    fun hf => absurd (hf ▸ (formOf h).1) (by decide), fun _ => by decide⟩⟩
theorem dot8 (o : Long) : Statement (.dot8 o) :=
  ⟨by decide, fun h => ⟨rfl,
    fun hf => absurd (hf ▸ (formOf h).1) (by decide), fun _ => by decide⟩⟩
theorem rngc (o : Long) : Statement (.rngc o) :=
  ⟨by decide, fun h => ⟨rfl,
    fun hf => absurd (hf ▸ (formOf h).1) (by decide), fun _ => by decide⟩⟩
theorem rngf (o : Long) : Statement (.rngf o) := by
  refine ⟨by decide, fun h => ⟨rfl, fun hf => ?_, fun _ => by decide⟩⟩
  simp [Instr.allocated, Instr.view, hf] at h
theorem ld (o : Long) : Statement (.ld o) :=
  ⟨by decide, fun h => ⟨rfl,
    fun _ => by decide, fun hf => absurd (hf ▸ (formOf h).1) (by decide)⟩⟩
theorem st (o : Long) : Statement (.st o) :=
  ⟨by decide, fun h => ⟨rfl,
    fun _ => by decide, fun hf => absurd (hf ▸ (formOf h).1) (by decide)⟩⟩
theorem ldk (o : Long) : Statement (.ldk o) :=
  ⟨by decide, fun h => ⟨rfl,
    fun _ => by decide, fun hf => absurd (hf ▸ (formOf h).1) (by decide)⟩⟩
theorem pref (o : Long) : Statement (.pref o) :=
  ⟨by decide, fun h => ⟨rfl,
    fun _ => by decide, fun hf => absurd (hf ▸ (formOf h).1) (by decide)⟩⟩
theorem cchk (o : Long) : Statement (.cchk o) :=
  ⟨by decide, fun h => ⟨rfl,
    fun _ => by decide, fun hf => absurd (hf ▸ (formOf h).1) (by decide)⟩⟩
theorem stn4 (o : Long) : Statement (.stn4 o) :=
  ⟨by decide, fun h => ⟨rfl,
    fun _ => by decide, fun hf => absurd (hf ▸ (formOf h).1) (by decide)⟩⟩
theorem atom (o : Long) : Statement (.atom o) :=
  ⟨by decide, fun h => ⟨rfl,
    fun _ => by decide, fun hf => absurd (hf ▸ (formOf h).1) (by decide)⟩⟩
theorem cas (o : Long) : Statement (.cas o) :=
  ⟨by decide, fun h => ⟨rfl,
    fun _ => by decide, fun hf => absurd (hf ▸ (formOf h).1) (by decide)⟩⟩
theorem fatom (o : Long) : Statement (.fatom o) :=
  ⟨by decide, fun h => ⟨rfl,
    fun _ => by decide, fun hf => absurd (hf ▸ (formOf h).1) (by decide)⟩⟩
theorem red (o : Long) : Statement (.red o) :=
  ⟨by decide, fun h => ⟨rfl,
    fun _ => by decide, fun hf => absurd (hf ▸ (formOf h).1) (by decide)⟩⟩
theorem fence (o : Long) : Statement (.fence o) :=
  ⟨by decide, fun h => ⟨rfl,
    fun hf => absurd (hf ▸ (formOf h).1) (by decide), fun _ => by decide⟩⟩
theorem flushIcache (o : Long) : Statement (.flushIcache o) :=
  ⟨by decide, fun h => ⟨by rw [readB1, List.mem_singleton.mp (formOf h).2]; rfl,
    fun _ => by decide, fun hf => absurd (hf ▸ (formOf h).1) (by decide)⟩⟩
theorem flushNear (o : Long) : Statement (.flushNear o) :=
  ⟨by decide, fun h => ⟨by rw [readB1, List.mem_singleton.mp (formOf h).2]; rfl,
    fun _ => by decide, fun hf => absurd (hf ▸ (formOf h).1) (by decide)⟩⟩
theorem flushWcb (o : Long) : Statement (.flushWcb o) :=
  ⟨by decide, fun h => ⟨by rw [readB1, List.mem_singleton.mp (formOf h).2]; rfl,
    fun _ => by decide, fun hf => absurd (hf ▸ (formOf h).1) (by decide)⟩⟩
theorem swarm (o : Long) : Statement (.swarm o) :=
  ⟨by decide, fun h => ⟨rfl,
    fun _ => by decide, fun hf => absurd (hf ▸ (formOf h).1) (by decide)⟩⟩
theorem swwait (o : Long) : Statement (.swwait o) :=
  ⟨by decide, fun h => ⟨rfl,
    fun _ => by decide, fun hf => absurd (hf ▸ (formOf h).1) (by decide)⟩⟩
theorem swadd (o : Long) : Statement (.swadd o) :=
  ⟨by decide, fun h => ⟨rfl,
    fun _ => by decide, fun hf => absurd (hf ▸ (formOf h).1) (by decide)⟩⟩
theorem swread (o : Long) : Statement (.swread o) :=
  ⟨by decide, fun h => ⟨rfl,
    fun _ => by decide, fun hf => absurd (hf ▸ (formOf h).1) (by decide)⟩⟩
theorem barInit (o : Long) : Statement (.barInit o) :=
  ⟨by decide, fun h => ⟨by rw [readD0, List.mem_singleton.mp (formOf h).2]; rfl,
    fun hf => absurd (hf ▸ (formOf h).1) (by decide), fun _ => by decide⟩⟩
theorem barExp (o : Long) : Statement (.barExp o) :=
  ⟨by decide, fun h => ⟨by rw [readD0, List.mem_singleton.mp (formOf h).2]; rfl,
    fun hf => absurd (hf ▸ (formOf h).1) (by decide), fun _ => by decide⟩⟩
theorem barArv (o : Long) : Statement (.barArv o) :=
  ⟨by decide, fun h => ⟨by rw [readD0, List.mem_singleton.mp (formOf h).2]; rfl,
    fun hf => absurd (hf ▸ (formOf h).1) (by decide), fun _ => by decide⟩⟩
theorem barWait (o : Long) : Statement (.barWait o) :=
  ⟨by decide, fun h => ⟨by rw [readD0, List.mem_singleton.mp (formOf h).2]; rfl,
    fun hf => absurd (hf ▸ (formOf h).1) (by decide), fun _ => by decide⟩⟩
theorem barSync (o : Long) : Statement (.barSync o) :=
  ⟨by decide, fun h => ⟨by rw [readD0, List.mem_singleton.mp (formOf h).2]; rfl,
    fun hf => absurd (hf ▸ (formOf h).1) (by decide), fun _ => by decide⟩⟩
theorem barTest (o : Long) : Statement (.barTest o) :=
  ⟨by decide, fun h => ⟨by rw [readD0, List.mem_singleton.mp (formOf h).2]; rfl,
    fun hf => absurd (hf ▸ (formOf h).1) (by decide), fun _ => by decide⟩⟩
theorem mma (o : Long) : Statement (.mma o) :=
  ⟨by decide, fun h => ⟨rfl,
    fun hf => absurd (hf ▸ (formOf h).1) (by decide), fun _ => by decide⟩⟩
theorem mmac (o : Long) : Statement (.mmac o) :=
  ⟨by decide, fun h => ⟨rfl,
    fun hf => absurd (hf ▸ (formOf h).1) (by decide), fun _ => by decide⟩⟩
theorem accrd (o : Long) : Statement (.accrd o) :=
  ⟨by decide, fun h => ⟨rfl,
    fun hf => absurd (hf ▸ (formOf h).1) (by decide), fun _ => by decide⟩⟩
theorem accwr (o : Long) : Statement (.accwr o) :=
  ⟨by decide, fun h => ⟨rfl,
    fun hf => absurd (hf ▸ (formOf h).1) (by decide), fun _ => by decide⟩⟩
theorem accclr (o : Long) : Statement (.accclr o) :=
  ⟨by decide, fun h => ⟨rfl,
    fun hf => absurd (hf ▸ (formOf h).1) (by decide), fun _ => by decide⟩⟩
theorem accst (o : Long) : Statement (.accst o) :=
  ⟨by decide, fun h => ⟨rfl,
    fun hf => absurd (hf ▸ (formOf h).1) (by decide), fun _ => by decide⟩⟩
theorem copy (o : Long) : Statement (.copy o) :=
  ⟨by decide, fun h => ⟨rfl,
    fun hf => absurd (hf ▸ (formOf h).1) (by decide), fun _ => by decide⟩⟩
theorem copyt (o : Long) : Statement (.copyt o) :=
  ⟨by decide, fun h => ⟨rfl,
    fun hf => absurd (hf ▸ (formOf h).1) (by decide), fun _ => by decide⟩⟩
theorem coll (o : Long) : Statement (.coll o) :=
  ⟨by decide, fun h => ⟨rfl,
    fun hf => absurd (hf ▸ (formOf h).1) (by decide), fun _ => by decide⟩⟩
theorem sireg (o : Long) : Statement (.sireg o) :=
  ⟨by decide, fun h => ⟨rfl,
    fun hf => absurd (hf ▸ (formOf h).1) (by decide), fun _ => by decide⟩⟩
theorem sidrop (o : Long) : Statement (.sidrop o) :=
  ⟨by decide, fun h => ⟨by rw [readDE, List.mem_singleton.mp (formOf h).2]; rfl,
    fun hf => absurd (hf ▸ (formOf h).1) (by decide), fun _ => by decide⟩⟩
theorem sidropAll (o : Long) : Statement (.sidropAll o) :=
  ⟨by decide, fun h => ⟨by rw [readDE, List.mem_singleton.mp (formOf h).2]; rfl,
    fun hf => absurd (hf ▸ (formOf h).1) (by decide), fun _ => by decide⟩⟩
theorem tkwait (o : Long) : Statement (.tkwait o) :=
  ⟨by decide, fun h => ⟨rfl,
    fun hf => absurd (hf ▸ (formOf h).1) (by decide), fun _ => by decide⟩⟩
theorem tktest (o : Long) : Statement (.tktest o) :=
  ⟨by decide, fun h => ⟨rfl,
    fun hf => absurd (hf ▸ (formOf h).1) (by decide), fun _ => by decide⟩⟩
theorem tkcancel (o : Long) : Statement (.tkcancel o) :=
  ⟨by decide, fun h => ⟨rfl,
    fun hf => absurd (hf ▸ (formOf h).1) (by decide), fun _ => by decide⟩⟩
theorem tkdetach (o : Long) : Statement (.tkdetach o) :=
  ⟨by decide, fun h => ⟨rfl,
    fun hf => absurd (hf ▸ (formOf h).1) (by decide), fun _ => by decide⟩⟩
theorem tkadopt (o : Long) : Statement (.tkadopt o) :=
  ⟨by decide, fun h => ⟨rfl,
    fun hf => absurd (hf ▸ (formOf h).1) (by decide), fun _ => by decide⟩⟩
theorem tkprio (o : Long) : Statement (.tkprio o) :=
  ⟨by decide, fun h => ⟨rfl,
    fun hf => absurd (hf ▸ (formOf h).1) (by decide), fun _ => by decide⟩⟩
theorem tkdepAdd (o : Long) : Statement (.tkdepAdd o) :=
  ⟨by decide, fun h => ⟨by rw [readE5, List.mem_singleton.mp (formOf h).2]; rfl,
    fun hf => absurd (hf ▸ (formOf h).1) (by decide), fun _ => by decide⟩⟩
theorem tkdepRel (o : Long) : Statement (.tkdepRel o) :=
  ⟨by decide, fun h => ⟨by rw [readE5, List.mem_singleton.mp (formOf h).2]; rfl,
    fun hf => absurd (hf ▸ (formOf h).1) (by decide), fun _ => by decide⟩⟩
theorem tkinfo (o : Long) : Statement (.tkinfo o) :=
  ⟨by decide, fun h => ⟨rfl,
    fun hf => absurd (hf ▸ (formOf h).1) (by decide), fun _ => by decide⟩⟩
theorem mflip (o : Long) : Statement (.mflip o) :=
  ⟨by decide, fun h => ⟨rfl,
    fun hf => absurd (hf ▸ (formOf h).1) (by decide), fun _ => by decide⟩⟩
theorem launch (o : Long) : Statement (.launch o) :=
  ⟨by decide, fun h => ⟨by rw [readE8, List.mem_singleton.mp (formOf h).2]; rfl,
    fun hf => absurd (hf ▸ (formOf h).1) (by decide), fun _ => by decide⟩⟩
theorem launchTry (o : Long) : Statement (.launchTry o) :=
  ⟨by decide, fun h => ⟨by rw [readE8, List.mem_singleton.mp (formOf h).2]; rfl,
    fun hf => absurd (hf ▸ (formOf h).1) (by decide), fun _ => by decide⟩⟩
theorem join (o : Long) : Statement (.join o) :=
  ⟨by decide, fun h => ⟨by rw [readE9, List.mem_singleton.mp (formOf h).2]; rfl,
    fun hf => absurd (hf ▸ (formOf h).1) (by decide), fun _ => by decide⟩⟩
theorem joinAll (o : Long) : Statement (.joinAll o) :=
  ⟨by decide, fun h => ⟨by rw [readE9, List.mem_singleton.mp (formOf h).2]; rfl,
    fun hf => absurd (hf ▸ (formOf h).1) (by decide), fun _ => by decide⟩⟩
theorem joinRng (o : Long) : Statement (.joinRng o) :=
  ⟨by decide, fun h => ⟨by rw [readE9, List.mem_singleton.mp (formOf h).2]; rfl,
    fun hf => absurd (hf ▸ (formOf h).1) (by decide), fun _ => by decide⟩⟩
theorem rtsub (o : Long) : Statement (.rtsub o) :=
  ⟨by decide, fun h => ⟨rfl,
    fun hf => absurd (hf ▸ (formOf h).1) (by decide), fun _ => by decide⟩⟩
theorem rtget (o : Long) : Statement (.rtget o) :=
  ⟨by decide, fun h => ⟨rfl,
    fun hf => absurd (hf ▸ (formOf h).1) (by decide), fun _ => by decide⟩⟩
theorem rtdone (o : Long) : Statement (.rtdone o) :=
  ⟨by decide, fun h => ⟨rfl,
    fun hf => absurd (hf ▸ (formOf h).1) (by decide), fun _ => by decide⟩⟩
theorem qnote (o : Long) : Statement (.qnote o) :=
  ⟨by decide, fun h => ⟨rfl,
    fun hf => absurd (hf ▸ (formOf h).1) (by decide), fun _ => by decide⟩⟩
theorem dvnew (o : Long) : Statement (.dvnew o) :=
  ⟨by decide, fun h => ⟨rfl,
    fun hf => absurd (hf ▸ (formOf h).1) (by decide), fun _ => by decide⟩⟩
theorem dvgrant (o : Long) : Statement (.dvgrant o) :=
  ⟨by decide, fun h => ⟨rfl,
    fun hf => absurd (hf ▸ (formOf h).1) (by decide), fun _ => by decide⟩⟩
theorem dvfeat (o : Long) : Statement (.dvfeat o) :=
  ⟨by decide, fun h => ⟨rfl,
    fun hf => absurd (hf ▸ (formOf h).1) (by decide), fun _ => by decide⟩⟩
theorem dvfrz (o : Long) : Statement (.dvfrz o) :=
  ⟨by decide, fun h => ⟨rfl,
    fun hf => absurd (hf ▸ (formOf h).1) (by decide), fun _ => by decide⟩⟩
theorem dvthaw (o : Long) : Statement (.dvthaw o) :=
  ⟨by decide, fun h => ⟨rfl,
    fun hf => absurd (hf ▸ (formOf h).1) (by decide), fun _ => by decide⟩⟩
theorem dvckpt (o : Long) : Statement (.dvckpt o) :=
  ⟨by decide, fun h => ⟨rfl,
    fun hf => absurd (hf ▸ (formOf h).1) (by decide), fun _ => by decide⟩⟩
theorem dvrevoke (o : Long) : Statement (.dvrevoke o) :=
  ⟨by decide, fun h => ⟨rfl,
    fun hf => absurd (hf ▸ (formOf h).1) (by decide), fun _ => by decide⟩⟩
theorem dvinv (o : Long) : Statement (.dvinv o) :=
  ⟨by decide, fun h => ⟨rfl,
    fun hf => absurd (hf ▸ (formOf h).1) (by decide), fun _ => by decide⟩⟩
theorem hqbind (o : Long) : Statement (.hqbind o) :=
  ⟨by decide, fun h => ⟨by rw [readF6, List.mem_singleton.mp (formOf h).2]; rfl,
    fun hf => absurd (hf ▸ (formOf h).1) (by decide), fun _ => by decide⟩⟩
theorem hqbindOff (o : Long) : Statement (.hqbindOff o) :=
  ⟨by decide, fun h => ⟨by rw [readF6, List.mem_singleton.mp (formOf h).2]; rfl,
    fun hf => absurd (hf ▸ (formOf h).1) (by decide), fun _ => by decide⟩⟩
theorem hqpop (o : Long) : Statement (.hqpop o) :=
  ⟨by decide, fun h => ⟨by rw [readF7, List.mem_singleton.mp (formOf h).2]; rfl,
    fun hf => absurd (hf ▸ (formOf h).1) (by decide), fun _ => by decide⟩⟩
theorem hqpopWait (o : Long) : Statement (.hqpopWait o) :=
  ⟨by decide, fun h => ⟨by rw [readF7, List.mem_singleton.mp (formOf h).2]; rfl,
    fun hf => absurd (hf ▸ (formOf h).1) (by decide), fun _ => by decide⟩⟩
theorem hqret (o : Long) : Statement (.hqret o) :=
  ⟨by decide, fun h => ⟨rfl,
    fun hf => absurd (hf ▸ (formOf h).1) (by decide), fun _ => by decide⟩⟩
theorem rdsr (o : Long) : Statement (.rdsr o) :=
  ⟨by decide, fun h => ⟨rfl,
    fun hf => absurd (hf ▸ (formOf h).1) (by decide), fun _ => by decide⟩⟩
theorem wrsr (o : Long) : Statement (.wrsr o) :=
  ⟨by decide, fun h => ⟨rfl,
    fun hf => absurd (hf ▸ (formOf h).1) (by decide), fun _ => by decide⟩⟩
theorem rdcnt (o : Long) : Statement (.rdcnt o) :=
  ⟨by decide, fun h => ⟨rfl,
    fun hf => absurd (hf ▸ (formOf h).1) (by decide), fun _ => by decide⟩⟩
theorem teamEnd (team : Nat) : Statement (.teamEnd team) := rfl
theorem barrierStall (team tid : Nat) : Statement (.barrierStall team tid) := rfl
theorem starvationPreemption (asid : Nat) : Statement (.starvationPreemption asid) := rfl
theorem forcedSave (core asid : Nat) : Statement (.forcedSave core asid) := rfl
theorem teamPlacement (grid : Nat) : Statement (.teamPlacement grid) := rfl
theorem teamRestore (team : Nat) : Statement (.teamRestore team) := rfl
theorem schedulerRound : Statement (.schedulerRound) := rfl
theorem wcbAgeingDrain (core entry : Nat) : Statement (.wcbAgeingDrain core entry) := rfl
theorem tokenStart (core slot : Nat) : Statement (.tokenStart core slot) := rfl
theorem kBlockEnd (core slot : Nat) : Statement (.kBlockEnd core slot) := rfl
theorem sectorAcknowledged (core slot slice sector : Nat) : Statement (.sectorAcknowledged core slot slice sector) := rfl
theorem collChunkEnd (core slot : Nat) (remote : List RemoteRank) : Statement (.collChunkEnd core slot remote) := rfl
theorem shuffleSendPhase (core slot : Nat) : Statement (.shuffleSendPhase core slot) := rfl
theorem prismGroupTimeout (port : Nat) : Statement (.prismGroupTimeout port) := rfl
theorem scrub (at_ : ErrPlace) (bad : Bool) : Statement (.scrub at_ bad) := rfl
theorem flitReceive (port : Nat) (f : Flit) : Statement (.flitReceive port f) := rfl
theorem lossOfLock (port : Nat) : Statement (.lossOfLock port) := rfl
theorem linkRetrain (port peer : Nat) : Statement (.linkRetrain port peer) := rfl
theorem wrPacket (port : Nat) (p : Packet) : Statement (.wrPacket port p) := rfl
theorem rdPacket (port : Nat) (p : Packet) : Statement (.rdPacket port p) := rfl
theorem rrPacket (port : Nat) (p : Packet) : Statement (.rrPacket port p) := rfl
theorem atPacket (port : Nat) (p : Packet) : Statement (.atPacket port p) := rfl
theorem arPacket (port : Nat) (p : Packet) : Statement (.arPacket port p) := rfl
theorem ackPacket (port : Nat) (p : Packet) : Statement (.ackPacket port p) := rfl
theorem csbPacket (port : Nat) (p : Packet) : Statement (.csbPacket port p) := rfl
theorem usbPacket (port : Nat) (p : Packet) : Statement (.usbPacket port p) := rfl
theorem rsdPacket (port : Nat) (p : Packet) : Statement (.rsdPacket port p) := rfl
theorem havePacket (port : Nat) (p : Packet) : Statement (.havePacket port p) := rfl
theorem sackPacket (port : Nat) (p : Packet) : Statement (.sackPacket port p) := rfl
theorem ctlPacket (port : Nat) (p : Packet) : Statement (.ctlPacket port p) := rfl
theorem replyReservationTimeout (core : Nat) (seq : Nat) : Statement (.replyReservationTimeout core seq) := rfl
theorem pathHoldTimeout (peer : Nat) : Statement (.pathHoldTimeout peer) := rfl
theorem dbell (fn : Nat) (data : W32) : Statement (.dbell fn data) := rfl
theorem queueRead (asid queue : Nat) : Statement (.queueRead asid queue) := rfl
theorem atsTranslationCompletion (rq : AtsReq) (rd wr : Bool) : Statement (.atsTranslationCompletion rq rd wr) := rfl
theorem pageRequestResponse (fn index : Nat) (code : PrgCode) : Statement (.pageRequestResponse fn index code) := rfl
theorem atsInvalidateRequest (rq : AtsReq) (pages : Nat) : Statement (.atsInvalidateRequest rq pages) := rfl
theorem nresp (port : Port) (data : W64) : Statement (.nresp port data) := rfl
theorem s0invgo (port : Port) (data : W32) : Statement (.s0invgo port data) := rfl
theorem nrctl (port : Port) (data : W32) : Statement (.nrctl port data) := rfl
theorem functionLevelReset (vf : Nat) : Statement (.functionLevelReset vf) := rfl
theorem hostMemoryAccess (acc : HostAccess) : Statement (.hostMemoryAccess acc) := rfl
theorem semaphoreTake (port : Port) (n : Nat) (lease : Nat) : Statement (.semaphoreTake port n lease) := rfl
theorem semaphoreRelease (port : Port) (n : Nat) : Statement (.semaphoreRelease port n) := rfl
theorem semaphoreLeaseExpiry (n : Nat) : Statement (.semaphoreLeaseExpiry n) := rfl
theorem flashWindowWrite (port : Port) (obj : FlashObj) (off : Nat) (data : List Byte) : Statement (.flashWindowWrite port obj off data) := rfl
theorem bootctlClr (port : Port) : Statement (.bootctlClr port) := rfl
theorem bootctlRst (port : Port) (both : Bool) : Statement (.bootctlRst port both) := rfl
theorem start (r : StartInput) : Statement (.start r) := rfl
theorem wdog : Statement (.wdog) := rfl
theorem pcieFundamentalReset : Statement (.pcieFundamentalReset) := rfl
theorem sidebandReset : Statement (.sidebandReset) := rfl
theorem standbyPowerRemoval : Statement (.standbyPowerRemoval) := rfl
theorem checkpointSave (port : Port) (data : W32) : Statement (.checkpointSave port data) := rfl
theorem checkpointRestore (port : Port) (data : W32) : Statement (.checkpointRestore port data) := rfl
theorem checkpointThaw (port : Port) (data : W32) : Statement (.checkpointThaw port data) := rfl
theorem getVersion (port : Port) : Statement (.getVersion port) := rfl
theorem getCapabilities (port : Port) : Statement (.getCapabilities port) := rfl
theorem negotiateAlgorithms (port : Port) (sig hash : Nat) : Statement (.negotiateAlgorithms port sig hash) := rfl
theorem getDigests (port : Port) : Statement (.getDigests port) := rfl
theorem getCertificate (port : Port) (slot off len : Nat) : Statement (.getCertificate port slot off len) := rfl
theorem challenge (port : Port) (slot : Nat) (nonce : List Byte) : Statement (.challenge port slot nonce) := rfl
theorem getMeasurements (port : Port) (index : Nat) (nonce : List Byte) : Statement (.getMeasurements port index nonce) := rfl
theorem powerLimitInterval (watts celsius : Nat) : Statement (.powerLimitInterval watts celsius) := rfl
theorem thermalTrip : Statement (.thermalTrip) := rfl
theorem registerWrite (port : Port) (off : Nat) (data : W64) : Statement (.registerWrite port off data) := rfl
theorem pendingWriteCompletion (team tid : Nat) : Statement (.pendingWriteCompletion team tid) := rfl
theorem accessPerformed (core idx : Nat) : Statement (.accessPerformed core idx) := rfl
theorem cycleCharge : Statement (.cycleCharge) := rfl
theorem revokeDrainDeadline (asid : Nat) : Statement (.revokeDrainDeadline asid) := rfl
theorem tierPortLost (expander : Bool) (n : Nat) : Statement (.tierPortLost expander n) := rfl
theorem powerLoss (standby : Bool) : Statement (.powerLoss standby) := rfl
theorem noticeRingTail (port : Port) (data : W32) : Statement (.noticeRingTail port data) := rfl

end Sys2Proof.Laws.Opcode
end

