-- ==== Sys2Proof/Laws/Encode.lean ====
section
/-! SUPPORT. Fields of encoded words (R57, R58): what the decoder's field functions read back from the encoder's words, and
that a word is the concatenation of its fields. -/

namespace Sys2Proof.Laws

open Sys2Proof

/-! ## Word 0 -/

/-- The fields of six joined parts of word 0's shape. -/
theorem six_parts {n m : Nat} (a : BitVec n) (b : BitVec m) (g : BitVec 3) (s : BitVec 3) (c : BitVec 8) (l : BitVec 2) :
    (a ++ b ++ g ++ s ++ c ++ l).extractLsb' 0 2 = l ∧ (a ++ b ++ g ++ s ++ c ++ l).extractLsb' 2 8 = c ∧
    (a ++ b ++ g ++ s ++ c ++ l).extractLsb' 10 3 = s ∧ (a ++ b ++ g ++ s ++ c ++ l).extractLsb' 13 3 = g ∧
    (a ++ b ++ g ++ s ++ c ++ l).extractLsb' 16 m = b ∧ (a ++ b ++ g ++ s ++ c ++ l).extractLsb' (16 + m) n = a := by
  refine ⟨?_, ?_, ?_, ?_, ?_, ?_⟩ <;> apply BitVec.eq_of_getLsbD_eq <;> intro i hi <;>
    simp only [BitVec.getLsbD_append, BitVec.getLsbD_extractLsb', hi, decide_true, Bool.true_and]
  · simp only [Nat.zero_add, hi, if_true]
  · have h1 : ¬ 2 + i < 2 := by omega
    have h2 : 2 + i - 2 = i := by omega
    simp only [h1, h2, hi, if_true, if_false]
  · have h1 : ¬ 10 + i < 2 := by omega
    have h2 : ¬ 10 + i - 2 < 8 := by omega
    have h3 : 10 + i - 2 - 8 = i := by omega
    simp only [h1, h2, h3, hi, if_true, if_false]
  · have h1 : ¬ 13 + i < 2 := by omega
    have h2 : ¬ 13 + i - 2 < 8 := by omega
    have h3 : ¬ 13 + i - 2 - 8 < 3 := by omega
    have h4 : 13 + i - 2 - 8 - 3 = i := by omega
    simp only [h1, h2, h3, h4, hi, if_true, if_false]
  · have h1 : ¬ 16 + i < 2 := by omega
    have h2 : ¬ 16 + i - 2 < 8 := by omega
    have h3 : ¬ 16 + i - 2 - 8 < 3 := by omega
    have h4 : ¬ 16 + i - 2 - 8 - 3 < 3 := by omega
    have h5 : 16 + i - 2 - 8 - 3 - 3 = i := by omega
    simp only [h1, h2, h3, h4, h5, hi, if_true, if_false]
  · have h1 : ¬ 16 + m + i < 2 := by omega
    have h2 : ¬ 16 + m + i - 2 < 8 := by omega
    have h3 : ¬ 16 + m + i - 2 - 8 < 3 := by omega
    have h4 : ¬ 16 + m + i - 2 - 8 - 3 < 3 := by omega
    have h5 : ¬ 16 + m + i - 2 - 8 - 3 - 3 < m := by omega
    have h6 : 16 + m + i - 2 - 8 - 3 - 3 - m = i := by omega
    simp only [h1, h2, h3, h4, h5, h6, if_false]

theorem shortWord_len (opc : Nat) (o : Short) : (shortWord opc o).extractLsb' 0 2 = 0#2 :=
  (six_parts o.s o.d o.grd o.stl (BitVec.ofNat 8 opc) 0#2).1

theorem shortWord_opc (opc : Nat) (o : Short) : opcOf (shortWord opc o) = BitVec.ofNat 8 opc :=
  (six_parts o.s o.d o.grd o.stl (BitVec.ofNat 8 opc) 0#2).2.1

theorem shortWord_fields (opc : Nat) (o : Short) : shortFields (shortWord opc o) = o := by
  obtain ⟨-, -, h3, h4, h5, h6⟩ := six_parts o.s o.d o.grd o.stl (BitVec.ofNat 8 opc) 0#2
  cases o
  simp only [shortFields, Short.mk.injEq]
  exact ⟨h5, h6, h4, h3⟩

theorem word0_len (opc : Nat) (l : BitVec 2) (o : Long) : (word0 opc l o).extractLsb' 0 2 = l :=
  (six_parts o.sub o.dst o.grd o.stl (BitVec.ofNat 8 opc) l).1

theorem word0_opc (opc : Nat) (l : BitVec 2) (o : Long) : opcOf (word0 opc l o) = BitVec.ofNat 8 opc :=
  (six_parts o.sub o.dst o.grd o.stl (BitVec.ofNat 8 opc) l).2.1

/-! ## Word 1 -/

/-- The fields of word 1's shape: six flags, the 16 middle bits, SA. -/
theorem flag_parts (a b c d e f : Bool) (m : BitVec 16) (l : BitVec 10) (w : W32)
    (hw : w = BitVec.ofBool a ++ BitVec.ofBool b ++ BitVec.ofBool c ++ BitVec.ofBool d ++ BitVec.ofBool e ++ BitVec.ofBool f ++ m ++ l) :
    w.getLsbD 31 = a ∧ w.getLsbD 30 = b ∧ w.getLsbD 29 = c ∧ w.getLsbD 28 = d ∧ w.getLsbD 27 = e ∧ w.getLsbD 26 = f ∧
    w.extractLsb' 10 16 = m ∧ w.extractLsb' 0 10 = l := by
  subst hw
  refine ⟨?_, ?_, ?_, ?_, ?_, ?_, ?_, ?_⟩
  iterate 6
    · simp only [BitVec.getLsbD_append]; simp
  · apply BitVec.eq_of_getLsbD_eq
    intro i hi
    have h1 : ¬ 10 + i < 10 := by omega
    have h2 : 10 + i - 10 = i := by omega
    simp only [BitVec.getLsbD_append, BitVec.getLsbD_extractLsb', hi, decide_true, Bool.true_and, h1, h2, if_true, if_false]
  · apply BitVec.eq_of_getLsbD_eq
    intro i hi
    simp only [BitVec.getLsbD_append, BitVec.getLsbD_extractLsb', hi, decide_true, Bool.true_and, Nat.zero_add, if_true]

theorem word1_flags (f : Bool) (m : BitVec 16) (o : Long) :
    (word1 f m o).getLsbD 31 = o.gneg ∧ (word1 f m o).getLsbD 30 = f ∧ (word1 f m o).getLsbD 29 = o.sat ∧
    (word1 f m o).getLsbD 28 = o.kc ∧ (word1 f m o).getLsbD 27 = o.kb ∧ (word1 f m o).getLsbD 26 = o.ka ∧
    (word1 f m o).extractLsb' 10 16 = m ∧ (word1 f m o).extractLsb' 0 10 = o.sa :=
  flag_parts _ _ _ _ _ _ _ _ _ rfl

/-- MOD and SB are the halves of the middle bits. -/
theorem mid_parts (w : W32) (m : BitVec 6) (s : BitVec 10) (h : w.extractLsb' 10 16 = m ++ s) :
    w.extractLsb' 20 6 = m ∧ w.extractLsb' 10 10 = s := by
  constructor <;> apply BitVec.eq_of_getLsbD_eq <;> intro i hi
  · have e := congrArg (fun (x : BitVec 16) => x.getLsbD (10 + i)) h
    have h1 : ¬ 10 + i < 10 := by omega
    have h2 : 10 + i - 10 = i := by omega
    have h3 : 10 + i < 16 := by omega
    have h4 : 10 + (10 + i) = 20 + i := by omega
    simp only [BitVec.getLsbD_append, BitVec.getLsbD_extractLsb', h1, h2, h3, h4, decide_true, Bool.true_and, if_false] at e
    simpa only [BitVec.getLsbD_extractLsb', hi, decide_true, Bool.true_and] using e
  · have e := congrArg (fun (x : BitVec 16) => x.getLsbD i) h
    have h3 : i < 16 := by omega
    simp only [BitVec.getLsbD_append, BitVec.getLsbD_extractLsb', hi, h3, decide_true, Bool.true_and, if_true] at e
    simpa only [BitVec.getLsbD_extractLsb', hi, decide_true, Bool.true_and] using e

theorem word1_mod_sb (f : Bool) (m : BitVec 6) (s : BitVec 10) (o : Long) :
    (word1 f (m ++ s) o).extractLsb' 20 6 = m ∧ (word1 f (m ++ s) o).extractLsb' 10 10 = s :=
  mid_parts _ m s (word1_flags f (m ++ s) o).2.2.2.2.2.2.1

/-- All fields of word 0 and word 1 come back. -/
theorem words_fields (opc : Nat) (l : BitVec 2) (f : Bool) (m : BitVec 16) (o : Long) (t : Tail) :
    longFields (word0 opc l o) (word1 f m o) t = { o with tail := t } := by
  obtain ⟨h1, -, h3, h4, h5, h6, -, h8⟩ := word1_flags f m o
  obtain ⟨-, -, g3, g4, g5, g6⟩ := six_parts o.sub o.dst o.grd o.stl (BitVec.ofNat 8 opc) l
  simp only [longFields, h1, h3, h4, h5, h6, h8, Long.mk.injEq, and_true]
  exact ⟨g6, g5, g4, g3⟩

/-! ## Tails -/

/-- Word 2 of C and L. -/
theorem word2_parts (i : BitVec 16) (mb : BitVec 6) (sc : BitVec 10) (w : W32) (hw : w = i ++ mb ++ sc) :
    w.extractLsb' 16 16 = i ∧ w.extractLsb' 10 6 = mb ∧ w.extractLsb' 0 10 = sc := by
  subst hw
  refine ⟨?_, ?_, ?_⟩ <;> apply BitVec.eq_of_getLsbD_eq <;> intro j hj
  · have h1 : ¬ 16 + j < 10 := by omega
    have h2 : ¬ 16 + j - 10 < 6 := by omega
    have h3 : 16 + j - 10 - 6 = j := by omega
    simp only [BitVec.getLsbD_append, BitVec.getLsbD_extractLsb', hj, decide_true, Bool.true_and, h1, h2, h3, if_false]
  · have h1 : ¬ 10 + j < 10 := by omega
    have h2 : 10 + j - 10 = j := by omega
    simp only [BitVec.getLsbD_append, BitVec.getLsbD_extractLsb', hj, decide_true, Bool.true_and, h1, h2, if_true, if_false]
  · simp only [BitVec.getLsbD_append, BitVec.getLsbD_extractLsb', hj, decide_true, Bool.true_and, Nat.zero_add, if_true]

theorem hi_lo (v : W64) : hi32 v ++ lo32 v = v := by
  apply BitVec.eq_of_getLsbD_eq
  intro i hi
  simp only [hi32, lo32, BitVec.getLsbD_append, BitVec.getLsbD_extractLsb']
  by_cases h : i < 32
  · simp [h]
  · have e : 32 + (i - 32) = i := by omega
    have e2 : i - 32 < 32 := by omega
    simp [h, e, e2]

theorem tail64_b (m : BitVec 6) (s : BitVec 10) (o : Long) : tail64 (word1 false (m ++ s) o) = .b m s := by
  simp only [tail64, (word1_flags false (m ++ s) o).2.1, word1_mod_sb false m s o, Bool.false_eq_true, if_false]

theorem tail64_bi (i : BitVec 16) (o : Long) : tail64 (word1 true i o) = .bi i := by
  simp only [tail64, (word1_flags true i o).2.1, (word1_flags true i o).2.2.2.2.2.2.1, if_true]

theorem tail96_c (f : Bool) (m : BitVec 6) (s : BitVec 10) (i : BitVec 16) (mb : BitVec 6) (sc : BitVec 10) (o : Long) :
    tail96 false (word1 f (m ++ s) o) (i ++ mb ++ sc) = .c f m s i mb sc := by
  obtain ⟨h1, h2, h3⟩ := word2_parts i mb sc _ rfl
  simp only [tail96, (word1_flags f (m ++ s) o).2.1, word1_mod_sb f m s o, h1, h2, h3, Bool.false_eq_true, if_false]

theorem tail96_cm (f : Bool) (m : BitVec 6) (s : BitVec 10) (off : BitVec 32) (o : Long) :
    tail96 true (word1 f (m ++ s) o) off = .cm f m s off := by
  simp only [tail96, (word1_flags f (m ++ s) o).2.1, word1_mod_sb f m s o, if_true]

theorem tail160_l (f : Bool) (m : BitVec 6) (s : BitVec 10) (i : BitVec 16) (mb : BitVec 6) (sc : BitVec 10) (v : W64)
    (o : Long) : tail160 (word1 f (m ++ s) o) (i ++ mb ++ sc) (lo32 v) (hi32 v) = .l f m s i mb sc v := by
  obtain ⟨h1, h2, h3⟩ := word2_parts i mb sc _ rfl
  simp only [tail160, (word1_flags f (m ++ s) o).2.1, word1_mod_sb f m s o, h1, h2, h3, hi_lo]

/-! ## The decoder by the value of LEN (R56) -/

theorem decode_len0 (w0 : W32) (r : List W32) (h : w0.extractLsb' 0 2 = 0#2) :
    decode (w0 :: r) = (wellRead (shortInstr (opcOf w0).toNat (shortFields w0))).map (fun i => (i, r)) := by
  simp only [decode, h]; rfl

theorem decode_len1 (w0 w1 : W32) (r : List W32) (h : w0.extractLsb' 0 2 = 1) :
    decode (w0 :: w1 :: r) =
      (wellRead (longInstr (opcOf w0).toNat (longFields w0 w1 (tail64 w1)))).map (fun i => (i, r)) := by
  simp only [decode, h]; rfl

theorem decode_len2 (w0 w1 w2 : W32) (r : List W32) (h : w0.extractLsb' 0 2 = 2) :
    decode (w0 :: w1 :: w2 :: r) =
      (wellRead (longInstr (opcOf w0).toNat (longFields w0 w1 (tail96 (isCm (opcOf w0).toNat) w1 w2)))).map (fun i => (i, r)) := by
  simp only [decode, h]; rfl

theorem decode_len3 (w0 w1 w2 w3 w4 : W32) (r : List W32) (h : w0.extractLsb' 0 2 = 3) :
    decode (w0 :: w1 :: w2 :: w3 :: w4 :: r) =
      (wellRead (longInstr (opcOf w0).toNat (longFields w0 w1 (tail160 w1 w2 w3 w4)))).map (fun i => (i, r)) := by
  simp only [decode, h]; rfl

/-- A candidate whose form is allocated stands. -/
theorem wellRead_ok (i : Instr) (r : List W32) (h : i.allocated = true) :
    (wellRead (some i)).map (fun i => (i, r)) = .ok (i, r) := by
  simp only [wellRead, h, if_true]; rfl

/-! ## The tables and the opcode map (R77) -/

/-- What the short table answers has that opcode and those fields. -/
theorem short_view (opc : Nat) (o : Short) (i : Instr) (h : shortInstr opc o = some i) : ∃ lat, i.view = .short opc lat o := by
  unfold shortInstr at h
  split at h <;> first | (cases h; exact ⟨_, rfl⟩) | (cases h)

/-- What the long table answers has that opcode and those fields. -/
theorem long_view (opc : Nat) (o : Long) (i : Instr) (h : longInstr opc o = some i) : ∃ lat d, i.view = .long opc lat d o := by
  unfold longInstr at h
  split at h <;> first | (cases h; exact ⟨_, _, rfl⟩) | (cases h; done) | (split at h <;> first | (cases h; exact ⟨_, _, rfl⟩) | (cases h; done))

end Sys2Proof.Laws
end

