-- ==== Sys2Proof/Laws/Home.lean ====
section
/-! SUPPORT. What bytes performed at a home change beside memory: owner tags, poison, side-information entries and the energy
that is due. -/

namespace Sys2Proof.Laws

open Sys2Proof Sys2Proof.Machine

/-- The parts of the state that a write at a home leaves alone stay as they are. -/
def SameButHome (s s' : State) : Prop :=
  s' = { s with mem := s'.mem, owners := s'.owners, poison := s'.poison, cores := s'.cores, ctxs := s'.ctxs, pool := s'.pool }

theorem sameButHome_refl (s : State) : SameButHome s s := rfl

theorem sameButHome_trans {a b c : State} (h : SameButHome a b) (k : SameButHome b c) : SameButHome a c := by
  unfold SameButHome at *
  rw [h] at k
  exact k

theorem chargeLines_same (s : State) (asid k n : Nat) : SameButHome s (chargeLines s asid k n) := by
  unfold chargeLines charge addDue modCtx
  split
  · rfl
  · split
    · rfl
    · split <;> rfl

theorem noteWrite_same (s : State) (asid k n : Nat) : SameButHome s (noteWrite s asid k n) := by
  unfold noteWrite tagLines sitStale
  simp only
  split <;> (try split) <;> (try split) <;> (try split) <;> rfl

theorem poolTouch_pool (s : State) (l : Nat) : poolTouch s l = { s with pool := (poolTouch s l).pool } := rfl

/-- Noting the lines of a pool changes nothing but their list. -/
theorem poolNote_pool (s : State) (k n : Nat) : poolNote s k n = { s with pool := (poolNote s k n).pool } := by
  have fold : ∀ (l : List Nat) (st : State), l.foldl (fun st i => poolTouch st (k / 128 + i)) st =
      { st with pool := (l.foldl (fun st i => poolTouch st (k / 128 + i)) st).pool } := by
    intro l
    induction l with
    | nil => intro st; rfl
    | cons x r ih =>
      intro st
      rw [List.foldl_cons, ih]
      rfl
  unfold poolNote
  split
  · exact fold _ s
  · rfl

theorem poolNote_same (s : State) (k n : Nat) : SameButHome s (poolNote s k n) := by
  rw [poolNote_pool]; rfl

theorem poolNote_mem (s : State) (k n : Nat) : (poolNote s k n).mem = s.mem := by rw [poolNote_pool]

theorem writeKey_same (s : State) (k : Nat) (bs : List Byte) : SameButHome s (writeKey s k bs) := rfl
theorem writeKey_mem (s : State) (k : Nat) (bs : List Byte) : (writeKey s k bs).mem = memWrite s.mem k bs := rfl

theorem homeStore_same (s : State) (asid k : Nat) (bs : List Byte) : SameButHome s (homeStore s asid k bs) := by
  unfold homeStore
  split
  · rfl
  · exact sameButHome_trans (sameButHome_trans (sameButHome_trans (poolNote_same ..) (writeKey_same ..)) (noteWrite_same ..)) (chargeLines_same ..)

theorem homeWrite_same (s : State) (asid k : Nat) (bs : List Byte) : SameButHome s (homeWrite s asid k bs) := homeStore_same ..

theorem putFold_same (asid : Nat) (ps : List (Nat × Byte)) : ∀ s : State,
    SameButHome s (ps.foldl (fun st p => noteWrite (writeKey (poolNote st p.1 1) p.1 [p.2]) asid p.1 1) s) := by
  induction ps with
  | nil => intro s; rfl
  | cons p r ih =>
    intro s
    exact sameButHome_trans (sameButHome_trans (sameButHome_trans (poolNote_same ..) (writeKey_same ..)) (noteWrite_same ..)) (ih _)

theorem homePut_same (s : State) (asid : Nat) (ps : List (Nat × Byte)) : SameButHome s (homePut s asid ps) := by
  unfold homePut
  split
  · rfl
  · exact sameButHome_trans (putFold_same ..) (chargeLines_same ..)

theorem same_teams {s s' : State} (h : SameButHome s s') : s'.teams = s.teams := by rw [h]

theorem same_getTeam {s s' : State} (h : SameButHome s s') (u : Nat) : getTeam s' u = getTeam s u := by
  simp only [getTeam, same_teams h]

theorem noteWrite_mem (s : State) (asid k n : Nat) : (noteWrite s asid k n).mem = s.mem := by
  unfold noteWrite tagLines sitStale
  simp only
  split <;> (try split) <;> (try split) <;> (try split) <;> rfl

theorem chargeLines_mem (s : State) (asid k n : Nat) : (chargeLines s asid k n).mem = s.mem := by
  unfold chargeLines charge addDue modCtx
  split
  · rfl
  · split
    · rfl
    · split <;> rfl

theorem homeStore_mem (s : State) (asid k : Nat) (bs : List Byte) : (homeStore s asid k bs).mem = memWrite s.mem k bs := by
  unfold homeStore
  split
  · rename_i h
    cases bs with
    | nil => rfl
    | cons => simp at h
  · rw [chargeLines_mem, noteWrite_mem, writeKey_mem, poolNote_mem]

theorem homeWrite_mem (s : State) (asid k : Nat) (bs : List Byte) :
    (homeWrite s asid k bs).mem = memWrite s.mem k (storedBytes s k bs) := homeStore_mem ..

theorem putFold_mem (asid : Nat) (ps : List (Nat × Byte)) : ∀ s : State,
    (ps.foldl (fun st p => noteWrite (writeKey (poolNote st p.1 1) p.1 [p.2]) asid p.1 1) s).mem = memPut s.mem ps := by
  induction ps with
  | nil => intro s; rfl
  | cons p r ih =>
    intro s
    simp only [List.foldl_cons, ih, noteWrite_mem, writeKey_mem, poolNote_mem]
    rfl

theorem homePut_mem (s : State) (asid : Nat) (ps : List (Nat × Byte)) :
    (homePut s asid ps).mem = memPut s.mem (storedCells s ps) := by
  unfold homePut
  split
  · rename_i h; rw [h]; rfl
  · rename_i h; rw [chargeLines_mem, putFold_mem, h]

/-! ## What a write leaves of the bytes given -/

theorem storedBytes_length (s : State) (k : Nat) (bs : List Byte) : (storedBytes s k bs).length = bs.length := by
  unfold storedBytes
  split
  · simp
  · rfl

/-- With no thread in its handler, the bytes written are the bytes given. -/
theorem storedBytes_plain {s : State} (h : anyHandler s = false) (k : Nat) (bs : List Byte) : storedBytes s k bs = bs := by
  simp [storedBytes, h]

theorem storedCells_plain {s : State} (h : anyHandler s = false) (ps : List (Nat × Byte)) : storedCells s ps = ps := by
  simp [storedCells, h]

end Sys2Proof.Laws
end

