-- ==== Sys2Proof/Laws/Memory.lean ====
section
/-! SUPPORT. The list of bytes that memory is: every operation keeps its canonical form, and what a byte reads as afterwards. -/

namespace Sys2Proof.Machine

open Sys2Proof

theorem wfAbove_mono {lo hi : Nat} {m : Memory} (h : wfAbove hi m = true) (hl : lo ≤ hi) : wfAbove lo m = true := by
  cases m with
  | nil => rfl
  | cons c r =>
    obtain ⟨a, b⟩ := c
    simp only [wfAbove, Bool.and_eq_true, decide_eq_true_eq] at h ⊢
    exact ⟨⟨by omega, h.1.2⟩, h.2⟩

/-- A key below everything listed reads as an unlisted byte. -/
theorem memGet_below {lo : Nat} {m : Memory} (h : wfAbove lo m = true) {a : Nat} (ha : a < lo) : memGet m a = unlisted := by
  induction m generalizing lo with
  | nil => rfl
  | cons c r ih =>
    obtain ⟨k, b⟩ := c
    simp only [wfAbove, Bool.and_eq_true, decide_eq_true_eq] at h
    have : k ≠ a := by omega
    simp only [memGet, this, if_false]
    exact ih h.2 (by omega)

theorem memCons_wf {lo k : Nat} {b : Byte} {m : Memory} (h : wfAbove (k + 1) m = true) (hl : lo ≤ k) :
    wfAbove lo (memCons k b m) = true := by
  unfold memCons
  split
  · exact wfAbove_mono h (by omega)
  · rename_i hb
    simp only [wfAbove, Bool.and_eq_true, decide_eq_true_eq, bne_iff_ne, ne_eq]
    exact ⟨⟨hl, hb⟩, h⟩

theorem memSet_wfAbove {lo : Nat} (m : Memory) (k : Nat) (b : Byte) (h : wfAbove lo m = true) (hl : lo ≤ k) :
    wfAbove lo (memSet m k b) = true := by
  induction m generalizing lo with
  | nil => exact memCons_wf rfl hl
  | cons c r ih =>
    obtain ⟨a, d⟩ := c
    have h0 := h
    simp only [wfAbove, Bool.and_eq_true, decide_eq_true_eq] at h
    simp only [memSet]
    split
    · rename_i hlt
      simp only [wfAbove, Bool.and_eq_true, decide_eq_true_eq]
      exact ⟨h.1, ih h.2 (by omega)⟩
    · split
      · rename_i e; subst e
        exact memCons_wf h.2 hl
      · refine memCons_wf ?_ hl
        simp only [wfAbove, Bool.and_eq_true, decide_eq_true_eq]
        exact ⟨⟨by omega, h.1.2⟩, h.2⟩

theorem memSet_wf (m : Memory) (k : Nat) (b : Byte) (h : m.wf = true) : (memSet m k b).wf = true :=
  memSet_wfAbove m k b h (Nat.zero_le _)

theorem memWrite_wf (m : Memory) (k : Nat) (bs : List Byte) (h : m.wf = true) : (memWrite m k bs).wf = true := by
  induction bs generalizing m k with
  | nil => exact h
  | cons b r ih => exact ih _ _ (memSet_wf m k b h)

theorem memPut_wf (m : Memory) (ps : List (Nat × Byte)) (h : m.wf = true) : (memPut m ps).wf = true := by
  induction ps generalizing m with
  | nil => exact h
  | cons p r ih =>
    obtain ⟨k, b⟩ := p
    exact ih _ (memSet_wf m k b h)

/-- Any part of a canonical memory is canonical. -/
theorem filter_wfAbove {lo : Nat} (m : Memory) (p : Host.Cell → Bool) (h : wfAbove lo m = true) :
    wfAbove lo (m.filter p) = true := by
  induction m generalizing lo with
  | nil => rfl
  | cons c r ih =>
    obtain ⟨a, d⟩ := c
    simp only [wfAbove, Bool.and_eq_true, decide_eq_true_eq] at h
    simp only [List.filter_cons]
    split
    · simp only [wfAbove, Bool.and_eq_true, decide_eq_true_eq]
      exact ⟨h.1, ih h.2⟩
    · exact wfAbove_mono (ih h.2) (by omega)

theorem memClear_wf (m : Memory) (k n : Nat) (h : m.wf = true) : (memClear m k n).wf = true := filter_wfAbove m _ h

theorem memGet_memCons {k a : Nat} {b : Byte} {m : Memory} (h : wfAbove (k + 1) m = true) :
    memGet (memCons k b m) a = if a = k then b else memGet m a := by
  unfold memCons
  split
  · rename_i hb
    split
    · rename_i e; subst e; rw [memGet_below h (by omega), hb]
    · rfl
  · simp only [memGet]
    split <;> rename_i h1
    · simp [h1]
    · have : a ≠ k := fun e => h1 e.symm
      simp [this]

theorem memGet_memSet' {lo : Nat} (m : Memory) (k a : Nat) (b : Byte) (h : wfAbove lo m = true) :
    memGet (memSet m k b) a = if a = k then b else memGet m a := by
  induction m generalizing lo with
  | nil => exact memGet_memCons rfl
  | cons c r ih =>
    obtain ⟨x, d⟩ := c
    simp only [wfAbove, Bool.and_eq_true, decide_eq_true_eq] at h
    simp only [memSet]
    split
    · simp only [memGet, ih h.2]
      by_cases h1 : x = a
      · have : a ≠ k := by omega
        simp [h1, this]
      · simp [h1]
    · split
      · rename_i e; subst e
        rw [memGet_memCons h.2]
        simp only [memGet]
        by_cases h1 : a = x
        · simp [h1]
        · simp [h1, Ne.symm h1]
      · have hw : wfAbove (k + 1) ((x, d) :: r) = true := by
          simp only [wfAbove, Bool.and_eq_true, decide_eq_true_eq]
          exact ⟨⟨by omega, h.1.2⟩, h.2⟩
        rw [memGet_memCons hw]

theorem memGet_memSet (m : Memory) (k a : Nat) (b : Byte) (h : m.wf = true) :
    memGet (memSet m k b) a = if a = k then b else memGet m a := memGet_memSet' m k a b h

theorem memGet_memWrite (m : Memory) (k a : Nat) (bs : List Byte) (h : m.wf = true) :
    memGet (memWrite m k bs) a = if k ≤ a ∧ a < k + bs.length then bs.getD (a - k) unlisted else memGet m a := by
  induction bs generalizing m k with
  | nil =>
    have : ¬ (k ≤ a ∧ a < k + ([] : List Byte).length) := by simp
    simp only [memWrite, this, if_false]
  | cons b r ih =>
    simp only [memWrite, ih _ _ (memSet_wf m k b h), memGet_memSet m k a b h, List.length_cons]
    by_cases h1 : a = k
    · subst h1
      have n : ¬ (a + 1 ≤ a ∧ a < a + 1 + r.length) := by omega
      have y : a ≤ a ∧ a < a + (r.length + 1) := by omega
      simp [n, y]
    · by_cases h2 : k + 1 ≤ a ∧ a < k + 1 + r.length
      · have y : k ≤ a ∧ a < k + (r.length + 1) := by omega
        have e : a - k = (a - (k + 1)) + 1 := by omega
        simp only [h2, y, and_self, if_true, e, List.getD_cons_succ]
      · have n : ¬ (k ≤ a ∧ a < k + (r.length + 1)) := by omega
        rw [if_neg h2, if_neg h1, if_neg n]

theorem memGet_memClear (m : Memory) (k n a : Nat) :
    memGet (memClear m k n) a = if k ≤ a ∧ a < k + n then unlisted else memGet m a := by
  induction m with
  | nil => simp [memClear, memGet]
  | cons c r ih =>
    obtain ⟨x, d⟩ := c
    simp only [memClear] at ih
    simp only [memClear, List.filter_cons]
    by_cases hx : x < k ∨ k + n ≤ x
    · simp only [hx, decide_true, if_true, memGet, ih]
      by_cases h1 : x = a
      · subst h1
        have : ¬ (k ≤ x ∧ x < k + n) := by omega
        simp [this]
      · simp [h1]
    · simp only [hx, decide_false, Bool.false_eq_true, if_false, ih, memGet]
      by_cases h1 : x = a
      · subst h1
        have : k ≤ x ∧ x < k + n := by omega
        simp [this]
      · simp [h1]

end Sys2Proof.Machine
end

