-- ==== Sys2Proof/Laws/Shape.lean ====
section
/-! SUPPORT. Every meaning of an Iveel instruction goes through one of three operations: `run` for a thread by itself, `runGang` for
the instructions of a gang, `runTeam` for the copies. What is shown of those holds of every instruction. -/

namespace Sys2Proof.Machine

open Sys2Proof

theorem exec_alone (i : Instr) (s : State) (P : Host.Outcome State Fault Refusal → Prop) (he : (encode i).isSome = true)
    (ha : actsAlone i = true) (h : ∀ sg eff, P (run i sg eff s)) : P (exec i s) := by
  cases i
  case iaddA o => show P (execIaddA o s); unfold execIaddA intA runAlu; exact h _ _
  case iadd o => show P (execIadd o s); unfold execIadd intLong runAlu; exact h _ _
  case isubA o => show P (execIsubA o s); unfold execIsubA intA runAlu; exact h _ _
  case isub o => show P (execIsub o s); unfold execIsub intLong runAlu; exact h _ _
  case iaddc o => show P (execIaddc o s); unfold execIaddc runAlu; exact h _ _
  case isubb o => show P (execIsubb o s); unfold execIsubb runAlu; exact h _ _
  case imulA o => show P (execImulA o s); unfold execImulA intA runAlu; exact h _ _
  case imul o => show P (execImul o s); unfold execImul intLong runAlu; exact h _ _
  case imulh o => show P (execImulh o s); unfold execImulh runAlu; exact h _ _
  case imad o => show P (execImad o s); unfold execImad runAlu; exact h _ _
  case iminA o => show P (execIminA o s); unfold execIminA intA runAlu; exact h _ _
  case imin o => show P (execImin o s); unfold execImin intLong runAlu; exact h _ _
  case imaxA o => show P (execImaxA o s); unfold execImaxA intA runAlu; exact h _ _
  case imax o => show P (execImax o s); unfold execImax intLong runAlu; exact h _ _
  case iabsA o => show P (execIabsA o s); unfold execIabsA intA1 runAlu; exact h _ _
  case iabs o => show P (execIabs o s); unfold execIabs intLong1 runAlu; exact h _ _
  case inegA o => show P (execInegA o s); unfold execInegA intA1 runAlu; exact h _ _
  case ineg o => show P (execIneg o s); unfold execIneg intLong1 runAlu; exact h _ _
  case iset o => show P (execIset o s); unfold execIset runAlu; exact h _ _
  case andA o => show P (execAndA o s); unfold execAndA logicA runAlu; exact h _ _
  case and o => show P (execAnd o s); unfold execAnd logicLong runAlu; exact h _ _
  case orA o => show P (execOrA o s); unfold execOrA logicA runAlu; exact h _ _
  case or o => show P (execOr o s); unfold execOr logicLong runAlu; exact h _ _
  case xorA o => show P (execXorA o s); unfold execXorA logicA runAlu; exact h _ _
  case xor o => show P (execXor o s); unfold execXor logicLong runAlu; exact h _ _
  case andnA o => show P (execAndnA o s); unfold execAndnA logicA runAlu; exact h _ _
  case andn o => show P (execAndn o s); unfold execAndn logicLong runAlu; exact h _ _
  case notA o => show P (execNotA o s); unfold execNotA rawA1 runAlu; exact h _ _
  case not o => show P (execNot o s); unfold execNot rawLong1 runAlu; exact h _ _
  case shlAi o => show P (execShlAi o s); unfold execShlAi shiftAi runAlu; exact h _ _
  case shl o => show P (execShl o s); unfold execShl shiftLong runAlu; exact h _ _
  case shrAi o => show P (execShrAi o s); unfold execShrAi shiftAi runAlu; exact h _ _
  case shr o => show P (execShr o s); unfold execShr shiftLong runAlu; exact h _ _
  case sarAi o => show P (execSarAi o s); unfold execSarAi shiftAi runAlu; exact h _ _
  case sar o => show P (execSar o s); unfold execSar shiftLong runAlu; exact h _ _
  case rolAi o => show P (execRolAi o s); unfold execRolAi shiftAi runAlu; exact h _ _
  case rol o => show P (execRol o s); unfold execRol shiftLong runAlu; exact h _ _
  case rorAi o => show P (execRorAi o s); unfold execRorAi shiftAi runAlu; exact h _ _
  case ror o => show P (execRor o s); unfold execRor shiftLong runAlu; exact h _ _
  case popcA o => show P (execPopcA o s); unfold execPopcA countA runAlu; exact h _ _
  case popc o => show P (execPopc o s); unfold execPopc countLong runAlu; exact h _ _
  case clzA o => show P (execClzA o s); unfold execClzA countA runAlu; exact h _ _
  case clz o => show P (execClz o s); unfold execClz countLong runAlu; exact h _ _
  case ctzA o => show P (execCtzA o s); unfold execCtzA countA runAlu; exact h _ _
  case ctz o => show P (execCtz o s); unfold execCtz countLong runAlu; exact h _ _
  case brevA o => show P (execBrevA o s); unfold execBrevA countA runAlu; exact h _ _
  case brev o => show P (execBrev o s); unfold execBrev countLong runAlu; exact h _ _
  case bfx o => show P (execBfx o s); unfold execBfx runAlu; exact h _ _
  case bfi o => show P (execBfi o s); unfold execBfi runAlu; exact h _ _
  case prmt o => show P (execPrmt o s); unfold execPrmt runAlu; exact h _ _
  case sel o => show P (execSel o s); unfold execSel runAlu; exact h _ _
  case movA o => show P (execMovA o s); unfold execMovA rawA1 runAlu; exact h _ _
  case mov o => show P (execMov o s); unfold execMov rawLong1 runAlu; exact h _ _
  case moviAi o => show P (execMoviAi o s); unfold execMoviAi runAlu; exact h _ _
  case movi o => show P (execMovi o s); unfold execMovi runAlu; exact h _ _
  case movl o => show P (execMovl o s); unfold execMovl runAlu; exact h _ _
  case lea o => show P (execLea o s); unfold execLea runAlu; exact h _ _
  case pand o => show P (execPand o s); unfold execPand predTwo runAlu; exact h _ _
  case por o => show P (execPor o s); unfold execPor predTwo runAlu; exact h _ _
  case pxor o => show P (execPxor o s); unfold execPxor predTwo runAlu; exact h _ _
  case pnot o => show P (execPnot o s); unfold execPnot predOne runAlu; exact h _ _
  case pmov o => show P (execPmov o s); unfold execPmov predOne runAlu; exact h _ _
  case pmovSave o => show P (execPmovSave o s); unfold execPmovSave runAlu; exact h _ _
  case pmovLoad o => show P (execPmovLoad o s); unfold execPmovLoad runAlu; exact h _ _
  case vote o => cases ha
  case shfl o => cases ha
  case gred o => cases ha
  case gscan o => cases ha
  case matchG o => cases ha
  case elect o => cases ha
  case bra o => show P (execBra o s); unfold execBra; exact h _ _
  case brx o => show P (execBrx o s); unfold execBrx; exact h _ _
  case land o => show P (execLand o s); unfold execLand; exact h _ _
  case call o => show P (execCall o s); unfold execCall; exact h _ _
  case callx o => show P (execCallx o s); unfold execCallx; exact h _ _
  case ret o => show P (execRet o s); unfold execRet; exact h _ _
  case switch o => show P (execSwitch o s); unfold execSwitch; exact h _ _
  case reconv o => show P (execReconv o s); unfold execReconv; exact h _ _
  case exit o => show P (execExit o s); unfold execExit; exact h _ _
  case tail o => show P (execTail o s); unfold execTail; exact h _ _
  case yield o => show P (execYield o s); unfold execYield; exact h _ _
  case pause o => show P (execPause o s); unfold execPause; exact h _ _
  case nopA o => show P (execNopA o s); unfold execNopA; exact h _ _
  case nop o => show P (execNop o s); unfold execNop; exact h _ _
  case trap o => show P (execTrap o s); unfold execTrap; exact h _ _
  case bkpt o => show P (execBkpt o s); unfold execBkpt; exact h _ _
  case hret o => show P (execHret o s); unfold execHret; exact h _ _
  case faddA o => show P (execFaddA o s); unfold execFaddA floatA runAlu; exact h _ _
  case fadd o => show P (execFadd o s); unfold execFadd floatLong runAlu; exact h _ _
  case fsubA o => show P (execFsubA o s); unfold execFsubA floatA runAlu; exact h _ _
  case fsub o => show P (execFsub o s); unfold execFsub floatLong runAlu; exact h _ _
  case fmulA o => show P (execFmulA o s); unfold execFmulA floatA runAlu; exact h _ _
  case fmul o => show P (execFmul o s); unfold execFmul floatLong runAlu; exact h _ _
  case ffma o => show P (execFfma o s); unfold execFfma floatFma runAlu; exact h _ _
  case fminA o => show P (execFminA o s); unfold execFminA floatA runAlu; exact h _ _
  case fmin o => show P (execFmin o s); unfold execFmin floatLong runAlu; exact h _ _
  case fmaxA o => show P (execFmaxA o s); unfold execFmaxA floatA runAlu; exact h _ _
  case fmax o => show P (execFmax o s); unfold execFmax floatLong runAlu; exact h _ _
  case fset o => show P (execFset o s); unfold execFset floatSet runAlu; exact h _ _
  case frcpA o => show P (execFrcpA o s); unfold execFrcpA floatA1 runAlu; exact h _ _
  case frcp o => show P (execFrcp o s); unfold execFrcp floatLong1 runAlu; exact h _ _
  case frsqA o => show P (execFrsqA o s); unfold execFrsqA floatA1 runAlu; exact h _ _
  case frsq o => show P (execFrsq o s); unfold execFrsq floatLong1 runAlu; exact h _ _
  case fsqrtA o => show P (execFsqrtA o s); unfold execFsqrtA floatA1 runAlu; exact h _ _
  case fsqrt o => show P (execFsqrt o s); unfold execFsqrt floatLong1 runAlu; exact h _ _
  case fdivA o => show P (execFdivA o s); unfold execFdivA floatA runAlu; exact h _ _
  case fdiv o => show P (execFdiv o s); unfold execFdiv floatLong runAlu; exact h _ _
  case fex2A o => show P (execFex2A o s); unfold execFex2A floatA1 runAlu; exact h _ _
  case fex2 o => show P (execFex2 o s); unfold execFex2 floatLong1 runAlu; exact h _ _
  case flg2A o => show P (execFlg2A o s); unfold execFlg2A floatA1 runAlu; exact h _ _
  case flg2 o => show P (execFlg2 o s); unfold execFlg2 floatLong1 runAlu; exact h _ _
  case fsinA o => show P (execFsinA o s); unfold execFsinA floatA1 runAlu; exact h _ _
  case fsin o => show P (execFsin o s); unfold execFsin floatLong1 runAlu; exact h _ _
  case fcosA o => show P (execFcosA o s); unfold execFcosA floatA1 runAlu; exact h _ _
  case fcos o => show P (execFcos o s); unfold execFcos floatLong1 runAlu; exact h _ _
  case frndA o => show P (execFrndA o s); unfold execFrndA floatA1 runAlu; exact h _ _
  case frnd o => show P (execFrnd o s); unfold execFrnd floatLong1 runAlu; exact h _ _
  case ffrcA o => show P (execFfrcA o s); unfold execFfrcA floatA1 runAlu; exact h _ _
  case ffrc o => show P (execFfrc o s); unfold execFfrc floatLong1 runAlu; exact h _ _
  case fclassA o => show P (execFclassA o s); unfold execFclassA runAlu; exact h _ _
  case fclass o => show P (execFclass o s); unfold execFclass runAlu; exact h _ _
  case fscale o => show P (execFscale o s); unfold execFscale runAlu; exact h _ _
  case fqnt o => show P (execFqnt o s); unfold execFqnt runAlu; exact h _ _
  case fdeq o => show P (execFdeq o s); unfold execFdeq runAlu; exact h _ _
  case dadd o => show P (execDadd o s); unfold execDadd floatLong runAlu; exact h _ _
  case dmul o => show P (execDmul o s); unfold execDmul floatLong runAlu; exact h _ _
  case dfma o => show P (execDfma o s); unfold execDfma floatFma runAlu; exact h _ _
  case dmin o => show P (execDmin o s); unfold execDmin floatLong runAlu; exact h _ _
  case dmax o => show P (execDmax o s); unfold execDmax floatLong runAlu; exact h _ _
  case dset o => show P (execDset o s); unfold execDset floatSet runAlu; exact h _ _
  case ddiv o => show P (execDdiv o s); unfold execDdiv floatLong runAlu; exact h _ _
  case dsqrt o => show P (execDsqrt o s); unfold execDsqrt floatLong1 runAlu; exact h _ _
  case dfrnd o => show P (execDfrnd o s); unfold execDfrnd floatLong1 runAlu; exact h _ _
  case hadd2 o => show P (execHadd2 o s); unfold execHadd2 floatLong runAlu; exact h _ _
  case hmul2 o => show P (execHmul2 o s); unfold execHmul2 floatLong runAlu; exact h _ _
  case hfma2 o => show P (execHfma2 o s); unfold execHfma2 floatFma runAlu; exact h _ _
  case hmin2 o => show P (execHmin2 o s); unfold execHmin2 floatLong runAlu; exact h _ _
  case hmax2 o => show P (execHmax2 o s); unfold execHmax2 floatLong runAlu; exact h _ _
  case hset2 o => show P (execHset2 o s); unfold execHset2 floatSet runAlu; exact h _ _
  case cvt o => show P (execCvt o s); unfold execCvt runAlu; exact h _ _
  case pack o => show P (execPack o s); unfold execPack runAlu; dsimp only; split <;> exact h _ _
  case unpk o => show P (execUnpk o s); unfold execUnpk runAlu; dsimp only; split <;> exact h _ _
  case tagset o => show P (execTagset o s); unfold execTagset runAlu; exact h _ _
  case tagget o => show P (execTagget o s); unfold execTagget runAlu; exact h _ _
  case dot4 o => show P (execDot4 o s); unfold execDot4 dotLong runAlu; exact h _ _
  case dot8 o => show P (execDot8 o s); unfold execDot8 dotLong runAlu; exact h _ _
  case rngc o => show P (execRngc o s); unfold execRngc runAlu; exact h _ _
  case rngf o => show P (execRngf o s); unfold execRngf runAlu; exact h _ _
  case ld o => show P (execLd o s); unfold execLd; exact h _ _
  case st o => show P (execSt o s); unfold execSt; exact h _ _
  case ldk o => show P (execLdk o s); unfold execLdk; exact h _ _
  case pref o => show P (execPref o s); unfold execPref; exact h _ _
  case cchk o => show P (execCchk o s); unfold execCchk; exact h _ _
  case stn4 o => show P (execStn4 o s); unfold execStn4; exact h _ _
  case atom o => show P (execAtom o s); unfold execAtom; exact h _ _
  case cas o => show P (execCas o s); unfold execCas; exact h _ _
  case fatom o => show P (execFatom o s); unfold execFatom; exact h _ _
  case red o => show P (execRed o s); unfold execRed; exact h _ _
  case fence o => show P (execFence o s); unfold execFence; exact h _ _
  case flushIcache o => show P (execFlushIcache o s); unfold execFlushIcache; exact h _ _
  case flushNear o => show P (execFlushNear o s); unfold execFlushNear; exact h _ _
  case flushWcb o => show P (execFlushWcb o s); unfold execFlushWcb; exact h _ _
  case swarm o => show P (execSwarm o s); unfold execSwarm syncWrite; exact h _ _
  case swwait o => show P (execSwwait o s); unfold execSwwait; exact h _ _
  case swadd o => show P (execSwadd o s); unfold execSwadd syncWrite; exact h _ _
  case swread o => show P (execSwread o s); unfold execSwread; exact h _ _
  case barInit o => show P (execBarInit o s); unfold execBarInit; exact h _ _
  case barExp o => show P (execBarExp o s); unfold execBarExp; exact h _ _
  case barArv o => show P (execBarArv o s); unfold execBarArv; exact h _ _
  case barWait o => show P (execBarWait o s); unfold execBarWait; exact h _ _
  case barSync o => show P (execBarSync o s); unfold execBarSync; exact h _ _
  case barTest o => show P (execBarTest o s); unfold execBarTest; exact h _ _
  case mma o => show P (execMma o s); unfold execMma; exact h _ _
  case mmac o => show P (execMmac o s); unfold execMmac; exact h _ _
  case accrd o => show P (execAccrd o s); unfold execAccrd; exact h _ _
  case accwr o => show P (execAccwr o s); unfold execAccwr; exact h _ _
  case accclr o => show P (execAccclr o s); unfold execAccclr; exact h _ _
  case accst o => show P (execAccst o s); unfold execAccst; exact h _ _
  case copy o => cases ha
  case copyt o => cases ha
  case coll o => show P (execColl o s); unfold execColl; exact h _ _
  case sireg o => show P (execSireg o s); unfold execSireg; exact h _ _
  case sidrop o => show P (execSidrop o s); unfold execSidrop; exact h _ _
  case sidropAll o => show P (execSidropAll o s); unfold execSidropAll; exact h _ _
  case tkwait o => show P (execTkwait o s); unfold execTkwait; exact h _ _
  case tktest o => show P (execTktest o s); unfold execTktest runToken; exact h _ _
  case tkcancel o => show P (execTkcancel o s); unfold execTkcancel runToken; exact h _ _
  case tkdetach o => show P (execTkdetach o s); unfold execTkdetach runToken; exact h _ _
  case tkadopt o => show P (execTkadopt o s); unfold execTkadopt runToken; exact h _ _
  case tkprio o => show P (execTkprio o s); unfold execTkprio; exact h _ _
  case tkdepAdd o => show P (execTkdepAdd o s); unfold execTkdepAdd runToken; exact h _ _
  case tkdepRel o => show P (execTkdepRel o s); unfold execTkdepRel runToken; exact h _ _
  case tkinfo o => show P (execTkinfo o s); unfold execTkinfo; exact h _ _
  case mflip o => show P (execMflip o s); unfold execMflip; exact h _ _
  case launch o => show P (execLaunch o s); unfold execLaunch; exact h _ _
  case launchTry o => show P (execLaunchTry o s); unfold execLaunchTry; exact h _ _
  case join o => show P (execJoin o s); unfold execJoin; exact h _ _
  case joinAll o => show P (execJoinAll o s); unfold execJoinAll; exact h _ _
  case joinRng o => show P (execJoinRng o s); unfold execJoinRng; exact h _ _
  case rtsub o => show P (execRtsub o s); unfold execRtsub; exact h _ _
  case rtget o => show P (execRtget o s); unfold execRtget; exact h _ _
  case rtdone o => show P (execRtdone o s); unfold execRtdone; exact h _ _
  case qnote o => show P (execQnote o s); unfold execQnote; exact h _ _
  case dvnew o => show P (execDvnew o s); unfold execDvnew; exact h _ _
  case dvgrant o => show P (execDvgrant o s); unfold execDvgrant; exact h _ _
  case dvfeat o => show P (execDvfeat o s); unfold execDvfeat runChild; exact h _ _
  case dvfrz o => show P (execDvfrz o s); unfold execDvfrz runChild; exact h _ _
  case dvthaw o => show P (execDvthaw o s); unfold execDvthaw runChild; exact h _ _
  case dvckpt o => show P (execDvckpt o s); unfold execDvckpt runChild; exact h _ _
  case dvrevoke o => show P (execDvrevoke o s); unfold execDvrevoke; exact h _ _
  case dvinv o => show P (execDvinv o s); unfold execDvinv; exact h _ _
  case hqbind o => show P (execHqbind o s); unfold execHqbind; exact h _ _
  case hqbindOff o => show P (execHqbindOff o s); unfold execHqbindOff; exact h _ _
  case hqpop o => show P (execHqpop o s); unfold execHqpop; exact h _ _
  case hqpopWait o => show P (execHqpopWait o s); unfold execHqpopWait; exact h _ _
  case hqret o => show P (execHqret o s); unfold execHqret; exact h _ _
  case rdsr o => show P (execRdsr o s); unfold execRdsr; exact h _ _
  case wrsr o => show P (execWrsr o s); unfold execWrsr; exact h _ _
  case rdcnt o => show P (execRdcnt o s); unfold execRdcnt; exact h _ _
  all_goals cases he

/-- A gang instruction goes through `runGang`. -/
theorem exec_gang (i : Instr) (s : State) (P : Host.Outcome State Fault Refusal → Prop) (h : ∀ sg f, P (runGang i sg f s)) :
    match i with
    | .vote _ | .shfl _ | .gred _ | .gscan _ | .matchG _ | .elect _ => P (exec i s)
    | _ => True := by
  cases i
  case vote o => show P (execVote o s); unfold execVote; exact h _ _
  case shfl o => show P (execShfl o s); unfold execShfl; exact h _ _
  case gred o => show P (execGred o s); unfold execGred; exact h _ _
  case gscan o => show P (execGscan o s); unfold execGscan; exact h _ _
  case matchG o => show P (execMatchG o s); unfold execMatchG; exact h _ _
  case elect o => show P (execElect o s); unfold execElect; exact h _ _
  all_goals trivial

/-- A copy goes through `runTeam`. -/
theorem exec_team (o : Long) (s : State) (P : Host.Outcome State Fault Refusal → Prop) :
    ((∀ sg f, P (runTeam (.copy o) sg f s)) → P (exec (.copy o) s)) ∧ ((∀ sg f, P (runTeam (.copyt o) sg f s)) → P (exec (.copyt o) s)) := by
  refine ⟨fun h => ?_, fun h => ?_⟩
  · show P (execCopy o s); unfold execCopy; exact h _ _
  · show P (execCopyt o s); unfold execCopyt; exact h _ _

end Sys2Proof.Machine
end

