-- ==== Sys2Proof/Tests/Slice0.lean ====
section
/-! SUPPORT. Tests: words of the spec decoded, ill-formed terms refused, and states and operands that meet the hypotheses of the
statements. Expected values come from the spec's worked cases, or are worked out from its rules by hand. -/

namespace Sys2Proof.Tests

open Sys2Proof Sys2Proof.Machine

set_option maxRecDepth 50000
set_option exponentiation.threshold 4096

/-! ## States and what they meet -/

/-- The module started with one team of one gang of eight threads, whose thread 0 is in hand. -/
def demo : State := startSole State.reset

def b32 (n : Nat) : Reg := { val := BitVec.ofNat 32 n, tag := .b32 }

/-- Registers of the thread in hand. -/
def held (l : List (Nat × Reg)) (s : State) : State :=
  modThread s 2 0 (fun th => { th with regs := l.foldl (fun r p => r.set p.1 p.2) th.regs })

/-- A register pair that holds n. -/
def pair (d n : Nat) : List (Nat × Reg) := [(d, b32 (n % 2 ^ 32)), (d + 1, b32 (n / 2 ^ 32))]

/-- A window address in the team's own scratch. -/
def own (off : Nat) : Nat := 0x01F0000000000000 + off

/-- The thread in hand passes the checks of R76, and `f` holds of it and its team. -/
def meetsT (i : Instr) (sg : Sig) (s : State) (f : Team → Thread → Bool) : Bool :=
  match getTeam s 2 with
  | none => false
  | some t =>
    match getThread t 0 with
    | none => false
    | some th =>
      (s.issue.head? == some (2, 0)) && canRun th
        && (landingFails i th).isNone && i.allocated && i.features.all (fun b => (effFeat s t.asid).getLsbD b) && i.reservedOk
        && ((encOf i).grd == 7 || ((shortOn th [] [(encOf i).grd]).isEmpty && !interlocked th [] [(encOf i).grd]))
        && guardHolds (viewOf s th).preds (encOf i).grd (encOf i).gneg && !seedHeld i th
        && (reticlePc s t th).isNone && (badReg th sg.regs).isEmpty && !interlocked th sg.regs (sg.pr ++ sg.pw)
        && (shortOn th sg.regs (sg.pr ++ sg.pw)).isEmpty && (badTag (viewOf s th) sg.regs).isEmpty
        && f t th

theorem metT_of {i : Instr} {sg : Sig} {s : State} {f : Team → Thread → Bool} (h : meetsT i sg s f = true) :
    ∃ t th, Turn s 2 0 t th ∧ Passes i sg s t th ∧ f t th = true := by
  unfold meetsT at h
  split at h
  · exact absurd h (by decide)
  · rename_i t ht
    split at h
    · exact absurd h (by decide)
    · rename_i th hh
      simp only [Bool.and_eq_true, Bool.or_eq_true, beq_iff_eq, Bool.not_eq_true', List.isEmpty_iff, Option.isNone_iff_eq_none,
        List.all_eq_true] at h
      obtain ⟨⟨⟨⟨⟨⟨⟨⟨⟨⟨⟨⟨⟨⟨h1, h2⟩, h3⟩, h4⟩, h5⟩, h6⟩, h7⟩, h8⟩, hs⟩, h9⟩, h10⟩, h11⟩, h12⟩, h13⟩, h14⟩ := h
      refine ⟨t, th, ⟨h1, ht, hh, h2⟩, ⟨⟨h3, h4, h5, h6⟩, ⟨fun _ h7' => ?_, fun h7' => ?_⟩, h8, hs, ⟨h9, h10, h11, fun _ => h12, fun _ => h13⟩⟩, h14⟩
      · rcases h7 with h7 | h7
        · exact absurd h7 h7'
        · exact h7.1
      · rcases h7 with h7 | h7
        · exact absurd h7 h7'
        · exact h7.2

theorem metT_dec {i : Instr} {sg : Sig} {s : State} {P : Team → Thread → Prop} [∀ t th, Decidable (P t th)]
    (h : meetsT i sg s (fun t th => decide (P t th)) = true) : ∃ t th, Turn s 2 0 t th ∧ Passes i sg s t th ∧ P t th := by
  obtain ⟨t, th, h1, h2, h3⟩ := metT_of h
  exact ⟨t, th, h1, h2, of_decide_eq_true h3⟩

/-- The thread in hand passes the checks of R76, and `pre` holds. -/
def Met (i : Instr) (sg : Sig) (s : State) (pre : State → Nat → Nat → Cur → Prop) : Prop :=
  ∃ t th, Turn s 2 0 t th ∧ Passes i sg s t th ∧ pre (issueState s th) 2 0 (curOf s t th)

/-- The same as a Bool. -/
def meets (i : Instr) (sg : Sig) (s : State) (pre : State → Nat → Nat → Cur → Bool) : Bool :=
  meetsT i sg s (fun t th => pre (issueState s th) 2 0 (curOf s t th))

theorem met_of {i : Instr} {sg : Sig} {s : State} {pre : State → Nat → Nat → Cur → Bool} (h : meets i sg s pre = true) :
    Met i sg s (fun a b c d => pre a b c d = true) :=
  metT_of h

/-- With a condition that can be decided. -/
theorem met_dec {i : Instr} {sg : Sig} {s : State} {pre : State → Nat → Nat → Cur → Prop} [∀ a b c d, Decidable (pre a b c d)]
    (h : meets i sg s (fun a b c d => decide (pre a b c d)) = true) : Met i sg s pre := by
  obtain ⟨t, th, h1, h2, h3⟩ := metT_of h
  exact ⟨t, th, h1, h2, of_decide_eq_true h3⟩

theorem met_mono {i : Instr} {sg : Sig} {s : State} {p q : State → Nat → Nat → Cur → Prop} (h : Met i sg s p)
    (hpq : ∀ a b c d, p a b c d → q a b c d) : Met i sg s q := by
  obtain ⟨t, th, h1, h2, h3⟩ := h
  exact ⟨t, th, h1, h2, hpq _ _ _ _ h3⟩

def anyCase : State → Nat → Nat → Cur → Bool := fun _ _ _ _ => true

/-- The state in which every register the instruction uses carries the tag it expects, and those of `vals` hold the values given. -/
def fitted (sg : Sig) (vals : List (Nat × Nat)) (s : State) : State :=
  held (sg.regs.flatMap (fun u => if u.k || u.wr then [] else (List.range u.n).map (fun i =>
    (u.num + i, ({ val := BitVec.ofNat 32 (((vals.find? (fun p => p.1 == u.num + i)).map (·.2)).getD 0), tag := u.tags.getD i .b32 } : Reg))))) s

/-- Several instructions, each in a state whose registers fit it: all of them pass the checks. -/
theorem all_met {l : List (Instr × Sig)} (h : l.all (fun p => meets p.1 p.2 (fitted p.2 [] demo) anyCase) = true) :
    ∀ p ∈ l, Met p.1 p.2 (fitted p.2 [] demo) always := by
  intro p hp
  exact met_mono (met_of (List.all_eq_true.mp h p hp)) (fun _ _ _ _ _ => trivial)

/-! ## Instructions -/

def short (d n : Nat) : Short := { d := BitVec.ofNat 8 d, s := BitVec.ofNat 8 n, grd := 7, stl := 0 }

/-- A long form with every other field zero. -/
def longF (sub dst sa : Nat) (t : Tail) : Long :=
  { sub := BitVec.ofNat 6 sub, dst := BitVec.ofNat 10 dst, grd := 7, stl := 0, gneg := false, sat := false, kc := false, kb := false,
    ka := false, sa := BitVec.ofNat 10 sa, tail := t }

def formB (sub dst sa sb mod : Nat) : Long := longF sub dst sa (.b (BitVec.ofNat 6 mod) (BitVec.ofNat 10 sb))
def formI (sub dst sa imm : Nat) : Long := longF sub dst sa (.bi (BitVec.ofNat 16 imm))
def formC (sub dst sa sb mod imm modb sc : Nat) : Long :=
  longF sub dst sa (.c false (BitVec.ofNat 6 mod) (BitVec.ofNat 10 sb) (BitVec.ofNat 16 imm) (BitVec.ofNat 6 modb) (BitVec.ofNat 10 sc))
def formM (sub dst sa sb mod off : Nat) : Long :=
  longF sub dst sa (.cm false (BitVec.ofNat 6 mod) (BitVec.ofNat 10 sb) (BitVec.ofNat 32 off))
def formL (sub dst sa mod imm modb sc lit : Nat) : Long :=
  longF sub dst sa (.l false (BitVec.ofNat 6 mod) 0 (BitVec.ofNat 16 imm) (BitVec.ofNat 6 modb) (BitVec.ofNat 10 sc) (BitVec.ofNat 64 lit))

/-! ## Words of each family, laid out by hand from R57 to R59 with the opcodes of R77 -/

theorem test_decode_add : (decode [0x0201E004#32]).toOption = some (.iaddA (short 1 2), []) := by decide
theorem test_decode_sub3 : (decode [0x0C06E00A#32, 0x28002004#32, 0x0000040A#32]).toOption =
    some (.isub { formC 3 6 4 8 0 0 1 10 with sat := true, kb := true }, []) := by decide
theorem test_decode_iset : (decode [0x00093031#32, 0xC0019004#32]).toOption =
    some (.iset { formI 0 9 4 100 with grd := 1, stl := 4, gneg := true }, []) := by decide
theorem test_decode_and : (decode [0xC803E040#32]).toOption = some (.andA (short 3 200), []) := by decide
theorem test_decode_shl : (decode [0x1F035854#32]).toOption = some (.shlAi { short 3 31 with grd := 2, stl := 6 }, []) := by decide
theorem test_decode_movl : (decode [0x4404E0AB#32, 0#32, 0#32, 0x54442D18#32, 0x400921FB#32]).toOption =
    some (.movl (formL 0x11 4 0 0 0 0 0 0x400921FB54442D18), []) := by decide
theorem test_decode_pmov : (decode [0x0001E111#32, 0x00100002#32]).toOption = some (.pmov (formB 0 1 2 0 1), []) := by decide
theorem test_decode_vote : (decode [0x0C04E121#32, 0x00100005#32]).toOption = some (.vote (formB 3 4 5 0 1), []) := by decide
theorem test_decode_bra : (decode [0x0000E141#32, 0x43FFE800#32]).toOption = some (.bra (formI 0 0 0 0xFFFA), []) := by decide
theorem test_decode_ffma : (decode [0x400CE18E#32, 0x21C01404#32, 0x00000406#32]).toOption =
    some (.ffma { formC 0x10 12 4 5 0x1C 0 1 6 with sat := true }, []) := by decide
theorem test_decode_dmul : (decode [0x440CE1E5#32, 0x00301804#32]).toOption = some (.dmul (formB 0x11 12 4 6 3), []) := by decide
theorem test_decode_hset2 : (decode [0x4825E235#32, 0x00001404#32]).toOption = some (.hset2 (formB 0x12 0x25 4 5 0), []) := by decide
theorem test_decode_cvt : (decode [0x4004E241#32, 0x00100808#32]).toOption = some (.cvt (formB 0x10 4 8 2 1), []) := by decide
theorem test_decode_dot4 : (decode [0x4804E262#32, 0x00002408#32, 0x0000000A#32]).toOption = some (.dot4 (formC 0x12 4 8 9 0 0 0 10), []) := by decide
theorem test_decode_rngc : (decode [0x0010E26A#32, 0x00006014#32, 0#32]).toOption = some (.rngc (formC 0 16 20 24 0 0 0 0), []) := by decide
theorem test_decode_atom : (decode [0x6004E2A2#32, 0x01302808#32, 0xFFFFFFFC#32]).toOption =
    some (.atom (formM 24 4 8 10 0x13 0xFFFFFFFC), []) := by decide
theorem test_decode_fence : (decode [0x0000E2C1#32, 0x01A00000#32]).toOption = some (.fence (formB 0 0 0 0 0x1A), []) := by decide
theorem test_decode_flush : (decode [0x0800E2C5#32, 0x40000000#32]).toOption = some (.flushWcb (formI 2 0 0 0), []) := by decide
theorem test_decode_swadd : (decode [0x0004E2EA#32, 0x00002808#32, 0x00000010#32]).toOption = some (.swadd (formM 0 4 8 10 0 0x10), []) := by decide
theorem test_decode_mma : (decode [0x0004E352#32, 0x02000008#32, 0#32]).toOption = some (.mma (formC 0 4 8 0 0x20 0 0 0), []) := by decide
theorem test_decode_accst : (decode [0x4000E365#32, 0x00001008#32]).toOption = some (.accst (formB 0x10 0 8 4 0), []) := by decide
theorem test_decode_coll : (decode [0x1804E372#32, 0x00000008#32, 0x00000C00#32]).toOption = some (.coll (formC 6 4 8 0 0 0 3 0), []) := by decide
theorem test_decode_tkprio : (decode [0x0004E391#32, 0x40000C05#32]).toOption = some (.tkprio (formI 0 4 5 3), []) := by decide
theorem test_decode_launch_try : (decode [0x0404E3A2#32, 0x00200008#32, 0#32]).toOption = some (.launchTry (formC 1 4 8 0 2 0 0 0), []) := by decide
theorem test_decode_qnote : (decode [0x0000E3B5#32, 0x40013400#32]).toOption = some (.qnote (formI 0 0 0 77), []) := by decide
theorem test_decode_dvckpt : (decode [0x0004E3CE#32, 0x10002005#32, 0x0000000C#32]).toOption =
    some (.dvckpt { formC 0 4 5 8 0 0 0 12 with kc := true }, []) := by decide
theorem test_decode_hqret : (decode [0x0004E3E1#32, 0x40000405#32]).toOption = some (.hqret (formI 0 4 5 1), []) := by decide
theorem test_decode_rdsr : (decode [0x0004E3E5#32, 0x40004800#32]).toOption = some (.rdsr (formI 0 4 0 0x12), []) := by decide
/-- Words that hold no instruction: OPC 0, a length the opcode has not, a SUB it has not (R77, R78). -/
theorem test_decode_illegal : (decode [0#32]).toOption = none ∧ (decode [0x0000E143#32, 0#32, 0#32, 0#32, 0#32]).toOption = none ∧
    (decode [0xFC00E005#32, 0#32]).toOption = none := by decide

/-! ## One ill-formed term for each check (R61 to R65, R78) -/

/-- The form is allocated, and the term breaks a rule of reserved content. -/
def reserved (i : Instr) : Bool := i.allocated && !i.reservedOk

theorem test_wf_form : (Instr.bra (formB 0 0 0 0 0)).wf = false ∧ (Instr.iadd (formB 5 4 5 6 0)).wf = false := by decide
theorem test_wf_fields : ([
    .imin { formB 0 4 5 6 0 with sat := true }, .st { formI 0 4 8 0 with kc := true }, .exit (short 1 0), .exit (short 0 1),
    .reconv { short 0 0 with grd := 0 }, .trap (short 1 5), .bra (formI 0 4 0 8), .iadd { formB 0 4 64 6 0 with ka := true },
    .pand { formB 0 1 2 3 0 with ka := true }, .movi (formI 0 4 9 1), .iadd (formB 0 4 5 6 1), .iadd { formB 0 4 5 6 0 with kc := true },
    .iadd { formB 0 4 5 64 0 with kb := true }, .iadd { formI 0 4 5 6 with kb := true }, .shl (formI 0x0A 4 5 256),
    .iadd (longF 0 4 5 (.c true 0 6 0 1 8)), .iadd (formC 0 4 5 6 1 0 1 8), .iadd (formC 0 4 5 6 0 1 1 8), .iadd (formC 0 4 5 6 0 0 2 8),
    .iadd (formC 0 4 5 6 0 0 0 8), .iadd { formC 0 4 5 6 0 0 1 64 with kc := true }, .ld (longF 10 4 8 (.cm true 0 0 16)),
    .ld (formM 10 4 8 0 2 16), .ld (formM 10 4 8 1 0 16), .ld { formM 10 4 8 0 0 16 with kc := true }, .bra (formM 0 0 0 0 0 6),
    .iadd (longF 0 4 5 (.l true 0 0 0 0 0 7)), .iadd (longF 0 4 5 (.l false 0 1 0 0 0 7)), .iadd (formL 0 4 5 0 0 0 0 (2 ^ 32)),
    .switch (formL 0 0 5 0 0 0 0 256), .iset (formB 0 48 4 5 0), .iset (formC 0 0 4 5 0 0 0 1), .fadd (formB 0x10 4 5 6 5),
    .fadd (formB 0x10 4 5 6 0x20), .fsqrt (formB 0x10 4 5 0 0x10), .vote (formC 0 1 2 0 0 7 0 0), .gred (formB 0 4 5 0 0x30),
    .cvt (formB 0x10 4 5 0x10 0), .dot4 (formC 0 4 8 9 0 1 0 10), .rdsr (formI 0 4 0 0x0C), .barInit (formI 0 0 16 5),
    .tkprio { formI 0 4 5 3 with gneg := true, sat := true }, .mma (formC 0 4 8 0 0 1 0 0), .launchTry (formC 1 4 8 0 8 0 0 0)] :
    List Instr).all reserved = true := by decide

/-! ## States and operands that meet the hypotheses -/

/-- Thread 0 of team 2 is in hand, and `f` holds of the team and the thread. -/
def atHead (s : State) (f : Team → Thread → Bool) : Bool :=
  s.issue.head? == some (2, 0) && match getTeam s 2 with
    | none => false
    | some t => match getThread t 0 with
      | none => false
      | some th => canRun th && f t th

theorem head_of {s : State} {P : Team → Thread → Prop} [∀ t th, Decidable (P t th)]
    (h : atHead s (fun t th => decide (P t th)) = true) : ∃ t th, Turn s 2 0 t th ∧ P t th := by
  unfold atHead at h
  simp only [Bool.and_eq_true, beq_iff_eq] at h
  obtain ⟨h1, h2⟩ := h
  split at h2
  · exact absurd h2 (by decide)
  · rename_i t ht
    split at h2
    · exact absurd h2 (by decide)
    · rename_i th hh
      simp only [Bool.and_eq_true, decide_eq_true_eq] at h2
      exact ⟨t, th, ⟨h1, ht, hh, h2.1⟩, h2.2⟩

theorem admitted_iff {i : Instr} {s : State} {t : Team} {th : Thread} : Admitted i s t th ↔
    landingFails i th = none ∧ i.allocated = true ∧ (∀ b ∈ i.features, (effFeat s t.asid).getLsbD b = true) ∧ i.reservedOk = true :=
  ⟨fun h => ⟨h.landing, h.form, h.features, h.fields⟩, fun h => ⟨h.1, h.2.1, h.2.2.1, h.2.2.2⟩⟩

theorem ready_iff {i : Instr} {t : Team} {th : Thread} : GuardReady i t th ↔
    (sbChk t th = true → (encOf i).grd ≠ 7 → shortOn th [] [(encOf i).grd] = []) ∧
    ((encOf i).grd ≠ 7 → interlocked th [] [(encOf i).grd] = false) :=
  ⟨fun h => ⟨h.stall, h.free⟩, fun h => ⟨h.1, h.2⟩⟩

/-- The thread in hand, and its team, changed. -/
def onThread (f : Thread → Thread) (s : State) : State := modThread s 2 0 f
def onTeam (f : Team → Team) (s : State) : State := modTeam s 2 f

/-- SBCHK set, and a write of v4 and of p1 one instruction ago with a latency of 4. -/
def recent (pred : Bool) (num : Nat) : State :=
  onTeam (fun t => { t with ctl := 0x10 }) (onThread (fun th =>
    { th with hazards := [{ pred := pred, num := num, old := b32 7, dist := 1, lat := 4 }] }) demo)

/-- A handler and a mask that sends every cause to it. -/
def handled : State := onTeam (fun t => { t with hent := 0x30000, trm := ~~~ 0 }) demo

/-- The thread in its handler, with bytes of its frame: ACTION is byte 83, RADDR begins at byte 88. -/
def inFrame (l : List (Nat × Byte)) : State :=
  let s := onThread (fun th => { th with handler := true }) handled
  match getTeam s 2 with
  | some t => l.foldl (fun st p => writeKey st (sliceKey (teamCore t) (frameOff t 0) + p.1) [p.2]) s
  | none => s

def add45 : Instr := .iadd (formB 0 6 4 5 0)
def add45Sig : Sig := sigThree (formB 0 6 4 5 0)
def guarded (g : Nat) : Instr := .iadd { formB 0 6 4 5 0 with grd := BitVec.ofNat 3 g }

theorem wit_DecodeOfEncode : add45.allocated = true ∧ (encode add45).isSome = true := by decide
theorem wit_EncodeOfDecode : ∃ i rest, decode [0x0201E004#32, 5#32] = .ok (i, rest) := ⟨.iaddA (short 1 2), [5#32], rfl⟩
theorem wit_StepRunsDecoded_inputs : ({ demo with inputs := [.wdog] } : State).inputs = .wdog :: [] := rfl
/-- Two writes of the ports to one register in one cycle: the first is port A's, which lost the previous tie, or port B's. -/
theorem wit_StepRunsDecoded_tie : sharedWrite (.registerWrite .a 0x120 1) = some (.a, 0x120) ∧
    sharedWrite (.registerWrite .b 0x120 2) = some (.b, 0x120) ∧ Port.a ≠ Port.b ∧ demo.host.tieLost = .a ∧
    settleTie demo .wdog (.registerWrite .b 0x120 2) = none := by decide
theorem wit_StepRunsDecoded_site : ∃ site s1, fetchSite demo 0 (0x20000 + BitVec.ofNat 64 (4 * 0)) = (.ok site, s1) ∧
    site.chip = chipId s1 ∧ poisoned s1 site.key 4 = false := by
  have h : (match fetchSite demo 0 (0x20000 + BitVec.ofNat 64 (4 * 0)) with
    | (.ok site, s1) => site.chip == chipId s1 && !poisoned s1 site.key 4
    | (.error _, _) => false) = true := by decide
  split at h
  · rename_i site s1 heq
    simp only [Bool.and_eq_true, beq_iff_eq, Bool.not_eq_true'] at h
    exact ⟨site, s1, heq, h⟩
  · exact absurd h (by decide)

/-- What the first clause of StepRunsDecoded asks. -/
def fetches (s : State) : Bool :=
  s.inputs.isEmpty && running s && s.fab.arrived.isEmpty && match (pruned s).issue with
    | [] => false
    | (uid, tid) :: _ => match getTeam s uid with
      | none => false
      | some t => match getThread t tid with
        | none => false
        | some th => match instrWords (pruned s) uid tid (teamCore t) t.asid th.pc with
          | (.ok ws, _) => (decode ws).toOption.isSome
          | _ => false

theorem wit_StepRunsDecoded : ∃ (s s1 : State) (uid tid : Nat) (r : List (Nat × Nat)) (t : Team) (th : Thread) (ws rest : List W32)
    (i : Instr), s.inputs = [] ∧ running s = true ∧ s.fab.arrived = [] ∧ (pruned s).issue = (uid, tid) :: r ∧
    getTeam s uid = some t ∧ getThread t tid = some th ∧
    instrWords (pruned s) uid tid (teamCore t) t.asid th.pc = (.ok ws, s1) ∧ decode ws = .ok (i, rest) := by
  have h : fetches (State.reset.withFetchWord 32 0x0201E004) = true := by decide
  unfold fetches at h
  simp only [Bool.and_eq_true, List.isEmpty_iff] at h
  obtain ⟨⟨⟨h1, h2⟩, h3⟩, h4⟩ := h
  split at h4
  · exact absurd h4 (by decide)
  · rename_i uid tid r h5
    split at h4
    · exact absurd h4 (by decide)
    · rename_i t h6
      split at h4
      · exact absurd h4 (by decide)
      · rename_i th h7
        split at h4
        · rename_i ws s1 h8
          cases hd : decode ws with
          | error e => rw [hd] at h4; cases h4
          | ok p => exact ⟨_, s1, uid, tid, r, t, th, ws, p.2, p.1, h1, h2, h3, h5, h6, h7, h8, hd⟩
        · exact absurd h4 (by decide)

theorem wit_UnlistedOpcodesAreIllegal : (opcOf 0#32).toNat = 0 ∧ 0xFC ≤ (opcOf 0x3F0#32).toNat ∧ 0xFC ≤ (opcOf 0xFFFFFFFF#32).toNat ∧
    ((decode [0#32]).toOption = none ∧ ∃ t th, Turn demo 2 0 t th ∧ th.landing = none) :=
  ⟨by decide, by decide, by decide, by decide, head_of (by decide)⟩
/-- A thread in its handler, and its frame's bytes: of the record, with bit 663, and of the saved registers; and no handler at all. -/
theorem wit_HomeWritesOnlyItsBytes_frame : (inFrame []).mem.wf = true ∧ (getTeam (inFrame []) 2).map (fun t =>
      [0, 63, 64, 82].map (fun i => frameByteAt (inFrame []) (sliceKey (teamCore t) (frameOff t 0) + i))) =
      some [some 0, some 63, some 64, some 82] ∧
    ∀ t ∈ demo.teams, ∀ th ∈ t.threads, th.handler = false := by decide
theorem wit_HomeWritesOnlyItsBytes : demo.mem.wf = true ∧ ∀ p ∈ [((5 : Nat), (1 : Byte)), (6, 0)], p.1 ≠ 7 := by decide

/-! Checks: a witness for each clause of CheckOrder and of EncodingChecksTrap. -/

theorem wit_landing : (encode add45).isSome = true ∧
    ∃ t th, Turn (onThread (fun th => { th with landing := some (0x100, 0x20000) }) demo) 2 0 t th ∧
      landingFails add45 th = some 0x100 :=
  ⟨by decide, head_of (by decide)⟩
theorem wit_form : (encode (.bra (formB 0 0 0 0 0))).isSome = true ∧
    ∃ t th, Turn demo 2 0 t th ∧ landingFails (.bra (formB 0 0 0 0 0)) th = none ∧ (Instr.bra (formB 0 0 0 0 0)).allocated = false :=
  ⟨by decide, head_of (by decide)⟩
theorem wit_feature : ∃ t th, Turn (modCtx demo 0 (fun c => { c with feat := 0 })) 2 0 t th ∧
    landingFails (.coll (formC 0 4 8 0 0 0 0 0)) th = none ∧ (Instr.coll (formC 0 4 8 0 0 0 0 0)).allocated = true ∧
    ∃ b ∈ (Instr.coll (formC 0 4 8 0 0 0 0 0)).features, (effFeat (modCtx demo 0 (fun c => { c with feat := 0 })) t.asid).getLsbD b = false :=
  head_of (by decide)
theorem wit_field : ∃ t th, Turn demo 2 0 t th ∧ landingFails (.exit (short 1 0)) th = none ∧
    (Instr.exit (short 1 0)).allocated = true ∧
    (∀ b ∈ (Instr.exit (short 1 0)).features, (effFeat demo t.asid).getLsbD b = true) ∧ (Instr.exit (short 1 0)).reservedOk = false :=
  head_of (by decide)
theorem wit_guard_stall : ∃ t th, Turn (recent true 1) 2 0 t th ∧ Admitted (guarded 1) (recent true 1) t th ∧ sbChk t th = true ∧
    (encOf (guarded 1)).grd ≠ 7 ∧ shortOn th [] [(encOf (guarded 1)).grd] ≠ [] := by
  simp only [admitted_iff]; exact head_of (by decide)
theorem wit_guard_false : (encode (guarded 1)).isSome = true ∧ actsAlone (guarded 1) = true ∧ isControl (guarded 1) = false ∧
    ∃ t th, Turn demo 2 0 t th ∧ Admitted (guarded 1) demo t th ∧ GuardReady (guarded 1) t th ∧
      guardHolds (viewOf demo th).preds (encOf (guarded 1)).grd (encOf (guarded 1)).gneg = false :=
  ⟨by decide, by decide, by decide, by simp only [admitted_iff, ready_iff]; exact head_of (by decide)⟩
/-- The checks up to the guard pass. -/
def Begins (i : Instr) (s : State) (t : Team) (th : Thread) : Prop :=
  Admitted i s t th ∧ GuardReady i t th ∧ guardHolds (viewOf s th).preds (encOf i).grd (encOf i).gneg = true ∧
    seedHeld i th = false ∧ reticlePc s t th = none
theorem wit_register : ∃ t th, Turn demo 2 0 t th ∧ Begins (.iadd (formB 0 63 4 64 0)) demo t th ∧
    badReg th (sigThree (formB 0 63 4 64 0)).regs ≠ [] := by
  simp only [Begins, admitted_iff, ready_iff]; exact head_of (by decide)
theorem wit_interlock : ∃ t th, Turn (onThread (fun th => { th with pending := [.v 5] }) demo) 2 0 t th ∧
    Begins add45 (onThread (fun th => { th with pending := [.v 5] }) demo) t th ∧ badReg th add45Sig.regs = [] ∧
    interlocked th add45Sig.regs (add45Sig.pr ++ add45Sig.pw) = true := by
  simp only [Begins, admitted_iff, ready_iff]; exact head_of (by decide)
theorem wit_stall : ∃ t th, Turn (recent false 4) 2 0 t th ∧ Begins add45 (recent false 4) t th ∧ badReg th add45Sig.regs = [] ∧
    interlocked th add45Sig.regs (add45Sig.pr ++ add45Sig.pw) = false ∧ sbChk t th = true ∧
    shortOn th add45Sig.regs (add45Sig.pr ++ add45Sig.pw) ≠ [] := by
  simp only [Begins, admitted_iff, ready_iff]; exact head_of (by decide)
theorem wit_tag : ∃ t th, Turn (held [(4, { val := 0, tag := .f32 })] demo) 2 0 t th ∧
    Begins add45 (held [(4, { val := 0, tag := .f32 })] demo) t th ∧ badReg th add45Sig.regs = [] ∧
    interlocked th add45Sig.regs (add45Sig.pr ++ add45Sig.pw) = false ∧
    (sbChk t th = true → shortOn th add45Sig.regs (add45Sig.pr ++ add45Sig.pw) = []) ∧ tagRlx t th = false ∧
    badTag (viewOf (held [(4, { val := 0, tag := .f32 })] demo) th) add45Sig.regs ≠ [] := by
  simp only [Begins, admitted_iff, ready_iff]; exact head_of (by decide)

/-- sr.seed awaits a `wrsr`, and the form rounds by it. -/
theorem wit_seed : ∃ t th, Turn (onThread (fun th => { th with pending := [.seed] }) demo) 2 0 t th ∧
    Admitted (.fadd (formB 0x10 6 4 5 4)) (onThread (fun th => { th with pending := [.seed] }) demo) t th ∧
    GuardReady (.fadd (formB 0x10 6 4 5 4)) t th ∧ guardHolds (viewOf demo th).preds (encOf (.fadd (formB 0x10 6 4 5 4))).grd
      (encOf (.fadd (formB 0x10 6 4 5 4))).gneg = true ∧ seedHeld (.fadd (formB 0x10 6 4 5 4)) th = true := by
  simp only [admitted_iff, ready_iff]; exact head_of (by decide)

/-- A short hazard with SBCHK 0, on a register and on a predicate that exist; and none. -/
theorem wit_ShortStallReadsEither : ∃ t th, Turn (onTeam (fun t => { t with ctl := 0 }) (recent false 4)) 2 0 t th ∧ sbChk t th = false ∧
    4 < th.regs.length ∧ hazardOn th false 4 = true ∧ (∀ h ∈ th.hazards, h.pred = true → h.num < 7) :=
  head_of (by decide)
theorem wit_ShortStallReadsEither_none : ∃ t th, Turn demo 2 0 t th ∧ ∀ h ∈ th.hazards, isShort h = false := head_of (by decide)
theorem wit_StallDistancesGrow : (encOf (.nopA { short 0 0 with stl := 7 })).stl = 7 ∧ (encOf add45).stl < 7 ∧
    (encOf add45).stl + 1 < (encOf add45).lat ∧ 1 + 1 + (encOf add45).stl < 4 ∧ (encOf (.ld (formI 10 4 8 0))).lat = 0 ∧
    6 ∈ writtenRegs add45Sig := by decide
theorem wit_TrapEntersOwnHandler : ∃ t th, Turn handled 2 0 t th ∧ (getCtx handled t.asid).isSome = true ∧ th.st ≠ .gone ∧
    4 ≤ th.regs.length ∧ t.trm.getLsbD (causeCode .trapInstr) = true ∧ hentOf t th ≠ 0 ∧ th.handler = false := head_of (by decide)
theorem wit_StallDistancesGrow_seed : ({ sigR (useRaw 2 (.v 8)) with seedW := true } : Sig).seedW = true ∧
    (encOf (.wrsr (formI 0 0 8 0x15))).lat = 0 ∧ ((getTeam demo 2).bind (getThread · 0)).map (fun th =>
      (th.st == .ready, th.saved, th.drain, ({ th with stall := 2 + 1 } : Thread).stall)) = some (true, false, false, 2 + 1) := by decide
/-- The ways to TrapParksThread: a cause of its own, a clear mask bit, no handler address, a thread in its handler. -/
theorem wit_TrapParksThread : (∃ t th, Turn handled 2 0 t th ∧ (getCtx handled t.asid).isSome = true ∧ th.st ≠ .gone) ∧
    (∃ t th, Turn demo 2 0 t th ∧ (getCtx demo t.asid).isSome = true ∧ th.st ≠ .gone ∧
      t.trm.getLsbD (causeCode .trapInstr) = false ∧ hentOf t th = 0) ∧
    ∃ t th, Turn (inFrame []) 2 0 t th ∧ (getCtx (inFrame []) t.asid).isSome = true ∧ th.st ≠ .gone ∧ th.handler = true :=
  ⟨head_of (by decide), head_of (by decide), head_of (by decide)⟩

def frame (s : State) (t : Team) (hi lo : Nat) : Nat := frameBits s t 0 hi lo
theorem wit_HandlerReturn_outside : Met (.hret (short 0 0)) {} demo (fun _ _ _ c => c.th.handler = false) := met_dec (by decide)
theorem wit_HandlerReturn_bad :
    Met (.hret (short 0 0)) {} (inFrame [(83, 3)]) (fun s _ _ c => c.th.handler = true ∧ frame s c.team 671 664 > 2) ∧
    Met (.hret (short 0 0)) {} (inFrame [(83, 2), (88, 2)]) (fun s _ _ c => c.th.handler = true ∧ frame s c.team 767 704 % 4 ≠ 0) :=
  ⟨met_dec (by decide), met_dec (by decide)⟩
theorem wit_HandlerReturn : Met (.hret (short 0 0)) {} (inFrame [(83, 2), (88, 4), (90, 3)]) (fun s _ _ c =>
    c.th.handler = true ∧ frame s c.team 671 664 = 2 ∧ frame s c.team 767 704 % 4 = 0 ∧ 4 ≤ c.th.regs.length) := met_dec (by decide)

/-! Integers, logic, moves: each instruction passes the checks in a state whose registers fit it. -/

def with_ (sg : Sig) (l : List Instr) : List (Instr × Sig) := l.map (fun i => (i, sg))
def one_ (o : Long) : Sig := sigR (useTyped o.sub (srcA o) ++ useDst o.dst.toNat (tyRegs o.sub))
def two_ (o : Long) : Sig := sigR (useTyped o.sub (srcA o) ++ useTyped o.sub (srcB o o.sub) ++ useDst o.dst.toNat (tyRegs o.sub))
def three_ (o : Long) : Sig := sigR (useTyped o.sub (srcA o) ++ useTyped o.sub (srcB o o.sub) ++ useTyped o.sub (srcC o)
  ++ useDst o.dst.toNat (tyRegs o.sub))
def i64 : Long := formB 2 8 4 6 0
def tri : Long := formC 0 9 4 5 0 0 1 6

theorem wit_ShortIntegerForms : ∀ p ∈ with_ (sigA (short 4 5)) ([Instr.iaddA, .isubA, .imulA, .iminA, .imaxA].map (· (short 4 5)))
    ++ with_ (sigA1 (short 4 5)) [.iabsA (short 4 5), .inegA (short 4 5)], Met p.1 p.2 (fitted p.2 [] demo) always := all_met (by decide)
theorem wit_LongIntegerForms : ∀ p ∈ with_ (sigThree tri) [.iadd tri, .isub tri, .imul tri, .imin tri, .imax tri]
    ++ with_ (sigThree i64) [.iadd i64, .isub i64, .imul i64, .imin i64, .imax i64]
    ++ with_ (one_ (formB 2 8 4 0 0)) [.iabs (formB 2 8 4 0 0), .ineg (formB 2 8 4 0 0)]
    ++ with_ (two_ i64) [.imulh i64] ++ with_ (sigR (useTyped 2 (srcA i64) ++ useTyped 2 (srcB i64 2) ++ useTyped 2 (imadAddend i64)
        ++ useDst 8 2)) [.imad i64], Met p.1 p.2 (fitted p.2 [] demo) always := all_met (by decide)
theorem wit_IntegerValues : (0 : BitVec 6).toNat < 4 ∧ (3 : BitVec 6).toNat < 4 ∧ (2 : Nat) ^ 32 - 1 < 2 ^ 32 ∧
    ∀ p ∈ with_ (sigCarry (formB 3 8 4 6 1)) [.iaddc (formB 3 8 4 6 1), .isubb (formB 3 8 4 6 1)],
      Met p.1 p.2 (fitted p.2 [] demo) always := ⟨by decide, by decide, by decide, all_met (by decide)⟩
theorem wit_Comparisons :
    let o := formC 0 9 4 5 0 0 1 2
    let sg := fun (o : Long) (w : List Nat) => sigP (useTyped o.sub (srcA o) ++ useTyped o.sub (srcB o o.sub)) (combReads o) w
    let h := formB 0x12 0x25 4 5 0
    let e := formB 0x13 0x69 4 5 0
    setPd h ≠ setPe h ∧ setPd e = setPe e ∧ ∀ p ∈ with_ (sg o [setPd o]) [.iset o]
      ++ with_ (sg (formB 0x10 1 4 5 0) [1]) [.fset (formB 0x10 1 4 5 0)] ++ with_ (sg (formB 0x11 1 4 6 0) [1]) [.dset (formB 0x11 1 4 6 0)]
      ++ with_ (sg h [setPd h, setPe h]) [.hset2 h] ++ with_ (sg e [setPd e, setPe e]) [.hset2 e],
      Met p.1 p.2 (fitted p.2 [] demo) always := ⟨by decide, by decide, all_met (by decide)⟩
theorem wit_UntypedInstructions :
    let a := short 4 5
    let b := formB 0x0B 8 4 6 0
    let c := formC 0x0B 10 4 6 0 0 1 8
    let q := formB 0x0C 8 4 0 0
    let pr := formB 0x0A 8 4 6 0
    let t := formI 0 8 4 2
    let srcs := fun (o : Long) => sigR (([srcA o, srcB o o.sub] ++ (if o.tri then [srcC o] else [])).flatMap (useRaw 2) ++ useDst o.dst.toNat 2)
    let one := fun (n : Nat) (o : Long) => sigR (useRaw n (srcA o) ++ useDst o.dst.toNat n)
    ∀ p ∈ with_ (sigR (useRaw 1 (.v 4) ++ useRaw 1 (.v 5) ++ useDst 4 1)) [.andA a, .orA a, .xorA a, .andnA a]
      ++ with_ (sigR (useRaw 1 (.v 5) ++ useDst 4 1)) [.notA a, .movA a] ++ with_ (srcs b) [.and b, .or b] ++ with_ (srcs c) [.xor c, .andn c]
      ++ with_ (one 2 (formB 0x0B 8 4 0 0)) [.not (formB 0x0B 8 4 0 0)] ++ with_ (one 4 q) [.mov q]
      ++ with_ (sigP (useRaw 2 (srcA b) ++ useRaw 2 (srcB b b.sub) ++ useDst 8 2) [0] []) [.sel b]
      ++ with_ (sigR (useRaw 1 (srcA pr) ++ useRaw 1 (prmtB pr) ++ prmtSelUse pr ++ useDst 8 1)) [.prmt pr]
      ++ with_ (one 1 t) [.tagset t] ++ with_ (one 1 (formB 0 8 4 0 0)) [.tagget (formB 0 8 4 0 0)],
      Met p.1 p.2 (fitted p.2 [] demo) always := all_met (by decide)
theorem wit_ShiftsCountsFields :
    let a := short 4 31
    let n := short 4 5
    let c := formC 0x0A 8 4 5 0 0 0 6
    let i := formI 0x00 8 4 32
    let u := formB 0x0B 8 4 0 0
    let f := formB 0x00 8 4 5 0
    let g := formC 0x0A 8 4 5 0 0 0 6
    let sh := fun (o : Long) => sigR (useTyped o.sub (srcA o) ++ useOpd (shiftCount o) 1 [.b32]
      ++ (if o.form == .c then useTyped o.sub (srcC o) else []) ++ useDst o.dst.toNat (tyRegs o.sub))
    let cnt := fun (k : Nat) => sigR (useTyped 0x0B (srcA u) ++ useDst 8 k)
    let desc := fun (o : Long) => useTyped o.sub (srcA o) ++ useOpd (descOpd o) 1 [.b32]
    ∀ p ∈ with_ (sigAi a) [.shlAi a, .shrAi a, .sarAi a, .rolAi a, .rorAi a]
      ++ with_ (sigA1 n) [.popcA n, .clzA n, .ctzA n, .brevA n] ++ with_ (sh c) [.shl c, .shr c, .rol c, .ror c] ++ with_ (sh i) [.sar i]
      ++ with_ (cnt 1) [.popc u, .clz u, .ctz u] ++ with_ (cnt 2) [.brev u]
      ++ with_ (sigR (desc f ++ useDst 8 1)) [.bfx f] ++ with_ (sigR (desc g ++ useTyped g.sub (bfiBase g) ++ useDst 8 1)) [.bfi g],
      Met p.1 p.2 (fitted p.2 [] demo) always := all_met (by decide)
theorem wit_ShiftAndFieldValues : (0 : Nat) < 32 ∧ (2 : Nat) ^ 32 - 1 < 2 ^ 32 ∧ clzBits 32 1 < 32 ∧ 30 < clzBits 32 1 ∧
    ctzBits 32 0x80000000 < 32 ∧ 30 < ctzBits 32 0x80000000 ∧ 0 < min 32 32 ∧ (3 : Nat) < 4 := by decide
theorem wit_MovesAndPredicates :
    let m := formI 0x11 8 0 0x3F80
    let l := formL 0x0B 8 0 0 0 0 0 (2 ^ 63)
    let e := formC 2 8 4 6 5 0xFFFF 0 0
    let b := formB 0 1 2 3 3
    let n := formB 0 1 2 0 1
    ∀ p ∈ with_ (sigR (useDst 4 1)) [.moviAi (short 4 128)] ++ with_ (sigR (useDst 8 (tyTags m.sub).length)) [.movi m]
      ++ with_ (sigR (useDst 8 (tyTags l.sub).length)) [.movl l]
      ++ with_ (sigR (useRaw 2 (srcA e) ++ useTyped e.sub (srcB e e.sub) ++ useDst 8 2)) [.lea e]
      ++ with_ { pr := [2, 3], pw := [1] } [.pand b, .por b, .pxor b] ++ with_ { pr := [2], pw := [1] } [.pnot n, .pmov n]
      ++ with_ (sigP (useDst 8 1) [0, 1, 2, 3, 4, 5, 6] []) [.pmovSave (formB 1 8 0 0 0)]
      ++ with_ { regs := useRaw 1 (.v 4), pw := [0, 1, 2, 3, 4, 5, 6] } [.pmovLoad (formB 2 0 4 0 0)],
      Met p.1 p.2 (fitted p.2 [] demo) always := all_met (by decide)

/-! Floating point. -/

theorem wit_FloatArithmetic :
    let a := short 4 5
    let f := formB 0x10 8 4 5 0x1C
    let fr := formB 0x10 8 4 5 0x18
    let f3 := formC 0x10 8 4 5 0x1C 0 1 6
    let d := formB 0x11 8 4 6 0x1B
    let d3 := formC 0x11 8 4 6 0x1B 0 1 10
    let h := formB 0x12 8 4 5 4
    let g := formB 0x13 8 4 5 0
    let h3 := formC 0x13 8 4 5 4 0 0 6
    ∀ p ∈ with_ (sigR (useTyped 0x10 (.v 4) ++ useTyped 0x10 (.v 5) ++ useDst 4 1))
        [.faddA a, .fsubA a, .fmulA a, .fminA a, .fmaxA a, .fdivA a]
      ++ with_ (two_ f) [.fadd f, .fsub f, .fmul f] ++ with_ (two_ fr) [.fmin fr, .fmax fr, .fdiv fr] ++ with_ (three_ f3) [.ffma f3]
      ++ with_ (two_ d) [.dadd d, .dmul d, .ddiv d] ++ with_ (two_ (formB 0x11 8 4 6 0)) [.dmin (formB 0x11 8 4 6 0), .dmax (formB 0x11 8 4 6 0)]
      ++ with_ (three_ d3) [.dfma d3] ++ with_ (two_ h) [.hadd2 h, .hmul2 h] ++ with_ (two_ g) [.hmin2 g, .hmax2 g] ++ with_ (three_ h3) [.hfma2 h3],
      Met p.1 p.2 (fitted p.2 [] demo) always := all_met (by decide)
theorem wit_FloatFunctions :
    let a := short 4 5
    let u := formB 0x10 8 4 0 8
    let d := formB 0x11 8 4 0 3
    ∀ p ∈ with_ (sigR (useTyped 0x10 (.v 5) ++ useDst 4 1))
        [.frcpA a, .frsqA a, .fsqrtA a, .fex2A a, .flg2A a, .fsinA a, .fcosA a, .frndA a, .ffrcA a, .fclassA a]
      ++ with_ (one_ u) [.frcp u, .frsq u, .fsqrt u, .fex2 u, .flg2 u, .fsin u, .fcos u, .frnd u, .ffrc u] ++ with_ (one_ d) [.dsqrt d, .dfrnd d]
      ++ with_ (sigR (useTyped 0x10 (.v 4) ++ useDst 8 1)) [.fclass (formB 0x10 8 4 0 0)],
      Met p.1 p.2 (fitted p.2 [] demo) always := all_met (by decide)
theorem wit_NanResults : decodeNum fmtF32 0xFFC00001 = .nan ∧ decodeNum fmtF32 0x7FC00000 = .nan ∧ decodeNum fmtF32 0x3F800000 ≠ .nan ∧
    (0xFFC00001 : W32).toNat = 0xFFC00001 := by decide
theorem wit_ConversionsAndNarrow :
    let s := formC 0x10 8 4 5 4 0 0 6
    let q := formC 0x10 8 4 5 3 0 0 6
    let e := formC 0x10 8 4 6 4 0 0 10
    let cs := formB 0x11 8 4 0 0
    let cv := formB 0x12 8 4 0x13 0
    let pb := formB 2 8 4 0 4
    let pc := formC 2 8 4 0 4 3 0 0
    let ub := formB 2 8 4 0 0
    let ui := formI 2 8 4 3
    let df := formC 0x00 8 4 5 4 12 0x13 6
    let di := formC 0x12 8 4 5 0 0 0 6
    let d8 := formC 0x00 8 4 5 0 0 0 6
    let sc := fun (o : Long) (t u : BitVec 6) (k : Nat) => sigR (useTyped t (srcA o) ++ useTyped 0x00 (scaleOpd o) ++ useTyped u (srcC o) ++ useDst 8 k)
    let dot := fun (o : Long) (eight : Bool) (int sce : Bool) => sigR (useOpd (srcA o) 1 [dotTag eight (o.sub.toNat % 8)]
      ++ useOpd (regOpd o.kb o.sb) 1 [dotTag eight (o.sub.toNat / 8)] ++ useOpd (srcC o) 1 [if int then .b32 else .f32]
      ++ (if sce then useOpd (.v o.imm.toNat) 1 [.scl] else []) ++ useDst 8 1)
    floatCount (cs.sb.setWidth 6) = 1 ∧ 1 < floatCount (cv.sb.setWidth 6) ∧
    ∀ p ∈ with_ (sc s 0x10 0x10 1) [.fscale s] ++ with_ (sc q 0x10 0x02 2) [.fqnt q] ++ with_ (sc e 0x02 0x02 1) [.fdeq e]
      ++ with_ (sigR (useTyped 0 (srcA cs) ++ useDst 8 2)) [.cvt cs] ++ with_ (sigR (useTyped 0x13 (srcA cv) ++ useDst 8 1)) [.cvt cv]
      ++ with_ (sigR (useOpd (.v 4) (packCount 2) (List.replicate (packCount 2) (unpackedTag 2)) ++ useDst 8 1)) [.pack pb]
      ++ with_ (sigR (useOpd (.v 4) 1 [unpackedTag 2] ++ useOpd (.v 8) 1 [packTag 2] ++ useDst 8 1)) [.pack pc]
      ++ with_ (sigR (useOpd (.v 4) 1 [packTag 2] ++ useDst 8 1)) [.unpk ui]
      ++ with_ (sigR (useOpd (.v 4) 1 [packTag 2] ++ useDst 8 (packCount 2))) [.unpk ub]
      ++ with_ (dot df false false true) [.dot4 df] ++ with_ (dot di false true false) [.dot4 di] ++ with_ (dot d8 true false false) [.dot8 d8]
      ++ with_ (sigR (useOpd (.v 20) 2 [.b32, .b32] ++ useOpd (.v 24) 4 [.b32, .b32, .b32, .b32] ++ useDst 16 4)) [.rngc (formC 0 16 20 24 0 0 0 0)]
      ++ with_ (sigR (useTyped 0x0A (.v 4) ++ useTyped 0x0A (.v 5) ++ useDst 8 1)) [.rngf (formC 2 8 4 5 0 0 0 0)],
      Met p.1 p.2 (fitted p.2 [] demo) always := ⟨by decide, by decide, all_met (by decide)⟩

/-! Gang instructions. -/

/-- The other seven threads of the gang wait at the same instruction; and thread 0 a cohort of one. -/
def gathered : State := (List.range 7).foldl (fun s n => modThread s 2 (n + 1) (fun th => { th with st := .waiting .gang })) demo
def alone : State := onThread (fun th => { th with cohort := 77 }) demo

/-- A gang instruction whose cohort has not met yet, has met, and is one thread. -/
def GangMet (i : Instr) (sg : Sig) : Prop :=
  (∃ t th, Turn (fitted sg [] demo) 2 0 t th ∧ Passes i sg (fitted sg [] demo) t th ∧ (rendezvous t 0 th == none) = true) ∧
  (∃ t th, Turn (fitted sg [] gathered) 2 0 t th ∧ Passes i sg (fitted sg [] gathered) t th ∧
    ((rendezvous t 0 th).map (·.length) == some 8) = true) ∧
  ∃ t th, Turn (fitted sg [] alone) 2 0 t th ∧ Passes i sg (fitted sg [] alone) t th ∧ (rendezvous t 0 th == some [(0, th)]) = true

theorem gang_met {l : List (Instr × Sig)} (h : l.all (fun p =>
    meetsT p.1 p.2 (fitted p.2 [] demo) (fun t th => rendezvous t 0 th == none) &&
    meetsT p.1 p.2 (fitted p.2 [] gathered) (fun t th => (rendezvous t 0 th).map (·.length) == some 8) &&
    meetsT p.1 p.2 (fitted p.2 [] alone) (fun t th => rendezvous t 0 th == some [(0, th)])) = true) :
    ∀ p ∈ l, GangMet p.1 p.2 := by
  intro p hp
  have h1 := List.all_eq_true.mp h p hp
  simp only [Bool.and_eq_true] at h1
  exact ⟨metT_of h1.1.1, metT_of h1.1.2, metT_of h1.2⟩

def red_ (o : Long) : Sig := sigR (useTyped o.sub (srcA o) ++ useDst o.dst.toNat (tyRegs o.sub))
theorem wit_GangInstructions : ∀ p ∈ with_ (sigP [] [2] [1]) [.vote (formB 0 1 2 0 0), .vote (formB 1 1 2 0 0), .vote (formB 2 1 2 0 0)]
    ++ with_ (sigP (useDst 8 2) [2] []) [.vote (formC 3 8 2 0 0 3 0 0)]
    ++ with_ (sigR (useRaw 1 (.v 4) ++ useRaw 1 (shflLane (formB 1 8 4 5 0)) ++ useDst 8 1)) [.shfl (formB 1 8 4 5 0)]
    ++ with_ (red_ (formC 2 8 4 0 8 0 0 0)) [.gred (formC 2 8 4 0 8 0 0 0)] ++ with_ (red_ (formB 0x10 8 4 0 0)) [.gscan (formB 0x10 8 4 0 0)]
    ++ with_ (sigR (useRaw (tyRegs 0x0B) (.v 4) ++ useDst 8 2)) [.matchG (formB 0x0B 8 4 0 0)]
    ++ with_ (sigP [] [] [1]) [.elect (formB 0 1 0 0 0)], GangMet p.1 p.2 := gang_met (by decide)
theorem wit_GangValues : (0 : Nat) < 8 ∧ (2 : Nat) < 3 ∧ 8 ≤ 15 ∧ 15 < 8 + 8 ∧ (formB 2 8 4 0 0).sub ≠ 0x10 ∧ redOp (formB 2 8 4 0 0) = 0 ∧
    redOp (formB 2 8 4 0 8) = 1 ∧ redOp (formB 2 8 4 0 16) = 2 := by decide

/-! Control. -/

theorem wit_Branches :
    let near := formI 0 0 0 0xFFFA
    let far := formM 0 0 0 0 0 0x7FFFFFFC
    let rel := fun (o : Long) (c : Cur) => match o.tail with
      | .bi i => c.th.pc + 4 * i.signExtend 64
      | _ => c.th.pc + o.off
    let edge := onThread (fun th => { th with pc := 0x00FFFFFFFFFFFFFC }) demo
    let sg := sigR (useRaw 2 (.v 4))
    let reg := fun (c : Cur) => opd64 c (.v 4)
    let x := Instr.brx (formB 0 0 4 0 0)
    let sw := formC 0 0 4 0 0 10 1 0
    Met (.bra near) {} demo (fun _ _ _ c => isCanonical (rel near c) = true) ∧ Met (.bra far) {} demo (fun _ _ _ c => isCanonical (rel far c) = true) ∧
    Met (.bra far) {} edge (fun _ _ _ c => isCanonical (rel far c) = false) ∧
    Met x sg (fitted sg [(4, 0x30000)] demo) (fun _ _ _ c => isCanonical (reg c) = true ∧ (reg c).toNat % 4 = 0) ∧
    Met x sg (fitted sg [(4, 2)] demo) (fun _ _ _ c => ¬ (isCanonical (reg c) = true ∧ (reg c).toNat % 4 = 0)) ∧
    Met x sg (fitted sg [(5, 0x01F00000)] demo) (fun _ _ _ c => ¬ (isCanonical (reg c) = true ∧ (reg c).toNat % 4 = 0)) ∧
    Met (.switch sw) (sigR (useTyped 0 (.v 4))) (fitted (sigR (useTyped 0 (.v 4))) [(4, 11)] demo) always ∧
    (1 < sw.modb.toNat % 8 + 1 ∧ toSigned 16 sw.imm.toNat + (1 : Nat) = (11 : Int) ∧ toSigned 16 sw.imm.toNat + (0 : Nat) ≠ (11 : Int)) :=
  ⟨met_dec (by decide), met_dec (by decide), met_dec (by decide), met_dec (by decide), met_dec (by decide), met_dec (by decide),
   met_mono (met_of (pre := anyCase) (by decide)) (fun _ _ _ _ _ => trivial), by decide⟩
/-- A return stack with 8 entries, one with none, and one with 8 and a spilt one. -/
def deep (n m : Nat) (s : State) : State :=
  onThread (fun th => { th with stack := List.replicate n 0x30000, spill := List.replicate m 0x40000 }) s
def pushNow (s : State) (i : Instr) (c : Cur) : Option Thread :=
  ((getTeam s 2).bind (fun t => getThread t 0)).bind (fun th => pushReturn c.team.calld th (nextPc i c.th))
def popNow (s : State) : Option (W64 × Thread) := ((getTeam s 2).bind (fun t => getThread t 0)).bind popReturn
theorem wit_CallsAndReturns :
    let o := formI 0 0 0 8
    let far := formM 0 0 0 0 0 0x7FFFFFFC
    let edge := onThread (fun th => { th with pc := 0x00FFFFFFFFFFFFFC }) demo
    let sg := sigR (useRaw 2 (.v 4))
    let reg := fun (c : Cur) => opd64 c (.v 4)
    let good := fun (c : Cur) => isCanonical (reg c) = true ∧ (reg c).toNat % 4 = 0
    let x := Instr.callx (formB 0 0 4 0 0)
    Met (.call o) {} demo (fun s _ _ c => isCanonical (c.th.pc + 4 * 8) = true ∧ (pushNow s (.call o) c).isSome = true) ∧
    Met (.call o) {} (deep 8 0 demo) (fun s _ _ c => isCanonical (c.th.pc + 4 * 8) = true ∧ pushNow s (.call o) c = none) ∧
    Met (.call far) {} edge (fun _ _ _ c => isCanonical (c.th.pc + far.off) = false) ∧
    Met x sg (fitted sg [] (deep 7 0 demo)) (fun s _ _ c => good c ∧ (pushNow s x c).isSome = true) ∧
    Met x sg (fitted sg [] (deep 8 0 demo)) (fun s _ _ c => good c ∧ pushNow s x c = none) ∧
    Met x sg (fitted sg [(4, 1)] demo) (fun _ _ _ c => ¬ good c) ∧
    Met (.ret (short 0 0)) {} (deep 1 0 demo) (fun s _ _ _ => (popNow s).isSome = true) ∧
    Met (.ret (short 0 0)) {} (deep 8 1 demo) (fun s _ _ _ => (popNow s).isSome = true) ∧
    Met (.ret (short 0 0)) {} demo (fun s _ _ _ => popNow s = none) :=
  ⟨met_dec (by decide), met_dec (by decide), met_dec (by decide), met_dec (by decide), met_dec (by decide), met_dec (by decide),
   met_dec (by decide), met_dec (by decide), met_dec (by decide)⟩
def asked : State := modCore demo 0 (fun c => { c with prqSeen := [0] })
theorem wit_SmallControl : (∀ p ∈ with_ {} [.land (short 0 0), .pause (short 0 0), .nopA (short 0 0), .trap (short 0 255), .bkpt (short 0 0),
      .nop (formB 0 0 0 0 0), .exit (short 0 0), .tail (short 0 0)], Met p.1 p.2 (fitted p.2 [] demo) always) ∧
    Met (.yield (short 0 0)) {} demo (fun s _ _ c => prqSeen s c.team = false) ∧
    Met (.yield (short 0 0)) {} asked (fun s _ _ c => prqSeen s c.team = true) :=
  ⟨all_met (by decide), met_dec (by decide), met_dec (by decide)⟩
theorem wit_TrapsAndNops : ∃ t th, Turn demo 2 0 t th ∧ (encOf (.nopA (short 0 0))).stl < 7 ∧ ∃ t1, getTeam
    (ended (.nopA (short 0 0)) {} demo 2 0 t th demo (nextPc (.nopA (short 0 0)) th)) 2 = some t1 ∧ (getThread t1 0).isSome = true := by
  obtain ⟨t, th, h, h1, h2⟩ := head_of (s := demo) (P := fun t th => (encOf (.nopA (short 0 0))).stl < 7 ∧ ((getTeam
    (ended (.nopA (short 0 0)) {} demo 2 0 t th demo (nextPc (.nopA (short 0 0)) th)) 2).map (fun t1 => (getThread t1 0).isSome)) = some true) (by decide)
  obtain ⟨t1, h3, h4⟩ := Option.map_eq_some_iff.mp h2
  exact ⟨t, th, h, h1, t1, h3, h4⟩
def reconverging : State := (List.range 7).foldl (fun s n => modThread s 2 (n + 1) (fun th => { th with st := .waiting .reconv })) demo
theorem wit_Reconvergence :
    (∃ t th, Turn demo 2 0 t th ∧ Passes (.reconv (short 0 0)) {} demo t th ∧ (!reconvReady t 0 (viewOf demo th)) = true) ∧
    ∃ t th, Turn reconverging 2 0 t th ∧ Passes (.reconv (short 0 0)) {} reconverging t th ∧ reconvReady t 0 (viewOf reconverging th) = true :=
  ⟨metT_of (f := fun _ th => _) (by decide), metT_of (by decide)⟩
theorem wit_ThreadEnds : ∃ t th, Turn demo 2 0 t th ∧ 
    (∀ nb, nb < 16 → (getBar t nb).arv + barDeparted t nb + (if th.marks.getLsbD nb then 0 else 1) < barNeed t (getBar t nb)) ∧
    ((List.range 8).any (fun j => j != 0 && ((getThread t j).map (fun x => x.gang == th.gang && liveOut x)).getD false)) = true :=
  head_of (by decide)
theorem wit_EndFrame : isControl add45 = false ∧ ∃ t th, Turn demo 2 0 t th ∧ th.st ≠ .gone := ⟨by decide, head_of (by decide)⟩

/-! Memory: v8 with v9 is an address, in the team's own scratch unless said otherwise. -/

def fine {ε α : Type} (e : Except ε α) : Bool := match e with
  | .ok _ => true
  | .error _ => false
def trapsOn {α : Type} (e : Except Act α) : Bool := match e with
  | .error (.trap _ _) => true
  | _ => false
/-- v8:v9 with an address of the team's scratch, an aligned address of memory, an address neither window nor canonical. -/
def inScratch (off : Nat) : List (Nat × Nat) := [(8, off), (9, 0x01F00000)]
def inMemory (a : Nat) : List (Nat × Nat) := [(8, a), (9, 0)]
def nowhere : List (Nat × Nat) := [(8, 0), (9, 0x01000000)]
def outside : List (Nat × Nat) := [(8, 0x20000), (9, 0x01F00000)]

def askAt (ea : W64) (n : Nat) (wr : Bool) : Ask := { ea := ea, size := n, align := n, rd := !wr, wr := wr }
def site (s : State) (ea : W64) (n : Nat) (wr : Bool) : Except Stop Site := (checkSite s 0 (askAt ea n wr)).1

/-- One address for each clause of AddressChecks, at the edges of its range. -/
theorem wit_AddressChecks :
    (isWindow 0x0100000000000000 = false ∧ isCanonical 0x0100000000000000 = false) ∧
    (isWindow (BitVec.ofNat 64 (own 2)) = true ∧ ¬ (BitVec.ofNat 64 (own 2)).toNat % 4 = 0) ∧
    (isWindow (BitVec.ofNat 64 (own (2 ^ 28 - 4))) = true ∧ Config.sliceBytes ≤ winOff (BitVec.ofNat 64 (own (2 ^ 28 - 4)))) ∧
    (winOff (BitVec.ofNat 64 (own 0x20000)) < Config.sliceBytes ∧ grantHeld demo 0 0 0 (0x20000 / 65536) = false) ∧
    (grantHeld demo 0 0 0 1 = true ∧ hitsPrivate demo 0 0x1007D 4 = true ∧ hitsPrivate demo 0 0x1007C 4 = false) ∧
    (grantHeld demo 0 0 0 0 = true ∧ hitsPrivate demo 0 0xFFFC 4 = false) ∧
    (isCanonical (2 ^ 42) = true ∧ fine (translate demo false 0 (2 ^ 42)).1 = false) ∧
    (fine (translate demo false 0 0x30000).1 = true ∧ fine (site demo 0x30000 4 true) = true) ∧
    fine (checkSite demo 0 { askAt 0x30000 4 true with winOnly := true }).1 = false := by decide

theorem wit_AddressChecks_absent : (match translate demo false 0 (2 ^ 42 - 4) with
    | (.ok x, s1) => !paExists s1 x.pa
    | _ => false) = true := by decide

def lo : Long := formM 0x0A 4 8 0 0 0
def sgLo : Sig := sigR (useRaw 2 (srcA lo) ++ useDst 4 (memRegs 0x0A))
def so : Long := formM 0x0A 5 8 0 0 0
def sgSo : Sig := sigR (useRaw 2 (srcA so) ++ [] ++ useRaw (memRegs 0x0A) (.v 5))
def sm : Long := formM 0x0B 4 8 10 0x20 0
def sgSm : Sig := sigR (useRaw 2 (srcA sm) ++ useRaw 1 (.v 10) ++ useRaw (memRegs 0x0B) (.v 4))
def emulatedAt (o : Long) (c : Cur) : Prop := (effAddr c o).toNat % memSize o.sub ≠ 0 ∧
  (isWindow (effAddr c o) = true ∨ isCanonical (effAddr c o) = true) ∧ c.team.trm.getLsbD 6 = true ∧ c.th.handler = false
def loads (o : Long) (s : State) (c : Cur) : Bool := match letPass s 2 0 c (askAt (effAddr c o) (memSize o.sub) false) with
  | .ok p => fine (loadSite p.2 2 0 c (effAddr c o) p.1 (memSize o.sub) o.order o.scope o.flag)
  | .error _ => false
def bytesOf (o : Long) (c : Cur) : List (Nat × Byte) := enabledBytes o c (memSize o.sub) (natBytes (memSize o.sub) (storeNat c o.sub o.dst.toNat))
def stores (o : Long) (s : State) (c : Cur) : Bool := match letPass s 2 0 c (askAt (effAddr c o) (memSize o.sub) true) with
  | .ok p => fine (storeSite p.2 2 0 c (effAddr c o) p.1 (memSize o.sub) o.order o.scope (bytesOf o c))
  | .error _ => false
def emLoads (o : Long) (s : State) (c : Cur) : Bool := match doRelease s 2 0 c o.order o.scope with
  | .ok s1 => fine (emulateBytes 2 0 c (effAddr c o) o.scope none (List.range (memSize o.sub))
      (emulateEntry (releaseEpoch s1 2 c o.order) 2 0 c (effAddr c o) (memSize o.sub)) [])
  | .error _ => false
def emStores (o : Long) (s : State) (c : Cur) : Bool := match doRelease s 2 0 c o.order o.scope with
  | .ok s1 => fine (emulateBytes 2 0 c (effAddr c o) o.scope (some (bytesOf o c)) ((bytesOf o c).map (·.1))
      (emulateEntry (releaseEpoch s1 2 c o.order) 2 0 c (effAddr c o) (memSize o.sub)) [])
  | .error _ => false

theorem wit_LoadsAndStores :
    Met (.ld lo) sgLo (fitted sgLo (inScratch 0xFFFC) demo) (fun s _ _ c => ¬ emulatedAt lo c ∧ loads lo s c = true) ∧
    Met (.st so) sgSo (fitted sgSo (inScratch 0) demo) (fun s _ _ c => ¬ emulatedAt so c ∧ stores so s c = true) ∧
    Met (.st sm) sgSm (fitted sgSm ((10, 0x81) :: inScratch 8) demo) (fun s _ _ c => ¬ emulatedAt sm c ∧ stores sm s c = true) ∧
    Met (.ld lo) sgLo (fitted sgLo nowhere demo) (fun s _ _ c => ¬ emulatedAt lo c ∧
      trapsOn (letPass s 2 0 c (askAt (effAddr c lo) 4 false)) = true) ∧
    Met (.st so) sgSo (fitted sgSo outside demo) (fun s _ _ c => ¬ emulatedAt so c ∧
      trapsOn (letPass s 2 0 c (askAt (effAddr c so) 4 true)) = true) ∧
    Met (.ld lo) sgLo (fitted sgLo (inScratch 3) handled) (fun s _ _ c => emulatedAt lo c ∧ emLoads lo s c = true) ∧
    Met (.st so) sgSo (fitted sgSo (inScratch 3) handled) (fun s _ _ c => emulatedAt so c ∧ emStores so s c = true) := by
  simp only [emulatedAt]
  exact ⟨met_dec (by decide), met_dec (by decide), met_dec (by decide), met_dec (by decide), met_dec (by decide),
    met_dec (by decide), met_dec (by decide)⟩

theorem own_iff {s : State} {t : Team} {th : Thread} {ea : W64} {n : Nat} : OwnScratch s t th ea n ↔
    isWindow ea = true ∧ winChip ea = chipId s ∧ winOff ea < Config.sliceBytes ∧ ea.toNat % n = 0 ∧
    grantHeld s t.asid (winChip ea) (winCore ea) (winOff ea / 65536) = true ∧ hitsPrivate s (winCore ea) (winOff ea) n = false ∧
    poisoned s (sliceKey (winCore ea) (winOff ea)) n = false ∧ (th.pass = true ∨ (getCore s (teamCore t)).retic = []) ∧
    ((getCore s (teamCore t)).held = [] ∧ (getCore s (teamCore t)).near = []) ∧ (s.carry = [] ∧ th.frel = []) ∧
    th.rel.any (fun r => !r.own) = false :=
  ⟨fun h => ⟨h.1, h.2, h.3, h.4, h.5, h.6, h.7, h.8, h.9, h.10, h.11⟩, fun h => ⟨h.1, h.2.1, h.2.2.1, h.2.2.2.1, h.2.2.2.2.1, h.2.2.2.2.2.1,
    h.2.2.2.2.2.2.1, h.2.2.2.2.2.2.2.1, h.2.2.2.2.2.2.2.2.1, h.2.2.2.2.2.2.2.2.2.1, h.2.2.2.2.2.2.2.2.2.2⟩⟩
theorem wit_ScratchAccesses : lo.order = 0 ∧ sm.order = 0 ∧ (fitted sgSm ((10, 0x81) :: inScratch 0xFFF8) demo).mem.wf = true ∧
    (∃ t th, Turn (fitted sgLo (inScratch 0xFFFC) demo) 2 0 t th ∧ Passes (.ld lo) sgLo (fitted sgLo (inScratch 0xFFFC) demo) t th ∧
      OwnScratch (fitted sgLo (inScratch 0xFFFC) demo) t th (effAddr (curOf (fitted sgLo (inScratch 0xFFFC) demo) t th) lo) 4) ∧
    ∃ t th, Turn (fitted sgSm ((10, 0x81) :: inScratch 0xFFF8) demo) 2 0 t th ∧
      Passes (.st sm) sgSm (fitted sgSm ((10, 0x81) :: inScratch 0xFFF8) demo) t th ∧
      OwnScratch (fitted sgSm ((10, 0x81) :: inScratch 0xFFF8) demo) t th
        (effAddr (curOf (fitted sgSm ((10, 0x81) :: inScratch 0xFFF8) demo) t th) sm) 8 := by
  simp only [own_iff]
  exact ⟨by decide, by decide, by decide, metT_dec (by decide), metT_dec (by decide)⟩

/-! Read-modify-writes, sync words, the other memory instructions: the parts of their conditions that give a result succeed. -/

def rmwFine (s : State) (c : Cur) (q : Ask) (o : Long) (op : HomeOp) : Bool := fine (rmwAt s 2 0 c q o.order o.scope op)
def askRmw (ea : W64) (n : Nat) : Ask := { ea := ea, size := n, align := n, rd := true, wr := true, noHost := true }

theorem wit_Atomics :
    let a := formM 0x0B 4 8 10 0 0
    let r := formM 0x12 0 8 10 0 0
    let k := formM 0x0B 4 8 12 0 0
    let f := formM 0x00 4 8 10 0 0
    let g := formM 0x00 0 8 10 0x20 0
    let n := formM 0 5 8 10 0 0
    let base := useRaw 2 (.v 8)
    let sa := sigR (base ++ useTyped 0x02 (.v 10) ++ useDst 4 2)
    let sr := sigR (base ++ useTyped 0x00 (.v 10))
    let sk := sigR (base ++ useRaw 4 (.v 12) ++ useDst 4 2)
    let sf := sigR (base ++ useTyped (fatomType 0) (.v 10) ++ useDst 4 (fatomSize 0 / 4))
    let sg := sigR (base ++ useTyped (fatomType 0) (.v 10))
    let sn := sigR (base ++ useRaw 1 (.v 10) ++ useRaw 1 (.v 5))
    f.flag = false ∧ g.flag = true ∧
    Met (.atom a) sa (fitted sa (inScratch 0xFFF8) demo) (fun s _ _ c => rmwFine s c (askRmw (effAddr c a) 8) a (.atom 0x0B (opdNat c true (.v 10))) = true) ∧
    Met (.red r) sr (fitted sr (inScratch 0xFFFC) demo) (fun s _ _ c => rmwFine s c (askRmw (effAddr c r) 4) r (.atom 0x12 (opdNat c false (.v 10))) = true) ∧
    Met (.cas k) sk (fitted sk (inScratch 0xFFF8) demo) (fun s _ _ c =>
      rmwFine s c (askRmw (effAddr c k) 8) k (.cas true (casOpds k c).1 (casOpds k c).2) = true) ∧
    Met (.fatom f) sf (fitted sf (inScratch 0) demo) (fun s _ _ c =>
      rmwFine s c (askRmw (effAddr c f) (fatomSize 0)) f (.fatom 0 (opdNat c (fatomSize 0 == 8) (.v 10))) = true) ∧
    Met (.fatom g) sg (fitted sg (inScratch 0) demo) (fun s _ _ c =>
      rmwFine s c (askRmw (effAddr c g) (fatomSize 0)) g (.fatom 0 (opdNat c (fatomSize 0 == 8) (.v 10))) = true) ∧
    Met (.stn4 n) sn (fitted sn ((10, 3) :: inScratch 0xFFFE) demo) (fun s _ _ c =>
      rmwFine s c { ea := effAddr c n + 1, size := 1, align := 1, rd := false, wr := true } n (.stn4 true 0) = true) := by
  refine ⟨by decide, by decide, met_dec (by decide), met_dec (by decide), met_dec (by decide), met_dec (by decide), met_dec (by decide), met_dec (by decide)⟩

theorem wit_ScratchReadModifyWrite : (fitted sgLo (inScratch 0xFFF8) demo).mem.wf = true ∧ homeOpSize (.cas true 0 1) = 8 ∧ (0 : Nat) < 8 ∧
    ∃ t th, Turn (fitted sgLo (inScratch 0xFFF8) demo) 2 0 t th ∧
      OwnScratch (fitted sgLo (inScratch 0xFFF8) demo) t th (BitVec.ofNat 64 (own 0xFFF8)) 8 := by
  simp only [own_iff]
  exact ⟨by decide, by decide, by decide, head_of (by decide)⟩
/-- The values at the edges of each clause: an arrival below the target, at it and beyond it, an unarmed word. -/
theorem wit_AtomicAndSyncValues : (3 : Nat) < 4 ∧ 2 ^ 32 - 1 < 2 ^ (8 * atomSize 1) ∧ (255 : Nat) < 256 ∧ (15 : Nat) < 16 ∧
    (let w : SyncWord := { tgt := 5, cnt := 3, gen := 2 ^ 32 - 1, arm := true, auto := true, ovr := false }
     w.arm = true ∧ w.cnt + 1 < w.tgt ∧ w.tgt ≤ w.cnt + 2 ∧ w.tgt ≤ w.cnt + 3 ∧ w.tgt < 2 ^ 32 ∧ w.gen < 2 ^ 32) := by decide

def sgSw (o : Long) : Sig := sigR (useRaw 2 (.v 8) ++ useTyped 0x01 (.v 10) ++ useDst o.dst.toNat 1)
def askSw (c : Cur) (o : Long) (wr : Bool) : Ask := { ea := effAddr c o, size := 16, align := 16, rd := true, wr := wr, winOnly := true }
def swGen (s : State) (c : Cur) (o : Long) : Option Nat := match letPass s 2 0 c (askSw c o false) with
  | .ok p => match doRelease p.2 2 0 c o.order o.scope with
    | .ok s1 => match rmwSite s1 2 0 c (effAddr c o) p.1 .swread with
      | .ok r => if p.1.chip = chipId r.2 then some (syncOf r.1).gen else none
      | .error _ => none
    | .error _ => none
  | .error _ => none
theorem wit_SyncWordInstructions :
    let o := formM 0 4 8 10 0 0
    let r := formM 0 12 8 0 0 0
    let sr := sigR (useRaw 2 (.v 8) ++ useDst 12 4)
    Met (.swarm o) (sgSw o) (fitted (sgSw o) (inScratch 0xFFF0) demo) (fun s _ _ c => rmwFine s c (askSw c o true) o (.swarm 0 false) = true) ∧
    Met (.swadd o) (sgSw o) (fitted (sgSw o) (inScratch 0) demo) (fun s _ _ c => rmwFine s c (askSw c o true) o (.swadd 0) = true) ∧
    Met (.swread r) sr (fitted sr (inScratch 0) demo) (fun s _ _ c => rmwFine s c (askSw c r false) r .swread = true) ∧
    Met (.swwait o) (sgSw o) (fitted (sgSw o) (inScratch 0) demo) (fun s _ _ c => swGen s c o = some (opd32 c (.v 10)).toNat) ∧
    Met (.swwait o) (sgSw o) (fitted (sgSw o) ((10, 1) :: inScratch 0) demo) (fun s _ _ c =>
      (swGen s c o).isSome = true ∧ swGen s c o ≠ some (opd32 c (.v 10)).toNat) :=
  ⟨met_dec (by decide), met_dec (by decide), met_dec (by decide), met_dec (by decide), met_dec (by decide)⟩

def ldkFine (s : State) (c : Cur) (o : Long) : Bool := match doRelease s 2 0 c o.order o.scope with
  | .ok s1 => fine (ldkWords 2 0 c o (effAddr c o) s1)
  | .error _ => false
/-- A line of the core's write-combining buffer that a release at `.ch` waits for. -/
def stored : State := modCore demo 0 (fun c => { c with wcb := [{ peer := 1, win := false, line := 0x400, dcore := 0, asid := 0, data := [(0, 1)], id := 5 }] })
theorem wit_OtherMemory :
    let k := formM 3 60 8 0 0 4
    let p := formM 0 0 8 0 2 0
    let q := formI 1 0 8 0
    let h := formM 0 4 8 0 0 0
    let fe := formB 0 0 0 0 0x1A
    let fa := formB 0 0 0 0 0x09
    let fi := formI 0 0 0 0
    let fn := formI 1 0 0 0
    let base := useRaw 2 (.v 8)
    let await := fun (s : State) (c : Cur) (f : State → List Nat × State) => fine (awaitWrites s 2 0 (teamCore c.team) f)
    let keys := fun (s : State) (c : Cur) => flushKeys s c.team.asid (flushRange fi c).1 (flushRange fi c).2
    let free := fun (c : Cur) => c.th.rel.any (fun r => !r.own) = false
    let rel := fun (o : Long) => hasRelease o.order = true ∧ o.scope ≠ 0
    let start := fun (s : State) (c : Cur) => startRelease s (teamCore c.team) c.team.asid fe.scope
    let behind : Release := { pc := 0x30000, own := false, ids := [5] }
    Met (.ldk k) (sigR base) (fitted (sigR base) (inScratch 0) demo) (fun s _ _ c => (effAddr c k).toNat % 4 = 0 ∧ ldkFine s c k = true) ∧
    (∀ x ∈ with_ (sigR base) [.pref p, .pref q] ++ with_ (sigR (base ++ useDst 4 1)) [.cchk h] ++ with_ (sigR (flushUse fn)) [.flushNear fn],
      Met x.1 x.2 (fitted x.2 [] demo) always) ∧
    Met (.fence fa) {} demo (fun _ _ _ c => free c ∧ ¬ rel fa) ∧
    Met (.fence fe) {} demo (fun s _ _ c => free c ∧ rel fe ∧ (start s c).1 = []) ∧
    Met (.fence fe) {} stored (fun s _ _ c => free c ∧ rel fe ∧ (start s c).1 ≠ []) ∧
    Met (.fence fe) {} (onThread (fun th => { th with rel := some behind }) stored) (fun _ _ _ c => ¬ free c) ∧
    Met (.flushIcache fi) (sigR (flushUse fi)) demo (fun s _ _ c => await s c (fun st => startRanges st (teamCore c.team) (keys st c)) = true) ∧
    Met (.flushWcb (formI 2 0 0 0)) {} demo (fun s _ _ c => await s c (fun st => startDrain st (teamCore c.team)) = true) ∧
    (threadRel demo 2 0 = none ∧ (startDrain demo 0).1 = [] ∧ (startDrain stored 0).1 ≠ [] ∧ idLive stored 0 5 = true ∧ idLive demo 0 5 = false) ∧
    (∃ t th, Turn demo 2 0 t th ∧ 63 + [(7 : W32)].length ≤ t.k.length) :=
  ⟨met_dec (by decide), all_met (by decide), met_dec (by decide), met_dec (by decide), met_dec (by decide), met_dec (by decide),
   met_dec (by decide), met_dec (by decide), by decide, head_of (by decide)⟩

/-! Barriers: a number of arrivals at each edge of its range, a phase that is over and one that is not. -/

def barrier (exp : Nat) : State := onTeam (fun t => setBar t 3 { getBar t 3 with exp := exp, init := true }) demo
theorem wit_Barriers :
    let i := formB 0 0 3 4 0
    let z := formI 0 0 3 0
    let sg := sigR (barUse i)
    let w := formI 3 0 3 1
    let v := formI 3 0 3 0
    let y := formB 4 0 3 0 0
    let phase := fun (s : State) (c : Cur) => match c.th.syncing with | some (_, p) => p | none => phaseOf s 2 3
    let after := fun (s : State) (c : Cur) => if c.th.syncing.isSome then s else arrive s 2 0 3
    let over_ := fun (s : State) (p : Bool) => isFreed s 2 0 = true ∨ phaseOf s 2 3 ≠ p
    Met (.barInit i) sg (fitted sg [(4, 1)] demo) (fun _ _ _ c => 0 < (opd32 c (.v 4)).toNat ∧ (opd32 c (.v 4)).toNat ≤ 4096) ∧
    Met (.barInit i) sg (fitted sg [(4, 4096)] demo) (fun _ _ _ c => 0 < (opd32 c (.v 4)).toNat ∧ (opd32 c (.v 4)).toNat ≤ 4096) ∧
    Met (.barInit i) sg (fitted sg [(4, 4097)] demo) (fun _ _ _ c => 4096 < (opd32 c (.v 4)).toNat) ∧
    (∀ x ∈ with_ {} [.barInit z, .barExp (formI 1 0 3 64)] ++ with_ (sigR (useDst 4 1)) [.barArv (formB 2 4 3 0 0)]
      ++ with_ (sigP [] [] [1]) [.barTest (formI 5 1 3 0)], Met x.1 x.2 (fitted x.2 [] demo) always) ∧
    Met (.barWait w) {} (barrier 8) (fun s _ _ _ => over_ s true) ∧ Met (.barWait v) {} (barrier 8) (fun s _ _ _ => ¬ over_ s false) ∧
    Met (.barSync y) {} (barrier 1) (fun s _ _ c => over_ (after s c) (phase s c)) ∧
    Met (.barSync y) {} (barrier 8) (fun s _ _ c => ¬ over_ (after s c) (phase s c)) :=
  ⟨met_dec (by decide), met_dec (by decide), met_dec (by decide), all_met (by decide), met_dec (by decide), met_dec (by decide),
   met_dec (by decide), met_dec (by decide)⟩

/-! Tiles, tokens and team copies. -/

def sgBlk : Sig := sigR (useRaw 2 (.v 8) ++ useDst 4 1)
/-- n bytes at an offset of the team's scratch. -/
def withBytes (off n v : Nat) (s : State) : State := writeKey s (sliceKey 0 off) (natBytes n v)
/-- A token of team 2 in slot 5 of core 0, generation 9: its handle is 0x5009. -/
def tok (st : TokState) (holder : Holder) (op : Op) : Token :=
  { slot := 5, gen := 9, asid := 0, team := 2, serial := 0, issuer := 0, holder := holder, st := st, hold := false, unord := false, pri := 1,
    scope := 0, born := 0, op := op }
def noCopy : Op := .copy { tiled := false, g := 1, slices := [], flip := false }
def withTokens (l : List Token) (s : State) : State := modCore s 0 (fun c => { c with tokens := l, gens := l.map (fun t => (t.slot, t.gen)) })
/-- 64 attached tokens: no room for one more. -/
def crowded : State := withTokens ((List.range 64).map (fun n => { tok .pending (.team 2) noCopy with slot := n })) demo
def mmaOn (tile : Nat) : Op := .mma { mpbOf 0 with tile := tile } false

def blockFine (s : State) (c : Cur) (n : Nat) (f : Nat → State → Bool) : Bool :=
  tokenRoom s c.team && match readBlock s 2 0 c (opd64 c (.v 8)) n with
    | .ok p => f p.1 p.2
    | .error _ => false
/-- An MPB (R180): A at own 0x1000, B at own 0x2000, K = 1, M = N = 1. -/
def goodMpb : Nat := own 0x1000 + own 0x2000 * 2 ^ 64 + 2 ^ 384
theorem wit_MatrixInstructions :
    let o := formC 0 4 8 0 0 0 0 0
    Met (.mma o) sgBlk (fitted sgBlk (inScratch 0x100) (withBytes 0x100 128 goodMpb demo)) (fun s _ _ c =>
      blockFine s c 128 (fun n s1 => firstOffset (mpbRules s1 c.team n (mpbOf n)) == none && match readIndex s1 2 0 c (mpbOf n) with
        | .ok q => fine (createOne q.2 2 0 c o (.mma q.1 false))
        | .error _ => false) = true) ∧
    Met (.mma o) sgBlk (fitted sgBlk (inScratch 0x100) demo) (fun s _ _ c =>
      blockFine s c 128 (fun n s1 => (firstOffset (mpbRules s1 c.team n (mpbOf n))).isSome) = true) ∧
    Met (.mma o) sgBlk (fitted sgBlk (inScratch 0) crowded) (fun s _ _ c => tokenRoom s c.team = false) ∧
    Met (.mmac o) sgBlk (fitted sgBlk (inScratch 0) crowded) (fun s _ _ c => tokenRoom s c.team = false) ∧
    Met (.mmac o) sgBlk (fitted sgBlk (inScratch 0) demo) (fun s _ _ c =>
      blockFine s c 64 (fun n s1 => mmacFails s1 c.team.asid n == some 1) = true) ∧
    Met (.mmac o) sgBlk (fitted sgBlk (inScratch 0) (withBytes 0 64 (0x5009 * 2 ^ 448)
        (withTokens [{ tok .split (.team 2) (mmaOn 0) with cont := some 0x6001 }] demo))) (fun s _ _ c =>
      blockFine s c 64 (fun n s1 => mmacFails s1 c.team.asid n == some 2) = true) :=
  ⟨met_dec (by decide), met_dec (by decide), met_dec (by decide), met_dec (by decide), met_dec (by decide), met_dec (by decide)⟩

/-- A thread that resumes an `accst` after a wait, with all elements but the first stored. -/
def resumed : State := onThread (fun th => { th with reply := (List.range 255).map (fun i => (byteDone (i + 1), [])) }) demo
def oneTile : State := onTeam (fun t => { t with tiles := [[]] }) demo
def busyTile : State := withTokens [tok .pending (.team 2) (mmaOn 1)] demo
theorem wit_Accumulators :
    let r := formB 0x10 4 5 0 0
    let w := formC 0x00 0 5 6 0 2 0 0
    let cl := formC 0x00 0 5 6 0 0 0 0
    let ci := formI 0x00 0 0 1
    let st := formB 0x10 0 8 5 0
    let sgR := sigR (useTyped 0x01 (.v 5) ++ useDst 4 1)
    let sgW := sigR (useTyped 0x01 (.v 5) ++ useRaw 1 (.v 6))
    let sgC := sigR (useTyped 0x01 (.v 5) ++ useRaw 1 (.v 6))
    let sgS := sigR (useRaw 2 (.v 8) ++ useTyped 0x01 (.v 5))
    let free := fun (s : State) (c : Cur) (n : Nat) => holdsTile c.team n = true ∧ tileBusy s c.team n = false
    let idx := fun (c : Cur) => (opd32 c (.v 5)).toNat
    let d := fun (c : Cur) => accRows (opd32 c (.v 5))
    Met (.accrd r) sgR (fitted sgR [(5, 196607)] demo) (fun s _ _ c => idx c < 196608 ∧ free s c (idx c / 98304)) ∧
    Met (.accwr w) sgW (fitted sgW [(5, 98301)] demo) (fun s _ _ c => idx c + 2 < 196608 ∧ free s c ((idx c + 2) / 98304)) ∧
    Met (.accrd r) sgR (fitted sgR [(5, 196608)] demo) (fun _ _ _ c => 196608 ≤ idx c) ∧
    Met (.accrd r) sgR (fitted sgR [(5, 98304)] oneTile) (fun _ _ _ c => idx c < 196608 ∧ holdsTile c.team (idx c / 98304) = false) ∧
    Met (.accrd r) sgR (fitted sgR [(5, 98304)] busyTile) (fun s _ _ c => idx c < 196608 ∧ holdsTile c.team (idx c / 98304) = true ∧
      tileBusy s c.team (idx c / 98304) = true) ∧
    Met (.accclr cl) sgC (fitted sgC [(5, 383 + 2 ^ 18)] demo) (fun s _ _ c => d c = some (383, 1, 1) ∧ free s c 1) ∧
    Met (.accclr ci) {} demo (fun s _ _ c => free s c 1) ∧
    Met (.accclr cl) sgC (fitted sgC [(5, 383 + 2 ^ 9)] demo) (fun _ _ _ c => d c = none) ∧
    Met (.accclr cl) sgC (fitted sgC [(5, 2 ^ 18)] oneTile) (fun _ _ _ c => d c = some (0, 1, 1) ∧ holdsTile c.team 1 = false) ∧
    Met (.accclr cl) sgC (fitted sgC [(5, 2 ^ 18)] busyTile) (fun s _ _ c =>
      d c = some (0, 1, 1) ∧ holdsTile c.team 1 = true ∧ tileBusy s c.team 1 = true) ∧
    Met (.accst st) sgS (fitted sgS (inScratch 0) resumed) (fun s _ _ c => d c = some (0, 1, 0) ∧ free s c 0 ∧
      fine (accStore 2 0 c st (getTile c.team 0) 0 (List.range 256) s) = true) ∧
    Met (.accst st) sgS (fitted sgS ((5, 2 ^ 19) :: inScratch 0) demo) (fun _ _ _ c => d c = none) ∧
    Met (.accst st) sgS (fitted sgS ((5, 2 ^ 18) :: inScratch 0) oneTile) (fun _ _ _ c => d c = some (0, 1, 1) ∧ holdsTile c.team 1 = false) ∧
    Met (.accst st) sgS (fitted sgS ((5, 2 ^ 18) :: inScratch 0) busyTile) (fun s _ _ c =>
      d c = some (0, 1, 1) ∧ holdsTile c.team 1 = true ∧ tileBusy s c.team 1 = true) :=
  ⟨met_dec (by decide +kernel), met_dec (by decide +kernel), met_dec (by decide +kernel), met_dec (by decide +kernel), met_dec (by decide +kernel), met_dec (by decide +kernel),
   met_dec (by decide +kernel), met_dec (by decide +kernel), met_dec (by decide +kernel), met_dec (by decide +kernel), met_dec (by decide +kernel), met_dec (by decide +kernel),
   met_dec (by decide +kernel), met_dec (by decide +kernel)⟩

/-- A team's copy whose lead is the thread in hand, and `f` holds of the lead and the state of its effect. -/
def meetsLead (i : Instr) (sg : Sig) (s : State) (f : List Part → Part → State → Bool) : Bool :=
  meetsT i sg s (fun t th => match rendezvous t 0 th with
    | none => false
    | some mem =>
      let g := memberGates s i sg t mem s.freeCtr
      match leadOf (partsOf g.1) with
      | none => false
      | some p => p.tid == 0 && f (partsOf g.1) p { s with freeCtr := g.2 })
theorem leads_of {i : Instr} {sg : Sig} {s : State} {f : List Part → Part → State → Bool} (h : meetsLead i sg s f = true) :
    ∃ t th mem ps p s0, Leads i sg s 2 0 t th mem ps p s0 ∧ f ps p s0 = true := by
  obtain ⟨t, th, h1, h2, h3⟩ := metT_of h
  split at h3
  · exact absurd h3 (by decide)
  · rename_i mem hm
    dsimp only at h3
    split at h3
    · exact absurd h3 (by decide)
    · rename_i p hp
      simp only [Bool.and_eq_true, beq_iff_eq] at h3
      exact ⟨t, th, mem, _, p, _, ⟨h1, h2, hm, rfl, hp, h3.1, rfl⟩, h3.2⟩
def isDone (a : Act) : Bool := match a with
  | .done _ => true
  | _ => false
def cp : Long := formC 0 20 4 6 0 1 0 8
def sgCp : Sig := sigR (useRaw 2 (srcA cp) ++ useRaw 2 (regOpd cp.kb cp.sb) ++ useOpd (.v cp.sc.toNat) 2 [.b32, .b32] ++ useDst 20 1)
def ct : Long := formC 0 4 8 0 0 1 0 0
def tlrFine (s : State) (p : Part) (f : Nat → State → Bool) : Bool := match readBlock s 2 0 p.cur (opd64 p.cur (.v 8)) 64 with
  | .ok q => f q.1 q.2
  | .error _ => false
theorem wit_TeamCopies :
    (∃ t th mem ps p s0, Leads (.copy cp) sgCp (fitted sgCp [] alone) 2 0 t th mem ps p s0 ∧ (sliceRoom s0 p && arriveOk 0 &&
      isDone (joinSlice s0 2 ps p cp false (.bytes 0 0 0) 0)) = true) ∧
    (∃ t th mem ps p s0, Leads (.copy cp) sgCp (fitted sgCp [(9, 2 ^ 27)] alone) 2 0 t th mem ps p s0 ∧ (sliceRoom s0 p &&
      !arriveOk (readV p.cur.th 9).val) = true) ∧
    (∃ t th mem ps p s0, Leads (.copy cp) sgCp (fitted sgCp [] (onThread (fun th => { th with cohort := 77 }) crowded)) 2 0 t th mem ps p s0 ∧
      (!sliceRoom s0 p) = true) ∧
    (∃ t th mem ps p s0, Leads (.copyt ct) sgBlk (fitted sgBlk (inScratch 0) (withBytes 0 64 (7 * 2 ^ 274) alone)) 2 0 t th mem ps p s0 ∧
      (sliceRoom s0 p && tlrFine s0 p (fun n s1 => firstOffset (tlrRules n (tlrOf n)) == none &&
        isDone (joinSlice s1 2 ps p ct true (.tile (tlrOf n)) 0))) = true) ∧
    ∃ t th mem ps p s0, Leads (.copyt ct) sgBlk (fitted sgBlk (inScratch 0) alone) 2 0 t th mem ps p s0 ∧
      (sliceRoom s0 p && tlrFine s0 p (fun n _ => firstOffset (tlrRules n (tlrOf n)) == some 34)) = true :=
  ⟨leads_of (f := fun ps p s0 => sliceRoom s0 p && arriveOk 0 && isDone (joinSlice s0 2 ps p cp false (.bytes 0 0 0) 0)) (by decide),
   leads_of (f := fun _ p s0 => sliceRoom s0 p && !arriveOk (readV p.cur.th 9).val) (by decide),
   leads_of (f := fun _ p s0 => !sliceRoom s0 p) (by decide),
   leads_of (f := fun ps p s0 => sliceRoom s0 p && tlrFine s0 p (fun n s1 => firstOffset (tlrRules n (tlrOf n)) == none &&
        isDone (joinSlice s1 2 ps p ct true (.tile (tlrOf n)) 0))) (by decide),
   leads_of (f := fun _ p s0 => sliceRoom s0 p && tlrFine s0 p (fun n _ => firstOffset (tlrRules n (tlrOf n)) == some 34)) (by decide)⟩

/-! Collectives and side information. -/

/-- A CDB (R194) of one rank, this core, whose rank table is at own 0x400; and one of a shuffle with its SDB at own 0x500. -/
def goodCdb : Nat := own 0x400 * 2 ^ 128 + 2 ^ 320
def shufCdb : Nat := goodCdb + own 0x500 * 2 ^ 192
/-- An SDB (R198) with empty maps and blocks of 64 bytes. -/
def goodSdb : Nat := 6 * 2 ^ 272
/-- The token that `createColl` makes can be made. -/
def oneFine (s : State) (c : Cur) (o : Long) (op : CollOp) : Bool :=
  fine (createOne s 2 0 c o (.coll { op with nth := nextNth s (teamCore c.team) c.team.asid op.grp }))
theorem createColl_fine {s : State} {c : Cur} {o : Long} {op : CollOp} (h : oneFine s c o op = true) : fine (createColl s 2 0 c o op) = true := by
  unfold oneFine at h
  unfold createColl orStop
  dsimp only
  generalize createOne s 2 0 c o _ = x at h ⊢
  cases x with
  | error e => exact absurd h Bool.false_ne_true
  | ok a => dsimp only; split <;> rfl
def cdbFine (s : State) (c : Cur) (o : Long) (f : CollOp × Nat × State → Bool) : Bool :=
  tokenRoom s c.team && match readCdb s 2 0 c (opd64 c (.v 8)) o with
    | .ok p => f p
    | .error _ => false
theorem cdbFine_mono {s : State} {c : Cur} {o : Long} {f g : CollOp × Nat × State → Bool} (hfg : ∀ p, f p = true → g p = true)
    (h : cdbFine s c o f = true) : cdbFine s c o g = true := by
  unfold cdbFine at h ⊢
  simp only [Bool.and_eq_true] at h ⊢
  refine ⟨h.1, ?_⟩
  have h2 := h.2
  split at h2
  · exact hfg _ h2
  · exact absurd h2 (by decide)
def sdbFine (c : Cur) (p : CollOp × Nat × State) (f : CollOp → State → Bool) : Bool :=
  match readSdb p.2.2 2 0 c (BitVec.ofNat 64 (bitsAt p.2.1 255 192)) p.1 with
  | .ok q =>
    match releasePart q.2 2 0 (teamCore c.team) c.team.asid 0 with
    | .ok s0 => f (registerSide s0 (teamCore c.team) c.team.asid q.1).1 (registerSide s0 (teamCore c.team) c.team.asid q.1).2
    | .error _ => false
  | .error _ => false
theorem sdbFine_mono {c : Cur} {p : CollOp × Nat × State} {f g : CollOp → State → Bool} (hfg : ∀ a b, f a b = true → g a b = true)
    (h : sdbFine c p f = true) : sdbFine c p g = true := by
  unfold sdbFine at h ⊢
  split at h
  · split at h
    · exact hfg _ _ h
    · exact absurd h (by decide)
  · exact absurd h (by decide)
def ag : Long := formC 4 4 8 0 0 0 0 0
def shuf : Long := formC 6 4 8 0 0 0 0 0
theorem wit_coll : Met (.coll ag) sgBlk (fitted sgBlk (inScratch 0) (withBytes 0 64 goodCdb demo)) (fun s _ _ c =>
      cdbFine s c ag (fun p => p.1.kind != 6 && fine (createColl p.2.2 2 0 c ag p.1)) = true) ∧
    Met (.coll shuf) sgBlk (fitted sgBlk (inScratch 0) (withBytes 0x500 64 goodSdb (withBytes 0 64 shufCdb demo))) (fun s _ _ c =>
      cdbFine s c shuf (fun p => p.1.kind == 6 && sdbFine c p (fun q s0 => fine (createColl s0 2 0 c shuf q))) = true) ∧
    Met (.coll ag) sgBlk (fitted sgBlk (inScratch 0) crowded) (fun s _ _ c => tokenRoom s c.team = false) := by
  refine ⟨met_mono (met_dec (pre := fun s _ _ c => cdbFine s c ag (fun p => p.1.kind != 6 && oneFine p.2.2 c ag p.1) = true) (by decide)) ?_,
    met_mono (met_dec (pre := fun s _ _ c =>
      cdbFine s c shuf (fun p => p.1.kind == 6 && sdbFine c p (fun q s0 => oneFine s0 c shuf q)) = true) (by decide)) ?_, met_dec (by decide)⟩
  · intro s _ _ c h
    refine cdbFine_mono (fun p hp => ?_) h
    simp only [Bool.and_eq_true] at hp ⊢
    exact ⟨hp.1, createColl_fine hp.2⟩
  · intro s _ _ c h
    refine cdbFine_mono (fun p hp => ?_) h
    simp only [Bool.and_eq_true] at hp ⊢
    exact ⟨hp.1, sdbFine_mono (fun _ _ h1 => createColl_fine h1) hp.2⟩
theorem wit_sireg :
    let i := formC 0 4 8 6 0 0 0 10
    let sg := sigR (useRaw 2 (.v 8) ++ useOpd (.v 6) 2 [.b32, .b32] ++ useTyped 0x01 (.v 10) ++ useDst 4 1)
    let len := fun (c : Cur) => (opd32 c (.v 10)).toNat
    let fits := fun (s : State) (c : Cur) => isPow2 (len c) = true ∧ 64 ≤ len c ∧ len c ≤ 65536 ∧
      blockOk s c.team (opd64 c (.v 8)).toNat (len c) = true ∧ (opd64 c (.v 6)).toNat < 2 ^ 48
    Met (.sireg i) sg (fitted sg ((10, 65536) :: (6, 0xFFFFFFFF) :: (7, 0xFFFF) :: inScratch 0) demo) (fun s _ _ c => fits s c) ∧
    Met (.sireg i) sg (fitted sg ((10, 64) :: inScratch 64) demo) (fun s _ _ c => fits s c) ∧
    Met (.sireg i) sg (fitted sg ((10, 32) :: inScratch 64) demo) (fun s _ _ c => ¬ fits s c) ∧
    (∀ x ∈ with_ (sigR (useOpd (.v 8) 2 [.b32, .b32] ++ useDst 4 1)) [.sidrop (formC 0 4 8 0 0 0 0 0)]
      ++ with_ (sigR (useDst 4 1)) [.sidropAll (formC 1 4 0 0 0 0 0 0)], Met x.1 x.2 (fitted x.2 [] demo) always) :=
  ⟨met_dec (by decide), met_dec (by decide), met_dec (by decide), all_met (by decide)⟩

/-! Token instructions: v5 holds the handle 0x5009. -/

def t5 : List (Nat × Nat) := [(5, 0x5009), (6, 0x6001)]
def sgT1 : Sig := sigR (useTyped 0x01 (.v 5) ++ useDst 4 1)
def sgT2 : Sig := sigR (useTyped 0x01 (.v 5) ++ useTyped 0x01 (.v 6) ++ useDst 4 1)
def tB : Long := formB 0 4 5 0 0
def t2B : Long := formB 0 4 5 6 0
def prI (n : Nat) : Long := formI 0 4 5 n
def found (s : State) (c : Cur) (f : Nat × Token → Bool) : Bool := match findToken s c.team.asid (opd32 c (.v 5)) with
  | some p => f p
  | none => false
def st1 (l : List Token) : State := fitted sgT1 t5 (withTokens l demo)
def st2 (l : List Token) : State := fitted sgT2 t5 (withTokens l demo)
theorem wit_TokenInstructions_gone :
    (∀ i ∈ ([.tkwait tB, .tktest tB, .tkcancel tB, .tkdetach tB, .tkadopt tB, .tkdepRel { tB with sub := 1 }, .tkprio (prI 3)] : List Instr),
      Met i sgT1 (st1 []) (fun s _ _ c => findToken s c.team.asid (opd32 c (.v 5)) = none)) ∧
    Met (.tkdepAdd t2B) sgT2 (st2 []) (fun s _ _ c => findToken s c.team.asid (opd32 c (.v 5)) = none) ∧
    Met (.tkinfo (formB 3 8 5 0 0)) (sigR (useTyped 0x01 (.v 5) ++ useDst 8 4)) (st1 []) always ∧
    Met (.tkprio (prI 4)) sgT1 (st1 []) (fun _ _ _ c => ¬ (opd32 c (.imm 4)).toNat ≤ 3) := by
  refine ⟨?_, met_dec (by decide), met_mono (met_of (pre := anyCase) (by decide)) (fun _ _ _ _ _ => trivial), met_dec (by decide)⟩
  intro i hi
  have h : ([.tkwait tB, .tktest tB, .tkcancel tB, .tkdetach tB, .tkadopt tB, .tkdepRel { tB with sub := 1 }, .tkprio (prI 3)] :
      List Instr).all (fun i => meets i sgT1 (st1 []) (fun s _ _ c => decide (findToken s c.team.asid (opd32 c (.v 5)) = none))) = true := by decide
  exact met_dec (List.all_eq_true.mp h i hi)
theorem wit_TokenInstructions :
    let mine := tok .pending (.team 2) noCopy
    let done := tok .done (.team 2) noCopy
    let other := tok .pending (.team 7) noCopy
    let loose := tok .pending (.grid 1) noCopy
    let kept := { mine with hold := true }
    let owns := fun (c : Cur) (p : Nat × Token) => mayChange c.team p.2
    let into := fun (s : State) (c : Cur) (p : Nat × Token) => changeTarget s c.team.asid 512 p
    Met (.tkwait tB) sgT1 (st1 [mine]) (fun s _ _ c => found s c (fun p => !terminal p.2) = true) ∧
    Met (.tkwait tB) sgT1 (st1 [done]) (fun s _ _ c => found s c (fun p => terminal p.2) = true) ∧
    Met (.tkcancel tB) sgT1 (st1 [other]) (fun s _ _ c => found s c (fun p => !owns c p) = true) ∧
    Met (.tkcancel tB) sgT1 (st1 [done]) (fun s _ _ c => found s c (fun p => owns c p && (cancelToken s (into s c p)).isNone) = true) ∧
    Met (.tkcancel tB) sgT1 (st1 [mine]) (fun s _ _ c => found s c (fun p => owns c p && (cancelToken s (into s c p)).isSome) = true) ∧
    Met (.tkdetach tB) sgT1 (st1 [loose]) (fun s _ _ c => found s c (fun p => !isAttached p.2) = true) ∧
    Met (.tkdetach tB) sgT1 (st1 [mine]) (fun s _ _ c => found s c (fun p => owns c p && isAttached p.2) = true) ∧
    Met (.tkadopt tB) sgT1 (st1 [mine]) (fun s _ _ c => found s c (fun p => p.2.holder == .team 2) = true) ∧
    Met (.tkadopt tB) sgT1 (st1 [loose]) (fun s _ _ c => found s c (fun p => p.2.holder == .grid 1 && gridUnder s c.team.grid 64 1 &&
      !terminal p.2 && decide (attachedCount s c.team.uid < 64)) = true) ∧
    Met (.tkprio (prI 3)) sgT1 (st1 [done]) (fun s _ _ c => found s c (fun p => owns c p && terminal (into s c p).2) = true) ∧
    Met (.tkprio (prI 3)) sgT1 (st1 [mine]) (fun s _ _ c => found s c (fun p => owns c p && !terminal (into s c p).2) = true) ∧
    Met (.tkdepAdd t2B) sgT2 (st2 [mine]) (fun s _ _ c => found s c (fun p => !p.2.hold) = true) ∧
    Met (.tkdepAdd t2B) sgT2 (st2 [kept]) (fun s _ _ c => found s c (fun p => owns c p && p.2.hold && decide (p.2.deps.length < 4) &&
      !((findToken s c.team.asid (opd32 c (.v 6))).map (fun q => q.2.hold)).getD false) = true) ∧
    Met (.tkdepRel { tB with sub := 1 }) sgT1 (st1 [mine]) (fun s _ _ c => found s c (fun p => !(into s c p).2.hold) = true) ∧
    Met (.tkdepRel { tB with sub := 1 }) sgT1 (st1 [kept]) (fun s _ _ c => found s c (fun p => owns c p && (into s c p).2.hold) = true) :=
  ⟨met_dec (by decide), met_dec (by decide), met_dec (by decide), met_dec (by decide), met_dec (by decide), met_dec (by decide),
   met_dec (by decide), met_dec (by decide), met_dec (by decide), met_dec (by decide), met_dec (by decide), met_dec (by decide),
   met_dec (by decide), met_dec (by decide), met_dec (by decide)⟩
/-- Stage 0 with its first block MIR. -/
def mirrored : State := writeKey demo 0x10000 (natBytes 8 0x22F)
def flipFine (s : State) (c : Cur) (o : Long) : Bool :=
  match letPass s 2 0 c { ea := opd64 c (.v 8), size := 1, align := 1, rd := true, wr := false } with
  | .ok p => p.1.attr.getLsbD 4 && match mirFrameOf p.2 c.team.asid (opd64 c (.v 8)) with
    | some f => match releasePart p.2 2 0 (teamCore c.team) c.team.asid o.scope with
      | .ok s1 => p.1.chip == chipId s1 && getTeam (homeFlip s1 f).2 2 == some c.team
      | .error _ => false
    | none => false
  | .error _ => false
def noMirror (s : State) (c : Cur) : Bool :=
  match letPass s 2 0 c { ea := opd64 c (.v 8), size := 1, align := 1, rd := true, wr := false } with
  | .ok p => !p.1.attr.getLsbD 4
  | .error _ => false
theorem wit_mflip :
    let o := formB 0 4 8 0 2
    Met (.mflip o) sgBlk (fitted sgBlk (inMemory 0x30000) mirrored) (fun s _ _ c => flipFine s c o = true) ∧
    Met (.mflip o) sgBlk (fitted sgBlk (inMemory 0x30000) demo) (fun s _ _ c => noMirror s c = true) :=
  ⟨met_dec (by decide), met_dec (by decide)⟩

/-! Launches, ranges and queues. -/

/-- A launch record (R213): one team of one gang of eight threads. -/
def goodLrc : Nat := 0x20000 + 2 ^ 64 + 2 ^ 96 + 2 ^ 128 + 2 ^ 361 + 7 * 2 ^ 352
def lrcState : State := withBytes 0x100 128 goodLrc demo
def depthOf (s : State) (c : Cur) : Nat := ((getGrid s c.team.grid).map (·.depth)).getD 0
def lrcFine (s : State) (c : Cur) (f : State → Bool) : Bool := match readLrc s 2 0 c (opd64 c (.v 8)) true with
  | .ok p => f p.2
  | .error _ => false
def placeFine (s : State) (c : Cur) (room : Bool) : Bool := lrcFine s c (fun s1 => decide (depthOf s1 c < 9) &&
  match releasePart s1 2 0 (teamCore c.team) c.team.asid 3 with
  | .ok s2 => ((getCtx s2 c.team.asid).map launchRoom).getD false == room
  | .error _ => false)
def fullQueue (s : State) : State := modCtx s 0 (fun c => { c with launchQ := List.range 256 })
def deepGrid (s : State) : State := { s with grids := s.grids.map (fun g => { g with depth := 9 }) }
/-- A child grid of team 2 of two teams, of which `n` have ended. -/
def withKid (n : Nat) : State :=
  onTeam (fun t => { t with kids := [77] }) { demo with grids := demo.grids ++ [{ soleGrid with uid := 77, handle := 0x99, parent := some 1, total := 2, ended := n }] }
theorem wit_LaunchAndJoin :
    let o := formC 0 4 8 0 0 0 0 0
    let y := formC 1 4 8 0 2 0 0 0
    let sy := sigP (useRaw 2 (.v 8) ++ useDst 4 1) [] [2]
    let j := formB 0 4 5 0 0
    let kid := fun (s : State) (c : Cur) => (kidGrids s c.team).find? (fun g => g.handle == opd32 c (.v 5))
    let a := fun (i : Instr) (sg : Sig) => Met i sg (fitted sg (inScratch 0x100) lrcState) (fun s _ _ c => placeFine s c true = true) ∧
      Met i sg (fitted sg (inScratch 0x100) (fullQueue lrcState)) (fun s _ _ c => placeFine s c false = true) ∧
      Met i sg (fitted sg (inScratch 0x100) (deepGrid lrcState)) (fun s _ _ c => lrcFine s c (fun s1 => decide (9 ≤ depthOf s1 c)) = true)
    a (.launch o) sgBlk ∧ a (.launchTry y) sy ∧
    Met (.join j) sgT1 (fitted sgT1 [(5, 0x99)] demo) (fun s _ _ c => kid s c = none) ∧
    Met (.join j) sgT1 (fitted sgT1 [(5, 0x99)] (withKid 2)) (fun s _ _ c => (kid s c).map (fun g => decide (g.total ≤ g.ended)) = some true) ∧
    Met (.join j) sgT1 (fitted sgT1 [(5, 0x99)] (withKid 1)) (fun s _ _ c => (kid s c).map (fun g => decide (g.ended < g.total)) = some true) ∧
    Met (.joinAll (formB 1 4 0 0 0)) (sigR (useDst 4 1)) (withKid 2) (fun s _ _ c => ∀ g ∈ kidGrids s c.team, g.total ≤ g.ended) ∧
    Met (.joinAll (formB 1 4 0 0 0)) (sigR (useDst 4 1)) (withKid 1) (fun s _ _ c => ∃ g ∈ kidGrids s c.team, g.ended < g.total) :=
  ⟨⟨met_dec (by decide), met_dec (by decide), met_dec (by decide)⟩, ⟨met_dec (by decide), met_dec (by decide), met_dec (by decide)⟩,
   met_dec (by decide), met_dec (by decide), met_dec (by decide), met_dec (by decide), met_dec (by decide)⟩
/-- A range of 10 elements with handle 0x44, of which the team has a share, an empty one, or none while team 9 has one. -/
def ranged (complete : Bool) (shares : List (Nat × Nat × Nat)) : State :=
  modCtx (onTeam (fun t => { t with range := some 0x44, ranges := [0x44] }) demo) 0 (fun c =>
    { c with ranges := [{ handle := 0x44, asid := 0, team := some 2, lo := 0, hi := 10, complete := complete, shares := shares }] })
def someRange : Range := { handle := 1, asid := 0, team := none, lo := 0, hi := 1 }
def fullPool : State := modCtx lrcState 0 (fun c => { c with ranges := List.replicate 4096 someRange })
theorem wit_RangesAndRings :
    let o := formC 0 4 8 6 0 0 0 0
    let so := sigR (useRaw 2 (.v 8) ++ useTyped 0x03 (.v 6) ++ useDst 4 1)
    let g := formC 0 8 5 6 2 0 0 0
    let sg := sigP (useTyped 0x01 (.v 5) ++ useTyped 0x01 (.v 6) ++ useDst 8 2) [] [2]
    let d := formC 0 4 6 10 0 0 0 0
    let sd := sigR (useTyped 0x03 (.v 6) ++ useTyped 0x01 (.v 10) ++ useDst 4 1)
    let j := formB 2 4 5 0 0
    let q := formI 0 0 0 65535
    let qr := formB 0 0 5 0 0
    let sq := sigR (useTyped 0x01 (.v 5))
    let full := fun (s : State) (c : Cur) => ((getCtx s c.team.asid).map poolFull).getD true
    let mine := fun (s : State) (c : Cur) => ((c.team.range).bind (fun h => getRange s c.team.asid (BitVec.ofNat 32 h))).filter (fun r => !r.complete)
    let share := fun (s : State) (c : Cur) => (mine s c).bind (fun r => shareOf (refillShare s r 2) 2)
    let rng := fun (s : State) (c : Cur) => getRange s c.team.asid (opd32 c (.v 10))
    let lo := fun (c : Cur) => (lo32 (opd64 c (.v 6))).toNat
    let hi := fun (c : Cur) => (hi32 (opd64 c (.v 6))).toNat
    let own_ := fun (s : State) (c : Cur) => if c.team.ranges.contains (opd32 c (.v 5)).toNat then getRange s c.team.asid (opd32 c (.v 5)) else none
    let reads := fun (s : State) (c : Cur) (b : Bool) => match readLrc s 2 0 c (opd64 c (.v 8)) false with
      | .ok p => full p.2 c == b
      | .error _ => false
    Met (.rtsub o) so (fitted so (inScratch 0x100) lrcState) (fun s _ _ c => reads s c false = true) ∧
    Met (.rtsub o) so (fitted so (inScratch 0x100) fullPool) (fun s _ _ c => reads s c true = true) ∧
    Met (.rtget g) sg (fitted sg [] (ranged false [(2, 0, 10)])) (fun _ _ _ c => (opd32 c (.v 6)).toNat = 0) ∧
    Met (.rtget g) sg (fitted sg [(6, 1)] (ranged false [(2, 4, 4)])) (fun s _ _ c => (opd32 c (.v 6)).toNat ≠ 0 ∧
      (share s c).map (fun x => decide (x.2.2 ≤ x.2.1)) = some true) ∧
    Met (.rtget g) sg (fitted sg [(6, 1)] (ranged true [(2, 0, 10)])) (fun s _ _ c => (opd32 c (.v 6)).toNat ≠ 0 ∧ mine s c = none) ∧
    Met (.rtget g) sg (fitted sg [(6, 3)] (ranged false [(2, 4, 4), (9, 4, 5)])) (fun s _ _ c => (opd32 c (.v 6)).toNat ≠ 0 ∧
      (share s c).map (fun x => decide (x.2.1 < x.2.2)) = some true) ∧
    Met (.rtdone d) sd (fitted sd [(10, 0x45)] (ranged false [])) (fun s _ _ c => rng s c = none) ∧
    Met (.rtdone d) sd (fitted sd [(10, 0x44), (6, 4), (7, 4)] (ranged false [])) (fun s _ _ c =>
      (rng s c).map (·.complete) = some false ∧ lo c ≤ hi c) ∧
    Met (.rtdone d) sd (fitted sd [(10, 0x44), (6, 5), (7, 4)] (ranged false [])) (fun s _ _ c =>
      (rng s c).map (·.complete) = some false ∧ hi c < lo c) ∧
    Met (.joinRng j) sgT1 (fitted sgT1 [(5, 0x45)] (ranged false [])) (fun s _ _ c => own_ s c = none) ∧
    Met (.joinRng j) sgT1 (fitted sgT1 [(5, 0x44)] (ranged true [])) (fun s _ _ c => (own_ s c).map (·.complete) = some true) ∧
    Met (.joinRng j) sgT1 (fitted sgT1 [(5, 0x44)] (ranged false [])) (fun s _ _ c => (own_ s c).map (·.complete) = some false) ∧
    Met (.qnote qr) sq (fitted sq [(5, 65536)] demo) (fun s _ _ c => ¬ ∃ x, getCtx s c.team.asid = some x ∧ ownsQueue x (opd32 c (.v 5)).toNat = true) ∧
    Met (.qnote q) {} demo (fun s _ _ c => (getCtx s c.team.asid).map (fun x => ownsQueue x 65535 && queueChip s x == chipId s) = some true ∧
      fine (releasePart s 2 0 (teamCore c.team) c.team.asid 3) = true) := by
  refine ⟨met_dec (by decide), met_dec (by decide), met_dec (by decide), met_dec (by decide), met_dec (by decide), met_dec (by decide),
   met_dec (by decide), met_dec (by decide), met_dec (by decide), met_dec (by decide), met_dec (by decide), met_dec (by decide), ?_, met_dec (by decide)⟩
  refine met_mono (met_dec (pre := fun s _ _ c => (getCtx s c.team.asid).map (fun x => ownsQueue x (opd32 c (.v 5)).toNat) = some false) (by decide)) ?_
  rintro s _ _ c h ⟨x, hx, ho⟩
  rw [hx] at h
  exact absurd (h.symm.trans (congrArg some ho)) (by decide)
theorem wit_RangesAndRings_refill : (do
    let r ← getRange (ranged false [(2, 4, 4), (9, 4, 9)]) 0 0x44
    let x ← largestShare (ranged false [(2, 4, 4), (9, 4, 9)]) r 2
    pure (((shareOf r 2).map shareLen).getD 0, x)) = some (0, 9, 4, 9) := by decide


/-! Child devices: a child of context 0 with ASID 1, whose handle is 0x80004001 (R220). -/

def kidCtx : Ctx := { rootContext 1 0 with asid := 1, level := 1, parent := some 0 }
def withKidCtx (f : Ctx → Ctx) : State := { demo with ctxs := demo.ctxs ++ [f kidCtx] }
def hk : List (Nat × Nat) := [(5, 0x80004001)]
def dv : Long := formC 0 4 5 0 0 0 0 0
def dv2 : Long := formC 0 4 5 8 0 0 0 0
def dvk : Long := formC 0 4 5 8 0 0 0 10
def sgDv (more : List RegUse) : Sig := sigR (useTyped 0x01 (.v 5) ++ more ++ useDst 4 1)
/-- A grant block (R222): weight 1, one chip, and a stage of five nodes at 0x100000. -/
def goodGrant : Nat := 1 + 2 ^ 32 + (0x100000 * 2 ^ 192 + 2048 * 2 ^ 544 + 5 * 2 ^ 576) * 2 ^ 512
def grantAt (n : Nat) (s : State) : State := withBytes 0x100 256 n s
/-- The one thread of team 2 beside the thread in hand whose command stands first. -/
def ahead (c : Ctx) : Ctx := { c with commands := [(2, 1)] }
def commanding (s : State) : State := modThread s 2 1 (fun th => { th with st := .waiting .command })
def kidOf (s : State) (c : Cur) : Option Ctx := childOf s c.team.asid (opd32 c (.v 5))
def inTurn (s : State) (c : Cur) (f : Ctx → State → Bool) : Bool := match kidOf s c with
  | some k => (takeTurn s k.asid 2 0).1 && f k (takeTurn s k.asid 2 0).2
  | none => false
def grantFine (s : State) (c : Cur) (ea : W64) (more : Bool) (f : Ctx → Block → State → Bool) : Bool := match getCtx s c.team.asid with
  | some p => match readGrant s 2 0 c ea (p.level + 1) more with
    | .ok r => f p r.1 r.2
    | .error _ => false
  | none => false
def builds (c : Cur) (p : Ctx) (b : Block) (s : State) : Bool :=
  b.imga == 0 && newOutcome s p b == none && match queueRun s p none b.grant.nqueue with
  | some q => match storeAll (treeWrites s b q).2 2 0 c (treeWrites s b q).1 with
    | .ok s1 =>
      let s2 := mapMirrors s1 p.asid [] b.grant.mrng
      (freeAsid s2).isSome && freeAsid (treeWrites s b q).2 == freeAsid s2
    | .error _ => false
  | none => false
def sgNew : Sig := sigR (useRaw 2 (.v 8) ++ useDst 4 1)
def newAt (n : Nat) : State := fitted sgNew (inScratch 0x100) (grantAt n demo)
/-- Context 0 has written an image to a block whose memory is another chip's. -/
def farImaged : State := modCtx { demo with
    care := { demo.care with config := natBytes 256 (bytesNat demo.care.config + 7 * 2 ^ 52) }
    sched := { demo.sched with images := [(6, [1, 2, 3], { ctxs := [], teams := [], grids := [], tokens := [] })] } } 0
  (fun c => { c with keyId := 6 })
theorem wit_dvnew :
    let o := formC 0 4 8 0 0 0 0 0
    let img := fun (s : State) (p : Ctx) (b : Block) => findImage s p b.imga
    Met (.dvnew o) sgNew (newAt goodGrant) (fun s _ _ c => grantFine s c (opd64 c (.v 8)) false (fun p b s1 => builds c p b s1) = true) ∧
    Met (.dvnew o) sgNew (newAt (goodGrant + 16383 * 2 ^ 48)) (fun s _ _ c =>
      grantFine s c (opd64 c (.v 8)) false (fun p b s1 => b.imga == 0 && newOutcome s1 p b == some 1) = true) ∧
    Met (.dvnew o) sgNew (newAt (goodGrant + 2 * 2 ^ 32)) (fun s _ _ c =>
      grantFine s c (opd64 c (.v 8)) false (fun p b s1 => b.imga == 0 && newOutcome s1 p b == some 2) = true) ∧
    Met (.dvnew o) sgNew (newAt (goodGrant + 2 ^ 768)) (fun s _ _ c =>
      grantFine s c (opd64 c (.v 8)) false (fun p b s1 => b.imga != 0 && (imageFar s1 p b.imga).isNone && (img s1 p b).isNone) = true) ∧
    Met (.dvnew o) sgNew (fitted sgNew (inScratch 0x100) (grantAt (goodGrant + 0x30000 * 2 ^ 768)
        (writeKey farImaged 0x10000 (natBytes 8 (0x20F + 2 ^ 47))))) (fun s _ _ c =>
      grantFine s c (opd64 c (.v 8)) false (fun p b s1 => b.imga != 0 && (imageFar s1 p b.imga).isSome) = true) :=
  ⟨met_dec (by decide +kernel), met_dec (by decide), met_dec (by decide), met_dec (by decide), met_dec (by decide +kernel)⟩
theorem wit_DeviceTree_orphans :
    let none_ := fun (s : State) (_ _ : Nat) (c : Cur) => kidOf s c = none
    Met (.dvfeat dv2) (sgDv (useTyped 0x03 (.v 8))) (fitted (sgDv (useTyped 0x03 (.v 8))) [] demo) none_ ∧
    (∀ i ∈ ([.dvfrz dv, .dvthaw dv, .dvrevoke dv] : List Instr), Met i (sgDv []) (fitted (sgDv []) [] demo) none_) ∧
    Met (.dvckpt dvk) (sgDv (useRaw 2 (.v 8) ++ useTyped 0x03 (.v 10)))
      (fitted (sgDv (useRaw 2 (.v 8) ++ useTyped 0x03 (.v 10))) [] demo) none_ ∧
    Met (.dvgrant dv2) (sgDv (useRaw 2 (.v 8))) (fitted (sgDv (useRaw 2 (.v 8))) (inScratch 0x100) (grantAt goodGrant demo)) (fun s _ _ c =>
      kidOf s c = none ∧ hasBegun s 2 0 begunGrant = false ∧ grantFine s c (opd64 c (.v 8)) true (fun _ _ _ => true) = true) ∧
    Met (.dvgrant dv2) (sgDv (useRaw 2 (.v 8))) (fitted (sgDv (useRaw 2 (.v 8))) [] (markBegun demo 2 0 begunGrant)) (fun s _ _ c =>
      kidOf s c = none ∧ hasBegun s 2 0 begunGrant = true ∧ (getCtx s c.team.asid).isSome = true) := by
  refine ⟨met_dec (by decide), ?_, met_dec (by decide), met_dec (by decide), met_dec (by decide)⟩
  intro i hi
  have h : ([.dvfrz dv, .dvthaw dv, .dvrevoke dv] : List Instr).all (fun i =>
      meets i (sgDv []) (fitted (sgDv []) [] demo) (fun s _ _ c => decide (kidOf s c = none))) = true := by decide
  exact met_dec (List.all_eq_true.mp h i hi)
theorem wit_DeviceTree_queued :
    let waits := fun (s : State) (_ _ : Nat) (c : Cur) => (kidOf s c).map (fun k => (takeTurn s k.asid 2 0).1) = some false
    let behind := commanding (withKidCtx ahead)
    Met (.dvfeat dv2) (sgDv (useTyped 0x03 (.v 8))) (fitted (sgDv (useTyped 0x03 (.v 8))) hk behind) waits ∧
    (∀ i ∈ ([.dvfrz dv, .dvthaw dv, .dvrevoke dv] : List Instr), Met i (sgDv []) (fitted (sgDv []) hk behind) waits) ∧
    Met (.dvckpt dvk) (sgDv (useRaw 2 (.v 8) ++ useTyped 0x03 (.v 10)))
      (fitted (sgDv (useRaw 2 (.v 8) ++ useTyped 0x03 (.v 10))) hk behind) waits := by
  refine ⟨met_dec (by decide), ?_, met_dec (by decide)⟩
  intro i hi
  have h : ([.dvfrz dv, .dvthaw dv, .dvrevoke dv] : List Instr).all (fun i =>
      meets i (sgDv []) (fitted (sgDv []) hk (commanding (withKidCtx ahead))) (fun s _ _ c =>
        decide ((kidOf s c).map (fun k => (takeTurn s k.asid 2 0).1) = some false))) = true := by decide
  exact met_dec (List.all_eq_true.mp h i hi)
/-- A team of the child that runs on core 0. -/
def busyKid : State := { withKidCtx id with teams := demo.teams ++ demo.teams.map (fun t => { t with uid := 9, asid := 1 }) }
def stopped (s : State) (c : Cur) (k : Ctx) : Bool :=
  allStopped (freezeCtx s k.asid c.team.asid) (subtree (freezeCtx s k.asid c.team.asid) k.asid)
theorem wit_DeviceTree_commands :
    let sgG := sgDv (useRaw 2 (.v 8))
    let sgK := sgDv (useRaw 2 (.v 8) ++ useTyped 0x03 (.v 10))
    Met (.dvfeat dv2) (sgDv (useTyped 0x03 (.v 8))) (fitted (sgDv (useTyped 0x03 (.v 8))) hk (withKidCtx id)) (fun s _ _ c =>
      inTurn s c (fun _ _ => true) = true) ∧
    Met (.dvfrz dv) (sgDv []) (fitted (sgDv []) hk (withKidCtx id)) (fun s _ _ c => inTurn s c (fun k s1 => stopped s1 c k) = true) ∧
    Met (.dvfrz dv) (sgDv []) (fitted (sgDv []) hk busyKid) (fun s _ _ c => inTurn s c (fun k s1 => !stopped s1 c k) = true) ∧
    Met (.dvthaw dv) (sgDv []) (fitted (sgDv []) hk (withKidCtx id)) (fun s _ _ c => inTurn s c (fun k _ => decide (c.team.asid ∉ k.freezes)) = true) ∧
    Met (.dvthaw dv) (sgDv []) (fitted (sgDv []) hk (withKidCtx (fun k => { k with freezes := [0] }))) (fun s _ _ c =>
      inTurn s c (fun k _ => decide (c.team.asid ∈ k.freezes)) = true) ∧
    Met (.dvckpt dvk) sgK (fitted sgK hk busyKid) (fun s _ _ c => inTurn s c (fun k s1 => !stopped s1 c k) = true) ∧
    Met (.dvckpt dvk) sgK (fitted sgK hk (withKidCtx id)) (fun s _ _ c => inTurn s c (fun k s1 => stopped s1 c k) = true) ∧
    Met (.dvgrant dv2) sgG (fitted sgG (hk ++ inScratch 0x100) (grantAt goodGrant (withKidCtx id))) (fun s _ _ c =>
      hasBegun s 2 0 begunGrant = false ∧ grantFine s c (opd64 c (.v 8)) true (fun p b s1 =>
        p.asid == c.team.asid && inTurn s1 c (fun k s2 => fine (grantChild s2 2 0 c p k b))) = true) :=
  ⟨met_dec (by decide), met_dec (by decide), met_dec (by decide), met_dec (by decide), met_dec (by decide), met_dec (by decide),
   met_dec (by decide), met_dec (by decide +kernel)⟩
def gone1 (s : State) : Bool := s.ctxs.any (fun y => y.asid == 1 && !y.live)
def revoked (s : State) : State := beginRevoke (markBegun s 2 0 (begunRevoke 1)) 1
/-- A store of a context that the fabric has not acknowledged, under the tag of its first incarnation. -/
def packet0 : Packet :=
  { ftag := 0, schip := 0, dchip := 1, score := 0, dcore := 0, chan := 0, kind := 0, len := 0, rly := false, be := false, seq := 0
    win := false, rsv := 0, addr := 0, data := [] }
def unacked (asid : Nat) (s : State) : State := modCore s 0 (fun c =>
  { c with outst := [{ peer := 1, seq := 0, pkt := { packet0 with ftag := BitVec.ofNat 16 asid }, asker := .none, flits := 1 }] })
theorem wit_dvrevoke :
    let begun := fun (s : State) => hasBegun s 2 0 (begunRevoke 1)
    let mark := fun (s : State) => fitted (sgDv []) hk (markBegun s 2 0 (begunRevoke 1))
    Met (.dvrevoke dv) (sgDv []) (mark demo) (fun s _ _ _ => begun s = true ∧ gone1 s = false) ∧
    Met (.dvrevoke dv) (sgDv []) (mark (withKidCtx (fun k => { k with live := false }))) (fun s _ _ _ => begun s = true ∧ gone1 s = true) ∧
    Met (.dvrevoke dv) (sgDv []) (fitted (sgDv []) hk busyKid) (fun s _ _ c => begun s = false ∧
      inTurn s c (fun _ s1 => !gone1 (revoked s1)) = true) ∧
    Met (.dvrevoke dv) (sgDv []) (fitted (sgDv []) hk (unacked 1 busyKid)) (fun s _ _ c => begun s = false ∧
      inTurn s c (fun _ s1 => gone1 (revoked s1)) = true) :=
  ⟨met_dec (by decide), met_dec (by decide), met_dec (by decide), met_dec (by decide)⟩
theorem wit_dvinv :
    let o := formC 0 4 8 10 0 0 0 0
    let sg := sigR (useRaw 2 (.v 8) ++ useTyped 0x03 (.v 10) ++ useDst 4 1)
    let out := fun (s : State) (c : Cur) =>
      accessesOut (settleAccesses (invalidate s c.team.asid (opd64 c (.v 8)).toNat (opd64 c (.v 10)).toNat) (subtree s c.team.asid)) (subtree s c.team.asid)
    Met (.dvinv o) sg (fitted sg [] demo) (fun _ _ _ c => (opd64 c (.v 10)).toNat = 0) ∧
    Met (.dvinv o) sg (fitted sg [(10, 1)] demo) (fun s _ _ c => (opd64 c (.v 10)).toNat ≠ 0 ∧ out s c = false) ∧
    Met (.dvinv o) sg (fitted sg [(11, 1)] (unacked 0 demo)) (fun s _ _ c => (opd64 c (.v 10)).toNat ≠ 0 ∧ out s c = true) :=
  ⟨met_dec (by decide), met_dec (by decide), met_dec (by decide)⟩

theorem wit_DeviceTree_new : (rootContext 1 0).level < 7 ∧ (rootContext 1 0).left < 1 + 16383 ∧ ({ kidCtx with level := 7 } : Ctx).level = 7 ∧
    ∀ c ∈ demo.ctxs, c.asid ≠ 1 := by decide

/-! Handler queues. -/

def entry (about : Concern) : Hqe := { id := 6, about := about, ctx := 1 }
def bound (child : Option Nat) (s : State) : State := modCtx s 0 (fun c => { c with bindings := [{ team := 2, child := child }] })
def withEntry (h : Hqe) (s : State) : State := modCtx s 0 (fun c => { c with hqes := [h], popped := [h] })
theorem wit_HandlerQueues_post :
    ((∀ b ∈ kidCtx.bindings, covers (withKidCtx id) b 1 = false) ∧ (entry .report).about ≠ .event) ∧
    ((getCtx (bound none (withKidCtx id)) 0).map (fun c => c.bindings.any (fun b => covers (bound none (withKidCtx id)) b 1))) = some true ∧
    ((getCtx (bound (some 7) (withKidCtx id)) 0).map (fun c => c.bindings.all (fun b => !covers (bound (some 7) (withKidCtx id)) b 1))) = some true := by
  decide
def hq : Long := formB 0 4 5 0 0
def hqw : Long := formB 1 4 5 0 0
theorem wit_HandlerQueues_bind :
    let who := fun (s : State) (c : Cur) => bindingOf s c.team.asid (opd32 c (.v 5))
    let held := fun (s : State) (c : Cur) (k : Option Nat) =>
      ((getCtx s c.team.asid).map (·.bindings)).bind (fun l => l.find? (fun b => b.child == k))
    Met (.hqbind hq) (sgDv []) (fitted (sgDv []) [] demo) (fun s _ _ c => who s c = none) ∧
    Met (.hqbind hq) (sgDv []) (fitted (sgDv []) [(5, 0xFFFFFFFF)] (bound none demo)) (fun s _ _ c =>
      who s c = some none ∧ (held s c none).isSome = true) ∧
    Met (.hqbind hq) (sgDv []) (fitted (sgDv []) hk (bound none (withKidCtx id))) (fun s _ _ c =>
      who s c = some (some 1) ∧ held s c (some 1) = none) ∧
    Met (.hqbindOff hqw) (sgDv []) (fitted (sgDv []) [] demo) (fun s _ _ c => who s c = none) ∧
    Met (.hqbindOff hqw) (sgDv []) (fitted (sgDv []) [(5, 0xFFFFFFFF)] (bound none demo)) (fun s _ _ c => who s c = some none) :=
  ⟨met_dec (by decide), met_dec (by decide), met_dec (by decide), met_dec (by decide), met_dec (by decide)⟩
def popFine (s : State) (c : Cur) (f : Site → State → Option Hqe → Bool) : Bool :=
  match letPass s 2 0 c { ea := opd64 c (.v 8), size := 64, align := 64, rd := false, wr := true, winOnly := true } with
  | .ok p => f p.1 p.2 (popNext p.2 c.team.asid 2)
  | .error _ => false
def takes (s : State) (c : Cur) : Bool := popFine s c (fun w s1 h => match h with
  | some x => fine (writeSite s1 2 0 c (opd64 c (.v 8)) w ((List.range 64).zip (natBytes 64 (hqeNat x))) .plain (writerSets s1 2 0 (carryKey s1 w) 64 0 false))
  | none => false)
theorem wit_HandlerQueues_pop :
    let p := formB 0 4 8 0 0
    let w := formB 1 4 8 0 0
    let full := fitted sgNew (inScratch 0x40) (withEntry (entry (.thread 9 0)) (bound none (withKidCtx id)))
    Met (.hqpop p) sgNew (fitted sgNew (inScratch 0x40) demo) (fun s _ _ c => popFine s c (fun _ _ h => h.isNone) = true) ∧
    Met (.hqpopWait w) sgNew (fitted sgNew (inScratch 0x40) demo) (fun s _ _ c => popFine s c (fun _ _ h => h.isNone) = true) ∧
    Met (.hqpop p) sgNew full (fun s _ _ c => takes s c = true) ∧ Met (.hqpopWait w) sgNew full (fun s _ _ c => takes s c = true) :=
  ⟨met_dec (by decide), met_dec (by decide), met_dec (by decide), met_dec (by decide)⟩
def parkedOn (p : Park) : State := modThread demo 2 3 (fun th => { th with st := .parked p })
theorem wit_hqret :
    let r := formB 0 4 5 6 0
    let ri := formI 0 4 5 2
    let sg := sgDv (useTyped 0x01 (.v 6))
    let e := fun (s : State) (c : Cur) => (getCtx s c.team.asid).bind (fun x => x.popped.find? (fun h => h.id == opd32 c (.v 5)))
    Met (.hqret r) sg (fitted sg [(6, 3)] demo) (fun _ _ _ c => 2 < (opd32 c (.v 6)).toNat) ∧
    Met (.hqret r) sg (fitted sg [(6, 2)] demo) (fun s _ _ c => (opd32 c (.v 6)).toNat ≤ 2 ∧ e s c = none) ∧
    Met (.hqret ri) (sgDv []) (fitted (sgDv []) [(5, 6)] (withEntry (entry (.thread 2 3)) (parkedOn (.entry 0 6)))) (fun s _ _ c =>
      ri.imm.toNat ≤ 2 ∧ (e s c).isSome = true) ∧
    (((getTeam (parkedOn (.entry 0 6)) 2).bind (fun t => getThread t 3)).map (·.st)) = some (.parked (.entry 0 6)) :=
  ⟨met_dec (by decide), met_dec (by decide), met_dec (by decide), by decide⟩

/-! Special registers. -/

theorem wit_SpecialRegisters :
    let rd := fun (n : Nat) => formI 0 4 0 n
    let wr := fun (n : Nat) => formI 0 0 8 n
    let s1 := sigR (useRaw 1 (.v 8))
    let s2 := sigR (useRaw 2 (.v 8))
    let masked := fun (s : State) (c : Cur) => (opd32 c (.v 8) &&& 0xB0).getLsbD 5 = true ∧ (effFeat s c.team.asid).getLsbD 13 = false
    (∀ x ∈ with_ (sigR (useDst 4 2)) [.rdsr (rd 0x12), .rdsr (rd 0x15), .rdcnt (rd 0), .rdcnt (rd 4)]
      ++ with_ (sigR (useDst 4 1)) [.rdsr (rd 0), .rdsr (rd 0x0B), .rdsr (rd 0x14)] ++ with_ { s2 with seedW := true } [.wrsr (wr 0x15)]
      ++ with_ s1 [.wrsr (wr 0), .wrsr (wr 0x14)], Met x.1 x.2 (fitted x.2 [] demo) always) ∧
    Met (.wrsr (wr 0x10)) s1 (fitted s1 [(8, 0x30)] demo) (fun s _ _ c => ¬ masked s c) ∧
    Met (.wrsr (wr 0x10)) s1 (fitted s1 [(8, 0x20)] (modCtx demo 0 (fun c => { c with feat := 0x1FFF }))) (fun s _ _ c => masked s c) ∧
    Met (.wrsr (wr 0x12)) s2 (fitted s2 [(8, 0x30000)] demo) (fun _ _ _ c => (opd64 c (.v 8)).toNat % 4 = 0) ∧
    Met (.wrsr (wr 0x12)) s2 (fitted s2 [(8, 0x30002)] demo) (fun _ _ _ c => (opd64 c (.v 8)).toNat % 4 ≠ 0) :=
  ⟨all_met (by decide), met_dec (by decide), met_dec (by decide), met_dec (by decide), met_dec (by decide)⟩
theorem wit_SpecialRegisters_gang : ∃ t th, Turn demo 2 0 t th ∧
    ((t.gangs[th.gang]?.map (·.width) = some 8 ∧ th.gang < 64 ∧ th.gpos < 64) ∧ teamCore t < 128 ∧ th.part < 4 ∧ th.lane < 64 ∧ th.slot < 32) :=
  head_of (by decide)

/-! Events: each in a state where it happens. -/

def copyTok (st : TokState) : Token :=
  tok st (.team 2) (.copy { tiled := false, g := 1, slices := [{ gang := 0, what := .bytes 0x30000 0x40000 64, arrive := 0 }], flip := false })
/-- A collective of one rank, on this core, of 16 elements of 4 bytes. -/
def coll1 (kind : Nat) : CollOp :=
  { kind := kind, xsum := false, flip := false, grp := 7, nrank := 1, rank := 0, root := 0, cnt := 16, etype := 1, rop := 0, xblk := 0,
    rtab := [0], srcb := 0x30000, dstb := 0x40000, arrive := 0 }
def collTok (c : CollOp) : Token := { tok .running (.team 2) (.coll c) with unord := true }
/-- A shuffle that has been cancelled and is between chunks. -/
def shufTok : Token := { collTok { coll1 6 with sending := true } with cxl := true }
def pick1 {α : Type} (o : Option α) (f : α → Bool) : Bool := match o with
  | some x => f x
  | none => false
def tokenOf (s : State) (f : Token → Bool) : Bool := pick1 (getToken s 0 5) f
def drained (s : State) : State := onTeam (fun t => { t with home := .drained 0 }) s
def segment : PrismSeg := { pkt := { packet0 with kind := 7 }, deg := 0, coded := false, resend := false }
def heldStore : HeldStore := { asid := 0, team := 2, tid := 0, data := [(0x30000, 5)] }
def oldEntry (age : Nat) : WcbEntry := { peer := 1, win := false, line := 4, dcore := 0, asid := 0, data := [(0, 5)], age := age }
theorem wit_EngineEvents :
    freeSlots (getCore demo 0) ≠ [] ∧
    pick1 (getTeam (drained demo) 2) (fun t => teamOver (drained demo) t) = true ∧
    tokenOf (withTokens [copyTok .pending] demo) (fun tk =>
      canStart (withTokens [copyTok .pending] demo) 0 tk && firstPick (withTokens [copyTok .pending] demo) 0 tk) = true ∧
    tokenOf (withTokens [tok .running (.team 2) (mmaOn 0)] demo) (fun tk => tk.st == .running && pick1 (getTeam demo tk.team) teamResident) = true ∧
    tokenOf (withTokens [copyTok .running] demo) (fun tk => pick1 (copyOf tk) (fun c => pick1 c.slices[0]? (fun sl =>
      (sliceSector sl.what 0).isSome && sectorReady (withTokens [copyTok .running] demo) 0 tk c 0 0 sl))) = true ∧
    tokenOf (withTokens [collTok (coll1 0)] demo) (fun tk => pick1 (collOf tk) (fun c => c.kind != 6 &&
      pick1 (runningRanks (withTokens [collTok (coll1 0)] demo) tk c) (fun r => chunkReady (withTokens [collTok (coll1 0)] demo) r) &&
      remoteFits (withTokens [collTok (coll1 0)] demo) c [])) = true ∧
    tokenOf (withTokens [{ collTok (coll1 0) with st := .pending }] demo) (fun tk => pick1 (collOf tk) (fun c => c.kind != 6 &&
      (runningRanks (withTokens [{ collTok (coll1 0) with st := .pending }] demo) tk c).isNone)) = true ∧
    tokenOf (withTokens [shufTok] demo) (fun tk => pick1 (collOf tk) (fun c => c.kind == 6 &&
      (shuffleChunkEnd (withTokens [shufTok] demo) tk c []).isSome)) = true ∧
    tokenOf (withTokens [collTok (coll1 6)] demo) (fun tk => pick1 (collOf tk) (fun c => !c.sending &&
      pick1 (runningRanks (withTokens [collTok (coll1 6)] demo) tk c) (fun r =>
        r.all (fun p => !tokenHeld (withTokens [collTok (coll1 6)] demo) p.1 p.2.1)) && demo.fab.haveWait.isEmpty)) = true ∧
    (let s : State := { demo with fab := { demo.fab with prisms := [{ port := 3, segs := [segment] }] } }
     (getPrism s 3).segs = [segment] ∧ slotsFree s 3 (prismGroup s segment []).1 = true) ∧
    (let s := modCore demo 0 (fun c => { c with wcb := [oldEntry 2048] })
     (getCore s 0).wcb[0]? = some (oldEntry 2048) ∧ wcbLimit s (oldEntry 2048) ≤ 2048) ∧
    (getCore (modCore demo 0 (fun c => { c with held := [heldStore] })) 0).held[0]? = some heldStore ∧
    pick1 ((getTeam (onThread (fun th => { th with pending := [.v 5] }) demo) 2).bind (fun t => getThread t 0)) (fun th => !th.pending.isEmpty) = true ∧
    (getTeam demo 3 = none ∧ getToken demo 0 5 = none ∧ (getPrism demo 5).segs = []) := by decide

/-- A context with credit whose grid has a team to place; a saved team; a queue that was rung. -/
def creditor (f : Ctx → Ctx) (s : State) : State := modCtx { s with sched := { s.sched with ring := [0] } } 0 (fun c => f { c with deficit := 5 })
def poor : State := { demo with grids := demo.grids ++ [{ soleGrid with uid := 77, next := 0 }] }
def oneMore : State := creditor id poor
def savedTeam : State := creditor id (onTeam (fun t => { t with home := .saved 0 }) demo)
def rung (f : Ctx → Ctx) : State := modCtx demo 0 (fun c => f { c with queues := [{ num := 3, rung := true }] })
/-- The child starves, while context 0 is in debt on core 0. -/
def hungry : State :=
  let s := withKidCtx (fun k => { k with starve := 54000, grant := { k.grant with cset := 1 }, })
  modCtx { s with grids := s.grids ++ [{ soleGrid with uid := 78, asid := 1, next := 0 }] } 0 (fun c => { c with deficit := -1, cxr := { c.cxr with saven := 65535 } })
theorem wit_SchedulerEvents_cycle :
    roundMembers (syncRing poor) ≠ [] ∧
    pick1 ((getCore (modCore demo 0 (fun c => { c with prq := [{ asid := 0, raised := 0 }] })) 0).prq.find? (fun q => q.asid == 0)) (fun p =>
      forceDue { demo with cycle := 262144 } 0 p) = true ∧
    (let s := onTeam (fun t => { t with bwd := 100 }) (onThread (fun th => { th with st := .waiting (.bar 0 false), waited := 100 }) demo)
     pick1 (getTeam s 2) (fun t => pick1 (getThread t 0) (fun th => (stallDue s t 0 th).isSome)) = true) ∧
    (let s := withTokens [{ tok .running (.team 2) (mmaOn 0) with asid := 1 }] { withKidCtx (fun k => { k with live := false }) with cycle := 262144 }
     pick1 ((revokeTops s).find? (fun x => x.asid == 1)) (fun c => drainDue s c) = true) ∧
    pick1 (getCtx (rung id) 0) (fun c => readable (rung id) c 3 && !hubAsks (rung id) 0 && !readable (rung id) c 4 && fine (qcbAddr (rung id) c 3).1) = true ∧
    (let s := rung (fun c => { c with cxr := { c.cxr with qtab := 0x0100000000000000 } })
     pick1 (getCtx s 0) (fun c => readable s c 3 && !fine (qcbAddr s c 3).1) = true) := by decide
theorem wit_SchedulerEvents_place :
    pick1 (getGrid oneMore 77) (fun x => pick1 (nextOf (syncRing oneMore) x.asid) (fun c => match c with
      | .fresh y => y.uid == 77
      | .back _ => false) && hasCredit (syncRing oneMore) 0 && servedFirst (syncRing oneMore) 0
      && spotFree (syncRing oneMore) (freshCore (syncRing oneMore) x)) = true ∧
    pick1 (getTeam savedTeam 2) (fun t => (spotHere (backCore (syncRing savedTeam) t)).isSome && t.range.isNone
      && spotFree (syncRing savedTeam) (backCore (syncRing savedTeam) t) && pick1 (nextOf (syncRing savedTeam) 0) (fun c => match c with
      | .fresh _ => false
      | .back y => y.uid == 2) && hasCredit (syncRing savedTeam) 0 && servedFirst (syncRing savedTeam) 0) = true := by
  decide +kernel
/-- The same child in need, where the save area of context 0 is just large enough. -/
def needy : State := modCtx hungry 0 (fun c => { c with cxr := { c.cxr with saven := ((getTeam demo 2).map imageUnits).getD 0 } })
theorem sortBy_some {α : Type} {le : α → α → Bool} {l : List α} {x : α} (h : x ∈ l) : ∃ y r, sortBy le l = y :: r := by
  cases l with
  | nil => cases h
  | cons a r =>
    show ∃ y q, insertBy le a (sortBy le r) = y :: q
    cases sortBy le r with
    | nil => exact ⟨_, _, rfl⟩
    | cons b q => unfold insertBy; split <;> exact ⟨_, _, rfl⟩
theorem savable_of {s : State} {t : Team} {c : Ctx} (hc : getCtx s t.asid = some c) (h : savedImages s t.asid = [])
    (hn : imageUnits t ≤ c.cxr.saven) : savable s t = true := by
  unfold savable savePlace
  rw [hc]
  dsimp only
  rw [h]
  have := Nat.mul_le_mul_left 65536 hn
  simp [List.find?, this]
theorem needy_saves : (teamsHere needy 0 0).all (savable needy) = true := by
  have h : teamsHere needy 0 0 = demo.teams := by decide +kernel
  rw [h]
  show (savable needy _ && true) = true
  refine (Bool.and_true _).trans (savable_of (c := (getCtx needy 0).getD kidCtx) rfl (by decide +kernel) ?_)
  exact Nat.le_refl (((getTeam demo 2).map imageUnits).getD 0)
theorem wit_SchedulerEvents_starve : (∃ x r, starvers needy 1 = x :: r ∧ ∃ y ∈ starvers needy 1, y.1 = x.1 ∧ leafFree needy y.2.1 = true) ∧
    pick1 (getCtx needy 1) (fun c => ctxActive needy c && decide (starveLimit ≤ c.starve)) = true := by
  refine ⟨?_, by decide +kernel⟩
  suffices h : ∃ x r, starvers needy 1 = x :: r by
    obtain ⟨x, r, h⟩ := h
    exact ⟨x, r, h, x, h ▸ List.mem_cons_self, rfl, rfl⟩
  refine sortBy_some (x := ((-1 : Int), 0, 0)) ?_
  refine List.mem_flatMap.mpr ⟨0, by decide +kernel, List.mem_filterMap.mpr ⟨0, by decide +kernel, ?_⟩⟩
  show (if (decide ((-1 : Int) < 0) && (teamsHere needy 0 0).all (savable needy)) = true then some ((-1 : Int), 0, 0) else none) = some (-1, 0, 0)
  rw [needy_saves]
  rfl

def link (l : LinkPort) : State := { demo with fab := { demo.fab with ports := [l] } }
def upPort : LinkPort := { num := 3, peer := 1, up := true }
def fromFar (k : Nat) (dchip : Nat) : Packet := { packet0 with kind := BitVec.ofNat 4 k, schip := 1, dchip := BitVec.ofNat 4 dchip }
def reached (s : State) (port k : Nat) (p : Packet) : Bool :=
  (getPort s port).isSome && p.kind.toNat == k && p.len.toNat == p.data.length && headerOk p
def standing (p : Packet) : State :=
  { modCore demo 1 (fun c => { c with decode := [p] }) with fab := { demo.fab with local_ := [p] } }
def timedOut (o : Outst) : State := { modCore demo 0 (fun c => { c with outst := [o] }) with ns := 1000000 }
def unsent : Outst := { peer := 1, seq := 5, pkt := packet0, asker := .none, flits := 1, sent := false }
theorem wit_FabricEvents :
    (getPort (link upPort) 3 = some upPort ∧ getPort demo 3 = none ∧ headerOk packet0 = true ∧ headerOk { packet0 with kind := 15 } = false) ∧
    (getPort (link { upPort with askReplay := true, fails := 7 }) 3 = some { upPort with askReplay := true, fails := 7 } ∧
      getPort (link { upPort with up := false }) 3 = some { upPort with up := false }) ∧
    (List.range 12).all (fun k => reached (link upPort) 3 k (fromFar k 0)) = true ∧
    (tagLive (leavePool (link upPort) 3 (fromFar 0 0)) 0 = true ∧ tagLive (leavePool (link upPort) 3 (fromFar 0 0)) 0x4000 = false ∧
      (fromFar 0 2).dchip.toNat ≠ chipId (link upPort) ∧ (fromFar 0 0).dchip.toNat = chipId (link upPort)) ∧
    ([7, 8, 9, 10].all (fun k => (standing (fromFar k 0)).fab.local_.contains (fromFar k 0) &&
      !rankWaits (standing (fromFar k 0)) (fromFar k 0).dcore.toNat (fromFar k 0)) = true) ∧
    ((fromFar 6 0) ∈ (getCore (standing (fromFar 6 0)) (257 - 256)).decode ∧ rankWaits (standing (fromFar 6 0)) (257 - 256) (fromFar 6 0) = false) ∧
    (performedBefore { demo with fab := { demo.fab with seen := [(1, 0, 0, packet0)] } } (fromFar 0 0)).isSome = true ∧
    ((getCore (timedOut { unsent with dead := true }) 0).outst.find? (fun x => x.dead && x.seq.toNat == 5 &&
      decide ((timedOut { unsent with dead := true }).ns ≥ x.since + oneMs))).isSome = true ∧
    ((timedOut unsent).cores.filter (fun c => c.outst.any (heldTooLong (timedOut unsent) c.id 1))).isEmpty = false := by decide

def hosting (f : HostSide → HostSide) : State := { demo with host := f demo.host }
def page0 : AtsReq := { fn := 0, pasid := none, page := 7 }
def vfKid : State := withKidCtx (fun k => { k with cxr := { k.cxr with vf := 3 } })
theorem wit_HostEvents :
    ((functionContext demo 0).isSome = true ∧ functionContext demo 3 = none ∧ ((functionContext vfKid 3).map (·.asid)) = some 1) ∧
    (hosting (fun h => { h with out := [.atsRequest page0 false] })).host.out.any (fun m => match m with
      | .atsRequest q _ => q == page0
      | _ => false) = true ∧
    ((hosting (fun h => { h with prgs := [{ asid := 0, fn := 0, index := 2, rq := page0, wr := true, rd := true, sent := true }] })).host.prgs.find?
      (fun g => g.fn == 0 && g.index == 2 && g.sent)).isSome = true ∧
    ((hosting (fun h => { h with asked := [{ id := 9, about := .report, rpl := true }] })).host.asked.find? (fun q => q.id == 9)).isSome = true ∧
    ((hosting (fun h => { h with s0invl := 65536 })).host.s0invl ≠ 0 ∧ demo.host.s0invl = 0) ∧
    (hostReach demo 0x30000 256 = true ∧ hostReach demo (3 * 2 ^ 50) 1 = false ∧ poisoned demo 0x30000 8 = false ∧
      poisoned { demo with poison := [0x600] } 0x30000 8 = true) ∧
    (sliceReach 127 (Config.sliceBytes - 4) 4 = true ∧ sliceReach 127 (Config.sliceBytes - 4) 5 = false) ∧
    (semOwner demo 0 = none ∧ semOwner (setSem demo 0 (some (.a, 5))) 0 = some .a ∧
      ((setSem { demo with ns := 5 } 0 (some (.a, 5))).host.sems.find? (fun p => p.1 == 0)).map (fun q => decide (q.2.2 ≠ 0 ∧ q.2.2 ≤ 5)) =
        some true) ∧
    ((portRegs (hosting (fun h => { h with portB := { h.portB with en := true } })) .b).en = true ∧ (portRegs demo .b).en = false) := by decide

def caring (f : Care → Care) : State := { demo with care := f demo.care }
def started : StartInput := { memTrained := true, selfTest := true, peers := [] }
/-- A module without firmware; a start whose stages all pass is told by signatures against keys that are free values. -/
theorem wit_ModuleEvents_start : startFault { demo.care with att := 1 } started = some 1 := rfl
theorem wit_ModuleEvents_spdm : 0 < (certChain demo).length ∧ (caring (fun c => { c with measures := [[1]] })).care.measures[1 - 1]? = some [1] :=
  ⟨by simp only [certChain, List.length_append, List.length_cons]; omega, rfl⟩
theorem wit_ModuleEvents :
    (State.reset.care.phase = .resetting ∨ State.reset.care.phase = .off) ∧ State.reset.care.att < 3 ∧ demo.care.phase = .running ∧
    3 ≤ (caring (fun c => { c with phase := .off, att := 3 })).care.att ∧ (caring (fun c => { c with phase := .off })).care.phase ≠ .running ∧
    (plimOf demo < 601 ∧ ¬ plimOf demo < 600 ∧ 100 * 569 < 95 * plimOf demo ∧ 95 * plimOf demo ≤ 100 * 570) ∧
    (semOwner (setSem demo 1 (some (.b, 0))) 1 = some .b ∧ (caring (fun c => { c with ckSt := 1 })).care.ckSt = 1 ∧
      (0x80000000#32).getLsbD 31 = true ∧ bitsAt (0x80000000#32).toNat 30 29 = 0 ∧ bitsAt (0xA0000000#32).toNat 30 29 = 1 ∧
      bitsAt (0xC0000000#32).toNat 30 29 = 2 ∧ tierThere { demo with care := { demo.care with lostTier := [(false, 0)] } } false = false) ∧
    (hostReach demo 0x30000 1 = true ∧ sliceReach 0 0 1 = true) := by decide

/-! ## Values: from the spec's worked cases, and from its rules by hand -/

/-- What one instruction leaves in a register of the thread in hand. -/
def leaves (i : Instr) (s : State) (n : Nat) : Option Nat := match exec i s with
  | .next t => ((getTeam t 2).bind (fun x => getThread x 0)).bind (fun th => th.regs[n]?.map (fun r => r.val.toNat))
  | _ => none
def reg (n v : Nat) (t : Tag) : Nat × Reg := (n, { val := BitVec.ofNat 32 v, tag := t })
/-- The worked case of a scaled E4M3 dot product (file 05). -/
def dotState (scale : Nat) : State :=
  held [reg 4 0x44B04038 .e4m3x4, reg 5 0x3C482840 .e4m3x4, reg 6 0x3E800000 .f32, reg 7 scale .scl] demo
def dotCase (n : Nat) : Instr := .dot4 (formC 0 10 4 5 0 7 n 6)
theorem test_dot4_scaled : leaves (dotCase 0x09) (dotState 0x7F7F7D80) 10 = some 0x40300000 := by decide +kernel
theorem test_dot4_nan_scale : leaves (dotCase 0x09) (dotState 0x7F7FFF80) 10 = some 0x7FC00000 := by decide +kernel
/-- The running quantised sum (file 05): 2^-30 quantises to 0 under E 0, and 1.0 to 2^23. -/
def sumState (x : Nat) : State := held [reg 8 5 .b32, reg 9 0 .b32, reg 3 x .f32, reg 12 0 .b32] demo
theorem test_fqnt : leaves (.fqnt (formC 0x10 8 3 12 0 0 0 8)) (sumState 0x3F800000) 8 = some 0x800005 ∧
    leaves (.fqnt (formC 0x10 8 3 12 0 0 0 8)) (sumState 0x30800000) 8 = some 5 := by decide +kernel
/-- Addition wraps at 32 bits, `.sat` clamps (R86), and the first source is subtracted from. -/
theorem test_iadd : leaves (.iadd (formB 0 6 4 5 0)) (held [reg 4 0x7FFFFFFF .b32, reg 5 1 .b32] demo) 6 = some 0x80000000 ∧
    leaves (.iadd { formB 0 6 4 5 0 with sat := true }) (held [reg 4 0x7FFFFFFF .b32, reg 5 1 .b32] demo) 6 = some 0x7FFFFFFF ∧
    leaves (.isub (formB 0 6 4 5 0)) (held [reg 4 3 .b32, reg 5 5 .b32] demo) 6 = some 0xFFFFFFFE := by decide +kernel
/-- Four bytes in little-endian order (R6). -/
theorem test_ld : leaves (.ld (formM 0x0A 4 8 0 0 0)) (withBytes 0x100 4 0x44332211 (held [reg 8 0x100 .b32, reg 9 0x01F00000 .b32] demo)) 4 =
    some 0x44332211 ∧
    leaves (.ld (formM 0x08 4 8 0 0 1)) (withBytes 0x100 4 0x44332211 (held [reg 8 0x100 .b32, reg 9 0x01F00000 .b32] demo)) 4 = some 0x22 := by
  decide +kernel
/-- 464.0 is a tie that goes to the even mantissa, 470.0 overflows, and 2^-10 is a tie that goes to 0 (file 02). -/
theorem test_e4m3 : [0x43E60000, 0x43E80000, 0x43EB0000, 0x3A800000].map (fun x => convertFloat fmtF32 fmtE4M3 0 0 false x) =
    [0x7E, 0x7E, 0x7F, 0x00] ∧ convertFloat fmtF32 fmtE4M3 0 0 true 0x43EB0000 = 0x7E ∧ convertFloat fmtF32 fmtE4M3 1 0 false 0x43EB0000 = 0x7E := by
  decide +kernel
/-- SHAKE256 of the empty message begins so (FIPS 202's published value). -/
theorem test_digest : (digest []).take 4 = [0x46, 0xB9, 0xDD, 0x2B] := by decide +kernel

end Sys2Proof.Tests
end

section
/-! The moves, `lea` and the predicate instructions (O23): each is an equation of `exec` with `runAlu`, from which the laws of
Laws/Alu.lean give its writes and its frame; p7 and the other predicates by the read-after-write laws. -/

namespace Sys2Proof.Machine

open Sys2Proof

/-! ## What the moves write -/

theorem lo32_signExtend (x : BitVec 8) : lo32 (x.signExtend 64) = x.signExtend 32 := by
  refine BitVec.eq_of_getLsbD_eq fun k hk => ?_
  have h64 : k < 64 := by omega
  simp only [lo32, BitVec.getLsbD_extractLsb', BitVec.getLsbD_signExtend, hk, h64, Nat.zero_add, decide_true, Bool.true_and]

/-- The 32-bit `movi` writes IMM8 sign-extended, as B32 (R64, R96). -/
theorem resultAs_imm8 (d : Nat) (x : BitVec 8) :
    resultAs 0x00 d (imm8As true x) = [(d, { val := x.signExtend 32, tag := .b32 })] := by
  rw [← lo32_signExtend]
  rfl

/-- The result of a type fills its destination registers, each once (R28). -/
theorem placed_resultAs_tags (t : BitVec 6) (d : Nat) (v : W64) : Placed d (tyTags t).length (resultAs t d v) :=
  placed_resultAs t d _ v (.inl (Nat.le_refl _))

theorem computes_moviAi (o : Short) : Computes (.moviAi o) (sigR (useDst o.d.toNat 1)) (fun _ =>
    outR [(o.d.toNat, { val := o.s.signExtend 32, tag := .b32 })]) := by
  have hx : ∀ s, exec (.moviAi o) s = runAlu (.moviAi o) (sigR (useDst o.d.toNat 1)) (fun _ =>
      outR (resultAs 0x00 o.d.toNat (imm8As true o.s))) s := fun _ => rfl
  simp only [resultAs_imm8] at hx
  exact computes_regs o.d.toNat 1 hx rfl (by simp [sigR, useDst]) (by simp [outR]) (fun _ => placed_one _ _ _ (by decide))

theorem computes_movi (o : Long) : Computes (.movi o) (sigR (useDst o.dst.toNat (tyTags o.sub).length)) (fun _ =>
    outR (resultAs o.sub o.dst.toNat (imm16As o.sub o.imm))) :=
  computes_regs o.dst.toNat _ (fun _ => rfl) rfl (by simp [sigR, useDst]) (by simp [outR]) (fun _ => placed_resultAs_tags ..)

theorem computes_movl (o : Long) : Computes (.movl o) (sigR (useDst o.dst.toNat (tyTags o.sub).length)) (fun _ =>
    outR (resultAs o.sub o.dst.toNat o.lit)) :=
  computes_regs o.dst.toNat _ (fun _ => rfl) rfl (by simp [sigR, useDst]) (by simp [outR]) (fun _ => placed_resultAs_tags ..)

/-- `lea` adds the index to the base: as it is in the BI form, scaled in the B form, scaled and with IMM16 in the C and L forms
(R97). -/
theorem computes_lea (o : Long) :
    Computes (.lea o) (sigR (useRaw 2 (srcA o) ++ useTyped o.sub (srcB o o.sub) ++ useDst o.dst.toNat 2)) (fun c =>
      outR (result64 o.dst.toNat (opd64 c (srcA o) + BitVec.ofInt 64 (
        if o.form = .bi then opdInt c o.sub (srcB o o.sub)
        else if o.form = .b then opdInt c o.sub (srcB o o.sub) * (2 : Int) ^ o.rnd
        else opdInt c o.sub (srcB o o.sub) * (2 : Int) ^ o.rnd + toSigned 16 o.imm.toNat)) .b32)) := by
  refine computes_regs o.dst.toNat 2 (fun s => ?_) rfl (by simp [sigR, useDst]) (by simp [outR])
    (fun _ => placed_result64 _ _ _ _ (by decide))
  show execLea o s = _
  cases h : o.form <;> simp [execLea, h]

/-! ## Predicate instructions (R98) -/

theorem computes_predTwo {i : Instr} {o : Long} {f : Bool → Bool → Bool} (hx : ∀ s, exec i s = predTwo i o f s)
    (hi : isControl i = false) :
    Computes i { pr := [o.sa.toNat % 8, o.sb.toNat % 8], pw := [o.dst.toNat % 8] } (fun c =>
      outP (o.dst.toNat % 8) (f (predA o c.th.preds) (predB o c.th.preds))) :=
  computes_preds hx hi (by simp [outP]) (fun _ => rfl)

theorem computes_predOne {i : Instr} {o : Long} {f : Bool → Bool} (hx : ∀ s, exec i s = predOne i o f s)
    (hi : isControl i = false) :
    Computes i { pr := [o.sa.toNat % 8], pw := [o.dst.toNat % 8] } (fun c =>
      outP (o.dst.toNat % 8) (f (predA o c.th.preds))) :=
  computes_preds hx hi (by simp [outP]) (fun _ => rfl)

theorem computes_pmovSave (o : Long) :
    Computes (.pmovSave o) (sigP (useDst o.dst.toNat 1) allPreds []) (fun c =>
      outR [(o.dst.toNat, { val := predBits c.th.preds, tag := .b32 })]) :=
  computes_regs o.dst.toNat 1 (fun _ => rfl) rfl (by simp [sigP, useDst]) (by simp [outR]) (fun _ => placed_one _ _ _ (by decide))

theorem computes_pmovLoad (o : Long) :
    Computes (.pmovLoad o) { regs := useRaw 1 (srcA o), pw := allPreds } (fun c =>
      { preds := allPreds.map (fun n => (n, (opd32 c (srcA o)).getLsbD n)) }) :=
  computes_preds (fun _ => rfl) rfl (by simp [allPreds]) (fun _ => rfl)

/-! ## Predicates read and written (R19) -/

@[simp] theorem readPred_seven (p : BitVec 7) : readPred p 7 = true := rfl
@[simp] theorem writePred_seven (p : BitVec 7) (b : Bool) : writePred p 7 b = p := rfl

theorem readPred_writePred_eq {p : BitVec 7} {b : Bool} {n m : Nat} (hn : n < 7) (hm : m < 8) :
    readPred (writePred p n b) m = if m = n then b else readPred p m := by
  split
  case isTrue h => rw [h, readPred_writePred hn]
  case isFalse h => exact readPred_writePred_other (Ne.symm h) hm

/-- Settles O23: each instruction is `runAlu` with the stated writes, and p7 is apart from p0 to p6 in `readPred` and `writePred`. -/
theorem movesAndPredicates : Obligations.MovesAndPredicates := by
  refine ⟨computes_moviAi, fun o => ?_, fun p b => ⟨readPred_seven p, writePred_seven p b, fun _ _ => readPred_writePred_eq⟩⟩
  exact ⟨computes_movi o, computes_movl o, computes_lea o,
    computes_predTwo (f := (· && ·)) (fun _ => rfl) rfl, computes_predTwo (f := (· || ·)) (fun _ => rfl) rfl,
    computes_predTwo (f := xor) (fun _ => rfl) rfl, computes_predOne (f := (!·)) (fun _ => rfl) rfl,
    computes_predOne (f := id) (fun _ => rfl) rfl, computes_pmovSave o, computes_pmovLoad o⟩

end Sys2Proof.Machine
end

section
/-! The special registers and counters (O55): what `rdsr`, `wrsr` and `rdcnt` come to in each case of their effect, and the fields of
sr.gang and sr.loc. -/

namespace Sys2Proof.Machine

open Sys2Proof

/-! ## `rdsr`, `wrsr` and `rdcnt` -/

theorem srWide_iff (n : Nat) : srWide n = true ↔ n = 0x12 ∨ n = 0x15 := by simp [srWide]

theorem srWritable_iff (n : Nat) : srWritable n = true ↔ n = 0x10 ∨ n = 0x12 ∨ n = 0x15 := by simp [srWritable, or_assoc]

/-! The effect that `goes_of` and `traps_of` ask for is the one that `execRdsr` and `execWrsr` hand to `run`: the rewriting by these
equations finds it. -/

theorem exec_rdsr (o : Long) (s : State) : exec (.rdsr o) s = execRdsr o s := rfl
theorem exec_wrsr (o : Long) (s : State) : exec (.wrsr o) s = execWrsr o s := rfl

/-- Registers and the seed interlock of a `wrsr` (R141). -/
abbrev sigWrsr (o : Long) : Sig :=
  { sigR (useRaw (if srWide o.imm.toNat then 2 else 1) (srcA o)) with seedW := o.imm.toNat == 0x15 }

theorem rdsr_wide_goes {o : Long} (h : srWide o.imm.toNat = true) :
    Goes (.rdsr o) (sigR (useDst o.dst.toNat (if srWide o.imm.toNat then 2 else 1))) always (fun s uid tid c =>
      applyWrites s uid tid (outR (result64 o.dst.toNat (readSr s c.team tid c.th o.imm.toNat) .b32))) :=
  goes_of (fun s => by rw [exec_rdsr, execRdsr]) (fun _ _ _ _ _ => by simp only [h, if_true])

theorem rdsr_narrow_goes {o : Long} (h : srWide o.imm.toNat = false) :
    Goes (.rdsr o) (sigR (useDst o.dst.toNat (if srWide o.imm.toNat then 2 else 1))) always (fun s uid tid c =>
      applyWrites s uid tid (outR [(o.dst.toNat, { val := lo32 (readSr s c.team tid c.th o.imm.toNat), tag := .b32 })])) :=
  goes_of (fun s => by rw [exec_rdsr, execRdsr]) (fun _ _ _ _ _ => by simp only [h, Bool.false_eq_true, if_false, result32])

/-- TAGRLX asked for where feature bit 13 is masked (R25, log 25). -/
def ctlMasked (o : Long) (s : State) (c : Cur) : Prop :=
  (opd32 c (srcA o) &&& ctlMask).getLsbD 5 = true ∧ (effFeat s c.team.asid).getLsbD 13 = false

theorem wrsr_ctl_goes {o : Long} (h : o.imm.toNat = 0x10) : Goes (.wrsr o) (sigWrsr o) (fun s _ _ c => ¬ ctlMasked o s c)
    (fun s uid _ c => modTeam s uid (fun t => { t with ctl := opd32 c (srcA o) &&& ctlMask })) :=
  goes_of (fun s => by rw [exec_wrsr, execWrsr]) (fun s _ _ c hp => by
    have hm : ((opd32 c (srcA o) &&& ctlMask).getLsbD 5 && !(effFeat s c.team.asid).getLsbD 13) = false := by
      simpa [ctlMasked] using hp
    simp only [h, hm]; rfl)

theorem wrsr_ctl_masked_traps {o : Long} (h : o.imm.toNat = 0x10) : Traps (.wrsr o) (sigWrsr o) (fun s _ _ c => ctlMasked o s c) same
    (fun _ _ _ _ => { cause := .maskedFeature, aux := 13 }) :=
  traps_of (fun s => by rw [exec_wrsr, execWrsr]) (fun s _ _ c ⟨hv, hf⟩ => by simp only [h, hv, hf]; rfl)

theorem wrsr_hent_goes {o : Long} (h : o.imm.toNat = 0x12) :
    Goes (.wrsr o) (sigWrsr o) (fun _ _ _ c => (opd64 c (srcA o)).toNat % 4 = 0)
      (fun s uid _ c => modTeam s uid (fun t => { t with hent := opd64 c (srcA o) })) :=
  goes_of (fun s => by rw [exec_wrsr, execWrsr]) (fun _ _ _ _ hp => by simp [h, srWritable, hp])

theorem wrsr_hent_misaligned_traps {o : Long} (h : o.imm.toNat = 0x12) :
    Traps (.wrsr o) (sigWrsr o) (fun _ _ _ c => (opd64 c (srcA o)).toNat % 4 ≠ 0) same
      (fun _ _ _ c => { cause := .badTarget, addr := opd64 c (srcA o) }) :=
  traps_of (fun s => by rw [exec_wrsr, execWrsr]) (fun _ _ _ _ hp => by simp [h, srWritable, hp, same])

theorem wrsr_seed_goes {o : Long} (h : o.imm.toNat = 0x15) : Goes (.wrsr o) (sigWrsr o) always
    (fun s uid tid c => modThread s uid tid (fun th => { th with seed := opd64 c (srcA o) })) :=
  goes_of (fun s => by rw [exec_wrsr, execWrsr]) (fun _ _ _ _ _ => by simp [h, srWritable])

theorem wrsr_other_traps {o : Long} (h : srWritable o.imm.toNat = false) : Traps (.wrsr o) (sigWrsr o) always same
    (fun _ _ _ _ => { cause := .permission }) :=
  traps_of (fun s => by rw [exec_wrsr, execWrsr]) (fun _ _ _ _ _ => by simp [h, same, trapOf])

theorem rdcnt_goes (o : Long) : Goes (.rdcnt o) (sigR (useDst o.dst.toNat 2)) always (fun s uid tid c =>
    applyWrites s uid tid (outR (result64 o.dst.toNat (readCnt s c.team c.th o.imm.toNat) .b32))) :=
  goes_of (fun _ => rfl) (fun _ _ _ _ _ => rfl)

/-! ## sr.gang and sr.loc (R24) -/

/-- A field of a special register that is given as a number. -/
theorem field_ofNat {v : Nat} (hv : v < 2 ^ 64) (lo w : Nat) :
    ((BitVec.ofNat 64 v).extractLsb' lo w).toNat = v / 2 ^ lo % 2 ^ w := by
  rw [BitVec.extractLsb'_toNat, BitVec.toNat_ofNat, Nat.mod_eq_of_lt hv, Nat.shiftRight_eq_div_pow]

theorem widthCode_lt (w : Nat) : widthCode w < 4 := by
  unfold widthCode
  repeat' split
  all_goals decide

/-- The code of each width that a gang can have. -/
theorem eight_mul_two_pow_widthCode {w : Nat} (h : w = 8 ∨ w = 16 ∨ w = 32 ∨ w = 64) : 8 * 2 ^ widthCode w = w := by
  rcases h with rfl | rfl | rfl | rfl <;> rfl

theorem srGang_fields {t : Team} {th : Thread} {w : Nat} (hw : t.gangs[th.gang]?.map (·.width) = some w) (hg : th.gang < 64)
    (hp : th.gpos < 64) :
    let r := BitVec.ofNat 64 (srGang t th)
    (r.extractLsb' 14 50).toNat = 0 ∧ (r.extractLsb' 8 6).toNat = th.gang ∧ (r.extractLsb' 6 2).toNat = widthCode w ∧
      (r.extractLsb' 0 6).toNat = th.gpos := by
  have hc := widthCode_lt w
  have e : srGang t th = th.gang * 2 ^ 8 + widthCode w * 2 ^ 6 + th.gpos := by simp [srGang, hw]
  simp only [e, field_ofNat (show th.gang * 2 ^ 8 + widthCode w * 2 ^ 6 + th.gpos < 2 ^ 64 by omega)]
  omega

theorem chipId_lt (s : State) : chipId s < 16 := Nat.mod_lt _ (by decide)

theorem srLoc_fields {s : State} {t : Team} {th : Thread} (hc : teamCore t < 128) (hp : th.part < 4) (hl : th.lane < 64)
    (hs : th.slot < 32) :
    let r := BitVec.ofNat 64 (srLoc s t th)
    (r.extractLsb' 28 4).toNat = chipId s ∧ (r.extractLsb' 21 7).toNat = teamCore t ∧ (r.extractLsb' 19 2).toNat = th.part ∧
      (r.extractLsb' 13 6).toNat = th.lane ∧ (r.extractLsb' 8 5).toNat = th.slot ∧ (r.extractLsb' 0 8).toNat = 0 := by
  have hi := chipId_lt s
  have hv : srLoc s t th < 2 ^ 64 := by unfold srLoc; omega
  simp only [field_ofNat hv]
  unfold srLoc
  omega

/-- sr.gang gives the gang, its width and the position in it. -/
theorem readSr_gang {s : State} {t : Team} {tid : Nat} {th : Thread}
    (hw : t.gangs[th.gang]?.map (·.width) = some 8 ∨ t.gangs[th.gang]?.map (·.width) = some 16 ∨
      t.gangs[th.gang]?.map (·.width) = some 32 ∨ t.gangs[th.gang]?.map (·.width) = some 64)
    (hg : th.gang < 64) (hp : th.gpos < 64) :
    let r := readSr s t tid th 0x01
    (r.extractLsb' 14 50).toNat = 0 ∧ (r.extractLsb' 8 6).toNat = th.gang ∧
      t.gangs[th.gang]?.map (·.width) = some (8 * 2 ^ (r.extractLsb' 6 2).toNat) ∧ (r.extractLsb' 0 6).toNat = th.gpos := by
  obtain ⟨w, hw, h⟩ : ∃ w, t.gangs[th.gang]?.map (·.width) = some w ∧ (w = 8 ∨ w = 16 ∨ w = 32 ∨ w = 64) := by
    rcases hw with h | h | h | h <;> exact ⟨_, h, by decide⟩
  obtain ⟨hz, hgang, hcode, hpos⟩ := srGang_fields hw hg hp
  refine ⟨hz, hgang, ?_, hpos⟩
  show _ = some (8 * 2 ^ ((BitVec.ofNat 64 (srGang t th)).extractLsb' 6 2).toNat)
  rw [hcode, eight_mul_two_pow_widthCode h, hw]

/-- Settles O55: one case of the effect for each register that IMM16 can name, and the fields of sr.gang and sr.loc by place value. -/
theorem specialRegisters : Obligations.SpecialRegisters := by
  refine ⟨fun o => ⟨srWide_iff _, fun h => rdsr_wide_goes ((srWide_iff _).mpr h), fun h => rdsr_narrow_goes ?_, wrsr_ctl_goes, wrsr_ctl_masked_traps,
    wrsr_hent_goes, wrsr_hent_misaligned_traps, wrsr_seed_goes, fun h10 h => wrsr_other_traps ?_, rdcnt_goes o⟩, fun s t tid th => ?_⟩
  · exact Bool.eq_false_iff.mpr (mt (srWide_iff _).mp h)
  · exact Bool.eq_false_iff.mpr (mt (srWritable_iff _).mp (not_or.mpr ⟨h10, h⟩))
  · exact ⟨rfl, rfl, rfl, rfl, rfl, rfl, rfl, rfl, readSr_gang, srLoc_fields, rfl, rfl, rfl, rfl, rfl, rfl, rfl⟩

end Sys2Proof.Machine
end

section
/-! Short stall distances with SBCHK 0 (O11): no check of R76 reports one, what `hazardView` lets a thread read of each register and
predicate, and what `putReg` leaves of a register that a short hazard stands on. -/

namespace Sys2Proof.Machine

open Sys2Proof

/-! ## STALL_COUNT asks for SBCHK -/

/-- Of checks 7 to 9 only the short distance of an operand has this cause. -/
theorem sbChk_of_gateOperands {s : State} {t : Team} {th view : Thread} {sg : Sig} {ctr : Nat} {tr : Trap}
    (hg : gateOperands s t th view sg ctr = .trap tr) (hc : tr.cause = .stallCount) : sbChk t th = true := by
  unfold gateOperands at hg
  split at hg
  case h_1 => cases hg; cases hc
  split at hg
  case h_1 => cases hg; cases hc
  split at hg
  case isTrue => cases hg
  split at hg
  case h_1 _ _ short =>
    cases hb : sbChk t th with
    | true => rfl
    | false =>
      rw [hb, if_neg Bool.false_ne_true] at short
      cases short
  split at hg
  case h_1 => cases hg; cases hc
  case h_2 => cases hg

/-- Of all checks only the short distances of the guard and of the operands have this cause. -/
theorem sbChk_of_gate {s : State} {i : Instr} {t : Team} {th : Thread} {sg : Sig} {tr : Trap}
    (hg : gate s i t th sg = .trap tr) (hc : tr.cause = .stallCount) : sbChk t th = true := by
  unfold gate at hg
  extract_lets at hg
  split at hg
  case h_1 => cases hg; cases hc
  split at hg
  case isTrue => cases hg; cases hc
  split at hg
  case h_1 => cases hg; cases hc
  split at hg
  case isTrue => cases hg; cases hc
  split at hg
  case h_1 _ _ short =>
    cases hb : sbChk t th with
    | true => rfl
    | false =>
      rw [hb, Bool.false_and, if_neg Bool.false_ne_true] at short
      cases short
  split at hg
  case isTrue => cases hg
  split at hg
  case isTrue => cases hg
  split at hg
  case isTrue => cases hg
  case isFalse => exact sbChk_of_gateOperands hg hc

/-! ## What a thread reads under its hazards (R70) -/

/-- The thread with what stood under a hazard's producer before its write, value and tag together. -/
def readOld (th : Thread) (h : Hazard) : Thread :=
  if h.pred then { th with preds := writePred th.preds h.num (h.old.val.getLsbD 0) } else writeV th h.num h.old

/-- Each hazard leaves the view that the newer ones give, or puts the old value in it, which only a short one does. -/
theorem hazardView_cons (h : Hazard) (hs : List Hazard) (th : Thread) (ctr : Nat) :
    (hazardView (h :: hs) th ctr).1 = (hazardView hs th ctr).1 ∨
      isShort h = true ∧ (hazardView (h :: hs) th ctr).1 = readOld (hazardView hs th ctr).1 h := by
  simp only [hazardView]
  split
  · exact .inl rfl
  · next hd =>
    split
    · exact .inl rfl
    · simp only [Bool.or_eq_true, not_or, Bool.not_eq_true', Bool.not_eq_false] at hd
      exact .inr ⟨hd.1, rfl⟩

/-- What holds of the thread and survives the old value of each short hazard holds of the view. -/
theorem hazardView_induction {P : Thread → Prop} {th : Thread} (ctr : Nat) (h0 : P th) : ∀ hs : List Hazard,
    (∀ h ∈ hs, isShort h = true → ∀ x, P x → P (readOld x h)) → P (hazardView hs th ctr).1
  | [], _ => h0
  | h :: hs, step => by
    have ih := hazardView_induction ctr h0 hs fun g hg => step g (List.mem_cons_of_mem _ hg)
    rcases hazardView_cons h hs th ctr with e | ⟨short, e⟩
    · exact e ▸ ih
    · exact e ▸ step h (List.mem_cons_self ..) short _ ih

/-- A register reads as it stands or as it stood under one of the thread's short hazards on it. -/
def ReadsEither (th : Thread) (n : Nat) (r : Reg) : Prop :=
  r = readV th n ∨ ∃ h ∈ th.hazards, isShort h = true ∧ h.pred = false ∧ h.num = n ∧ r = h.old

/-- A predicate, likewise. -/
def ReadsEitherPred (th : Thread) (n : Nat) (b : Bool) : Prop :=
  b = readPred th.preds n ∨ ∃ h ∈ th.hazards, isShort h = true ∧ h.pred = true ∧ h.num = n ∧ b = h.old.val.getLsbD 0

theorem readV_viewOf (s : State) {th : Thread} {n : Nat} (hn : n < th.regs.length) : ReadsEither th n (readV (viewOf s th) n) := by
  refine (hazardView_induction (P := fun x => x.regs.length = th.regs.length ∧ ReadsEither th n (readV x n)) _
    ⟨rfl, .inl rfl⟩ th.hazards fun h hm short x ⟨hl, hx⟩ => ?_).2
  cases hp : h.pred with
  | true => rw [readOld, if_pos hp]; exact ⟨hl, hx⟩
  | false =>
    rw [readOld, if_neg (by simp [hp])]
    refine ⟨by simp [hl], ?_⟩
    by_cases e : h.num = n
    · rw [e, readV_writeV (hl ▸ hn)]
      exact .inr ⟨h, hm, short, hp, e, rfl⟩
    · rwa [readV_writeV_other e]

theorem readPred_viewOf (s : State) {th : Thread} {n : Nat} (hn : n < 7) :
    ReadsEitherPred th n (readPred (viewOf s th).preds n) := by
  refine hazardView_induction (P := fun x => ReadsEitherPred th n (readPred x.preds n)) _
    (.inl rfl) th.hazards fun h hm short x hx => ?_
  cases hp : h.pred with
  | false => rw [readOld, if_neg (by simp [hp])]; exact hx
  | true =>
    rw [readOld, if_pos hp]
    by_cases e : h.num = n
    · rw [e, readPred_writePred hn]
      exact .inr ⟨h, hm, short, hp, e, rfl⟩
    · rwa [readPred_writePred_other e (by omega)]

/-- With every distance sufficient no hazard takes part, and no free value is used. -/
theorem hazardView_sufficient (th : Thread) (ctr : Nat) : ∀ hs : List Hazard, (∀ h ∈ hs, isShort h = false) →
    hazardView hs th ctr = (th, [], ctr)
  | [], _ => rfl
  | h :: hs, hall => by
    simp only [hazardView, hall h (List.mem_cons_self ..), Bool.not_false, Bool.true_or, if_true]
    exact hazardView_sufficient th ctr hs fun g hg => hall g (List.mem_cons_of_mem _ hg)

/-! ## A register written again (R70) -/

/-- Whether a short hazard stands on the register or not, it ends with the write or as it was. -/
theorem readV_putReg {s : State} {uid tid n : Nat} {t : Team} {th : Thread} {r : Reg} (ht : getTeam s uid = some t)
    (hth : getThread t tid = some th) (hn : n < th.regs.length) :
    ∃ t' th', getTeam (putReg s uid tid n r) uid = some t' ∧ getThread t' tid = some th' ∧
      (readV th' n = r ∨ readV th' n = readV th n) := by
  have hs : withThread s t tid th s.freeCtr = s := withThread_self ht hth _
  have hw := putReg_withThread ht hth (th, s.freeCtr) (n, r)
  simp only [hs] at hw
  refine ⟨_, _, hw ▸ getTeam_withThread _ ht, getThread_setThread hth, ?_⟩
  exact (regWrites_value [(n, r)] (th, s.freeCtr) (by simp) (by simpa using hn) n r (by simp)).imp_right (·.2)

/-- Settles O11, clause by clause: STALL_COUNT asks for SBCHK, each hazard in turn leaves a register or predicate of the view or puts
the old value in it, a write under a hazard is taken or dropped, and sufficient distances take no part in the view. -/
theorem shortStallReadsEither : Obligations.ShortStallReadsEither := by
  refine ⟨fun s i t th sg h hb hg => ?_, fun s th n hn => readV_viewOf s hn, fun s th n hn _ => readPred_viewOf s hn,
    fun s uid tid n t th r ht hth hn _ => readV_putReg ht hth hn, fun s th hall => ?_⟩
  · exact Bool.false_ne_true (hb.symm.trans (sbChk_of_gate hg rfl))
  · simp only [viewOf, ctrOf, hazardView_sufficient th s.freeCtr th.hazards hall, and_self]

end Sys2Proof.Machine
end

section
/-! Traps on purpose and `nop` (O33): the fields that check 4 of R76 asks to be zero, one equation for each shape of form, and the
stall count that the end of any instruction leaves in its thread. -/

namespace Sys2Proof

/-! ## Zero fields (R61, R62, R116, R117) -/

theorem srcOk_no (k : Bool) (x : BitVec 10) : srcOk .no k x = true ↔ k = false ∧ x = 0 := by simp [srcOk]

theorem zero6_iff (m : BitVec 6) : zero6 m = true ↔ m = 0 := beq_iff_eq
theorem zero16_iff (m : BitVec 16) : zero16 m = true ↔ m = 0 := beq_iff_eq

/-- A 32-bit form is allocated whatever its fields, so only the reserved content decides (R117). -/
theorem wf_trap (o : Short) : (Instr.trap o).wf = true ↔ o.d = 0 := by
  simp [Instr.wf, Instr.allocated, Instr.reservedOk, Instr.view, Instr.shortZero]

theorem wf_bkpt (o : Short) : (Instr.bkpt o).wf = true ↔ o.d = 0 := wf_trap o

theorem wf_nopA (o : Short) : (Instr.nopA o).wf = true ↔ o.d = 0 ∧ o.s = 0 := by
  simp [Instr.wf, Instr.allocated, Instr.reservedOk, Instr.view, Instr.shortZero]

/-- The long `nop` has two rows, formats B and C with SUB 0. -/
theorem allocated_nop (o : Long) : (Instr.nop o).allocated = true ↔ (o.form = .b ∨ o.form = .c) ∧ o.sub = 0 := by
  have hsub : o.sub.toNat = 0 ↔ o.sub = 0 := BitVec.toNat_inj (y := 0)
  simp [Instr.allocated, Instr.view, rowsOf, hsub, ← or_and_right, eq_comm (b := o.form)]

/-- It uses none of its fields. -/
theorem reservedOk_nop (o : Long) : (Instr.nop o).reservedOk = ({ dst := false } : FieldUse).ok o := rfl

theorem wf_nop (o : Long) : (Instr.nop o).wf = true ↔ o.sub = 0 ∧ o.dst = 0 ∧ o.sat = false ∧ o.kc = false ∧ o.kb = false ∧
    o.ka = false ∧ o.sa = 0 ∧ (o.tail = .b 0 0 ∨ o.tail = .c false 0 0 0 0 0) := by
  rw [Instr.wf, Bool.and_eq_true, allocated_nop, reservedOk_nop]
  cases ht : o.tail with
  | b m s =>
    simp [Long.form, FieldUse.ok, ht, srcOk_no, zero6_iff, and_assoc, and_comm, and_left_comm]
  | c f m s i mb sc =>
    simp [Long.form, FieldUse.ok, ht, srcOk_no, zero6_iff, zero16_iff, and_assoc, and_comm, and_left_comm]
  | bi | cm | l => simp [Long.form, ht]

end Sys2Proof

namespace Sys2Proof.Machine

open Sys2Proof

/-! ## What the end of an instruction leaves in its thread (R68, R99) -/

@[simp] theorem settleCohort_uid (t : Team) (g c : Nat) : (settleCohort t g c).uid = t.uid := by
  unfold settleCohort
  dsimp only
  split
  case isTrue => rfl
  case isFalse => split <;> rfl

/-- Settling a cohort changes of a thread its decisions and the cohort it belongs to. -/
theorem getThread_settleCohort {t : Team} {tid : Nat} {th : Thread} (h : getThread t tid = some th) (g c : Nat) :
    ∃ p k, getThread (settleCohort t g c) tid = some { th with path := p, cohort := k } := by
  unfold settleCohort
  dsimp only
  split
  case isTrue => exact ⟨_, _, h⟩
  case isFalse =>
    split
    case h_1 => exact ⟨_, _, h⟩
    case h_2 =>
      simp only [getThread, List.getElem?_map] at h ⊢
      rw [h, Option.map_some]
      split
      case isFalse => exact ⟨_, _, rfl⟩
      case isTrue =>
        split
        case h_1 => exact ⟨_, _, rfl⟩
        case h_2 => split <;> exact ⟨_, _, rfl⟩

/-- The thread that retires is `retired`, but for the decisions and the cohort of a control instruction. -/
theorem getThread_retireAt {s : State} {uid tid : Nat} {t : Team} {th : Thread} (ht : getTeam s uid = some t)
    (hth : getThread t tid = some th) (hg : th.st ≠ .gone) (i : Instr) (sg : Sig) (wrote : Bool) (old : Thread) (pc : W64) :
    ∃ t1 p k, getTeam (retireAt s uid tid i sg wrote old pc) uid = some t1 ∧
      getThread t1 tid = some { retired i sg wrote old th pc with path := p, cohort := k } := by
  have hu := getTeam_uid ht
  simp only [retireAt, ht, hth, beq_iff_eq, hg, if_false]
  split
  case isTrue =>
    obtain ⟨p, k, h⟩ := getThread_settleCohort (getThread_setThread hth) th.gang th.cohort
    exact ⟨_, p, k, getTeam_setTeam ht (by simpa using hu), h⟩
  case isFalse => exact ⟨_, _, _, getTeam_setTeam ht (by simpa using hu), getThread_setThread hth⟩

/-- The energy and the turn concern no team. -/
theorem getTeam_ended (i : Instr) (sg : Sig) (s : State) (uid tid : Nat) (t : Team) (th : Thread) (s1 : State) (pc : W64) (u : Nat) :
    getTeam (ended i sg s uid tid t th s1 pc) u = getTeam (retireAt s1 uid tid i sg true th pc) u := by
  rw [ended, (chargeIssue_spec ..).1]
  rfl

/-- STL 0 leaves no wait; 1 to 6 hold the thread for as many cycles after its own, and the count includes its own (R68). -/
theorem advance_stall {e : Enc} (h : e.stl < 7) (sg : Sig) (wrote : Bool) (old th : Thread) (pc : W64) :
    (advance e sg wrote old th pc).stall = if e.stl = 0 then 0 else e.stl + 1 := by
  have h7 : e.stl ≠ 7 := Nat.ne_of_lt h
  simp [advance, h7]

theorem ended_stall {s : State} {uid tid : Nat} {t t1 : Team} {th th1 : Thread} {i : Instr} (hT : Turn s uid tid t th)
    (h7 : (encOf i).stl < 7) (ht1 : getTeam (ended i {} s uid tid t th s (nextPc i th)) uid = some t1)
    (hth1 : getThread t1 tid = some th1) : th1.stall = if (encOf i).stl = 0 then 0 else (encOf i).stl + 1 := by
  obtain ⟨t2, p, k, ht2, hth2⟩ :=
    getThread_retireAt hT.team hT.thread (canRun_not_gone hT.runs) i {} true th (nextPc i th)
  rw [getTeam_ended, ht2] at ht1
  cases ht1
  rw [hth2] at hth1
  cases hth1
  exact advance_stall h7 {} true th th (nextPc i th)

/-- Settles O33: the meanings are those that `run` completes, the zero fields are the equivalences above, and the stall count is
the one `ended` leaves. -/
theorem trapsAndNops : Obligations.TrapsAndNops :=
  ⟨fun o => ⟨traps_of (fun _ => rfl) (fun _ _ _ _ _ => rfl), traps_of (fun _ => rfl) (fun _ _ _ _ _ => rfl),
      goes_of (fun _ => rfl) (fun _ _ _ _ _ => rfl), wf_trap o, wf_bkpt o, wf_nopA o⟩,
    rfl, rfl, fun o => ⟨goes_of (fun _ => rfl) (fun _ _ _ _ _ => rfl), wf_nop o⟩,
    fun _ _ _ _ _ _ hT h7 _ _ => ended_stall hT h7⟩

end Sys2Proof.Machine
end

section
/-! Decoding and encoding are inverse (O2, O3): the opcode map and the decoder's tables agree for every instruction, a word is the
concatenation of its fields, and each of the four lengths is read back as it was written. -/

namespace Sys2Proof.Laws.Opcode

open Sys2Proof

/-- The opcode map and the decoder's tables agree (R77). -/
theorem statement_of : ∀ i : Instr, Statement i
  | .iaddA o => iaddA o | .iadd o => iadd o | .isubA o => isubA o | .isub o => isub o | .iaddc o => iaddc o | .isubb o => isubb o
  | .imulA o => imulA o | .imul o => imul o | .imulh o => imulh o | .imad o => imad o | .iminA o => iminA o | .imin o => imin o
  | .imaxA o => imaxA o | .imax o => imax o | .iabsA o => iabsA o | .iabs o => iabs o | .inegA o => inegA o | .ineg o => ineg o
  | .iset o => iset o | .andA o => andA o | .and o => and o | .orA o => orA o | .or o => or o | .xorA o => xorA o
  | .xor o => xor o | .andnA o => andnA o | .andn o => andn o | .notA o => notA o | .not o => not o | .shlAi o => shlAi o
  | .shl o => shl o | .shrAi o => shrAi o | .shr o => shr o | .sarAi o => sarAi o | .sar o => sar o | .rolAi o => rolAi o
  | .rol o => rol o | .rorAi o => rorAi o | .ror o => ror o | .popcA o => popcA o | .popc o => popc o | .clzA o => clzA o
  | .clz o => clz o | .ctzA o => ctzA o | .ctz o => ctz o | .brevA o => brevA o | .brev o => brev o | .bfx o => bfx o
  | .bfi o => bfi o | .prmt o => prmt o | .sel o => sel o | .movA o => movA o | .mov o => mov o | .moviAi o => moviAi o
  | .movi o => movi o | .movl o => movl o | .lea o => lea o | .pand o => pand o | .por o => por o | .pxor o => pxor o
  | .pnot o => pnot o | .pmov o => pmov o | .pmovSave o => pmovSave o | .pmovLoad o => pmovLoad o | .vote o => vote o
  | .shfl o => shfl o | .gred o => gred o | .gscan o => gscan o | .matchG o => matchG o | .elect o => elect o | .bra o => bra o
  | .brx o => brx o | .land o => land o | .call o => call o | .callx o => callx o | .ret o => ret o | .switch o => switch o
  | .reconv o => reconv o | .exit o => exit o | .tail o => tail o | .yield o => yield o | .pause o => pause o | .nopA o => nopA o
  | .nop o => nop o | .trap o => trap o | .bkpt o => bkpt o | .hret o => hret o | .faddA o => faddA o | .fadd o => fadd o
  | .fsubA o => fsubA o | .fsub o => fsub o | .fmulA o => fmulA o | .fmul o => fmul o | .ffma o => ffma o | .fminA o => fminA o
  | .fmin o => fmin o | .fmaxA o => fmaxA o | .fmax o => fmax o | .fset o => fset o | .frcpA o => frcpA o | .frcp o => frcp o
  | .frsqA o => frsqA o | .frsq o => frsq o | .fsqrtA o => fsqrtA o | .fsqrt o => fsqrt o | .fdivA o => fdivA o
  | .fdiv o => fdiv o | .fex2A o => fex2A o | .fex2 o => fex2 o | .flg2A o => flg2A o | .flg2 o => flg2 o | .fsinA o => fsinA o
  | .fsin o => fsin o | .fcosA o => fcosA o | .fcos o => fcos o | .frndA o => frndA o | .frnd o => frnd o | .ffrcA o => ffrcA o
  | .ffrc o => ffrc o | .fclassA o => fclassA o | .fclass o => fclass o | .fscale o => fscale o | .fqnt o => fqnt o
  | .fdeq o => fdeq o | .dadd o => dadd o | .dmul o => dmul o | .dfma o => dfma o | .dmin o => dmin o | .dmax o => dmax o
  | .dset o => dset o | .ddiv o => ddiv o | .dsqrt o => dsqrt o | .dfrnd o => dfrnd o | .hadd2 o => hadd2 o | .hmul2 o => hmul2 o
  | .hfma2 o => hfma2 o | .hmin2 o => hmin2 o | .hmax2 o => hmax2 o | .hset2 o => hset2 o | .cvt o => cvt o | .pack o => pack o
  | .unpk o => unpk o | .tagset o => tagset o | .tagget o => tagget o | .dot4 o => dot4 o | .dot8 o => dot8 o | .rngc o => rngc o
  | .rngf o => rngf o | .ld o => ld o | .st o => st o | .ldk o => ldk o | .pref o => pref o | .cchk o => cchk o
  | .stn4 o => stn4 o | .atom o => atom o | .cas o => cas o | .fatom o => fatom o | .red o => red o | .fence o => fence o
  | .flushIcache o => flushIcache o | .flushNear o => flushNear o | .flushWcb o => flushWcb o | .swarm o => swarm o
  | .swwait o => swwait o | .swadd o => swadd o | .swread o => swread o | .barInit o => barInit o | .barExp o => barExp o
  | .barArv o => barArv o | .barWait o => barWait o | .barSync o => barSync o | .barTest o => barTest o | .mma o => mma o
  | .mmac o => mmac o | .accrd o => accrd o | .accwr o => accwr o | .accclr o => accclr o | .accst o => accst o
  | .copy o => copy o | .copyt o => copyt o | .coll o => coll o | .sireg o => sireg o | .sidrop o => sidrop o
  | .sidropAll o => sidropAll o | .tkwait o => tkwait o | .tktest o => tktest o | .tkcancel o => tkcancel o
  | .tkdetach o => tkdetach o | .tkadopt o => tkadopt o | .tkprio o => tkprio o | .tkdepAdd o => tkdepAdd o
  | .tkdepRel o => tkdepRel o | .tkinfo o => tkinfo o | .mflip o => mflip o | .launch o => launch o | .launchTry o => launchTry o
  | .join o => join o | .joinAll o => joinAll o | .joinRng o => joinRng o | .rtsub o => rtsub o | .rtget o => rtget o
  | .rtdone o => rtdone o | .qnote o => qnote o | .dvnew o => dvnew o | .dvgrant o => dvgrant o | .dvfeat o => dvfeat o
  | .dvfrz o => dvfrz o | .dvthaw o => dvthaw o | .dvckpt o => dvckpt o | .dvrevoke o => dvrevoke o | .dvinv o => dvinv o
  | .hqbind o => hqbind o | .hqbindOff o => hqbindOff o | .hqpop o => hqpop o | .hqpopWait o => hqpopWait o | .hqret o => hqret o
  | .rdsr o => rdsr o | .wrsr o => wrsr o | .rdcnt o => rdcnt o | .teamEnd team => teamEnd team
  | .barrierStall team tid => barrierStall team tid | .starvationPreemption asid => starvationPreemption asid
  | .forcedSave core asid => forcedSave core asid | .teamPlacement grid => teamPlacement grid
  | .teamRestore team => teamRestore team | .schedulerRound => schedulerRound
  | .wcbAgeingDrain core entry => wcbAgeingDrain core entry | .tokenStart core slot => tokenStart core slot
  | .kBlockEnd core slot => kBlockEnd core slot
  | .sectorAcknowledged core slot slice sector => sectorAcknowledged core slot slice sector
  | .collChunkEnd core slot remote => collChunkEnd core slot remote | .shuffleSendPhase core slot => shuffleSendPhase core slot
  | .prismGroupTimeout port => prismGroupTimeout port | .scrub at_ bad => scrub at_ bad
  | .flitReceive port f => flitReceive port f | .lossOfLock port => lossOfLock port
  | .linkRetrain port peer => linkRetrain port peer | .wrPacket port p => wrPacket port p | .rdPacket port p => rdPacket port p
  | .rrPacket port p => rrPacket port p | .atPacket port p => atPacket port p | .arPacket port p => arPacket port p
  | .ackPacket port p => ackPacket port p | .csbPacket port p => csbPacket port p | .usbPacket port p => usbPacket port p
  | .rsdPacket port p => rsdPacket port p | .havePacket port p => havePacket port p | .sackPacket port p => sackPacket port p
  | .ctlPacket port p => ctlPacket port p | .replyReservationTimeout core seq => replyReservationTimeout core seq
  | .pathHoldTimeout peer => pathHoldTimeout peer | .dbell fn data => dbell fn data
  | .queueRead asid queue => queueRead asid queue | .atsTranslationCompletion rq rd wr => atsTranslationCompletion rq rd wr
  | .pageRequestResponse fn index code => pageRequestResponse fn index code
  | .atsInvalidateRequest rq pages => atsInvalidateRequest rq pages | .nresp port data => nresp port data
  | .s0invgo port data => s0invgo port data | .nrctl port data => nrctl port data
  | .functionLevelReset vf => functionLevelReset vf | .hostMemoryAccess acc => hostMemoryAccess acc
  | .semaphoreTake port n lease => semaphoreTake port n lease | .semaphoreRelease port n => semaphoreRelease port n
  | .semaphoreLeaseExpiry n => semaphoreLeaseExpiry n | .flashWindowWrite port obj off data => flashWindowWrite port obj off data
  | .bootctlClr port => bootctlClr port | .bootctlRst port both => bootctlRst port both | .start r => start r | .wdog => wdog
  | .pcieFundamentalReset => pcieFundamentalReset | .sidebandReset => sidebandReset | .standbyPowerRemoval => standbyPowerRemoval
  | .checkpointSave port data => checkpointSave port data | .checkpointRestore port data => checkpointRestore port data
  | .checkpointThaw port data => checkpointThaw port data | .getVersion port => getVersion port
  | .getCapabilities port => getCapabilities port | .negotiateAlgorithms port sig hash => negotiateAlgorithms port sig hash
  | .getDigests port => getDigests port | .getCertificate port slot off len => getCertificate port slot off len
  | .challenge port slot nonce => challenge port slot nonce
  | .getMeasurements port index nonce => getMeasurements port index nonce
  | .powerLimitInterval watts celsius => powerLimitInterval watts celsius | .thermalTrip => thermalTrip
  | .registerWrite port off data => registerWrite port off data
  | .pendingWriteCompletion team tid => pendingWriteCompletion team tid | .accessPerformed core idx => accessPerformed core idx
  | .cycleCharge => cycleCharge | .revokeDrainDeadline asid => revokeDrainDeadline asid
  | .tierPortLost expander n => tierPortLost expander n | .powerLoss standby => powerLoss standby
  | .noticeRingTail port data => noticeRingTail port data

end Sys2Proof.Laws.Opcode

namespace Sys2Proof.Laws

open Sys2Proof

/-! ## Encoded words decode (R56 to R59) -/

/-- What the opcode map and the decoder's table say of an allocated longer form. -/
structure LongEntry (i : Instr) (opc : Nat) (o : Long) : Prop where
  opcode : opc < 256
  read   : longInstr opc o = some i
  cm     : o.form = .cm → isCm opc = true
  c      : o.form = .c → isCm opc = false

theorem short_entry {i : Instr} {opc lat : Nat} {o : Short} (hv : i.view = .short opc lat o) :
    opc < 256 ∧ shortInstr opc o = some i := by
  have h := Opcode.statement_of i
  rwa [Opcode.Statement, hv] at h

theorem long_entry {i : Instr} {opc lat : Nat} {rows : List (Form × List Nat)} {o : Long} (hv : i.view = .long opc lat rows o)
    (ha : i.allocated = true) : LongEntry i opc o := by
  have h := Opcode.statement_of i
  rw [Opcode.Statement, hv] at h
  obtain ⟨hopc, hrest⟩ := h
  obtain ⟨hread, hcm, hc⟩ := hrest ha
  exact ⟨hopc, hread, hcm, hc⟩

theorem toNat_opcode {opc : Nat} (h : opc < 256) : (BitVec.ofNat 8 opc).toNat = opc := by
  rw [BitVec.toNat_ofNat, Nat.mod_eq_of_lt h]

theorem decode_shortWord {i : Instr} {opc lat : Nat} {o : Short} (hv : i.view = .short opc lat o) (ha : i.allocated = true)
    (rest : List W32) : decode (shortWord opc o :: rest) = .ok (i, rest) := by
  obtain ⟨hopc, hread⟩ := short_entry hv
  rw [decode_len0 _ _ (shortWord_len opc o), shortWord_opc, toNat_opcode hopc, shortWord_fields, hread, wellRead_ok i rest ha]

theorem decode_longWords {i : Instr} {opc : Nat} {o : Long} (h : LongEntry i opc o) (ha : i.allocated = true) (rest : List W32) :
    decode (longWords opc o ++ rest) = .ok (i, rest) := by
  obtain ⟨hopc, hread, hcm, hc⟩ := h
  have hop : ∀ l, (opcOf (word0 opc l o)).toNat = opc := fun l => by rw [word0_opc, toNat_opcode hopc]
  unfold longWords
  cases ht : o.tail with
  | b m s =>
    exact (decode_len1 _ _ _ (word0_len opc 1 o)).trans (by rw [hop, tail64_b, words_fields, ← ht, hread]; exact wellRead_ok i rest ha)
  | bi m =>
    exact (decode_len1 _ _ _ (word0_len opc 1 o)).trans (by rw [hop, tail64_bi, words_fields, ← ht, hread]; exact wellRead_ok i rest ha)
  | c f m s j mb sc =>
    have hno : isCm opc = false := hc (by rw [Long.form, ht])
    exact (decode_len2 _ _ _ _ (word0_len opc 2 o)).trans
      (by rw [hop, hno, tail96_c, words_fields, ← ht, hread]; exact wellRead_ok i rest ha)
  | cm f m s off =>
    have hyes : isCm opc = true := hcm (by rw [Long.form, ht])
    exact (decode_len2 _ _ _ _ (word0_len opc 2 o)).trans
      (by rw [hop, hyes, tail96_cm, words_fields, ← ht, hread]; exact wellRead_ok i rest ha)
  | l f m s j mb sc v =>
    exact (decode_len3 _ _ _ _ _ _ (word0_len opc 3 o)).trans
      (by rw [hop, tail160_l, words_fields, ← ht, hread]; exact wellRead_ok i rest ha)

/-- Settles O2: the words of either shape are read back, and an event has no words. -/
theorem decodeOfEncode : Obligations.DecodeOfEncode := by
  intro i ws rest ha he
  unfold encode at he
  cases hv : i.view with
  | short opc lat o =>
    rw [hv, Option.some.injEq] at he
    exact he ▸ decode_shortWord hv ha rest
  | long opc lat rows o =>
    rw [hv, Option.some.injEq] at he
    exact he ▸ decode_longWords (long_entry hv ha) ha rest
  | event => rw [hv] at he; cases he

/-! ## A word is the concatenation of its fields (R57, R58) -/

/-- One bit, as the field it is. -/
theorem ofBool_getLsbD {n : Nat} (w : BitVec n) (k : Nat) : BitVec.ofBool (w.getLsbD k) = w.extractLsb' k 1 := by
  refine BitVec.eq_of_getLsbD_eq fun j hj => ?_
  obtain rfl : j = 0 := by omega
  simp

/-- Adjacent fields join to one field. -/
theorem join_fields {n : Nat} (w : BitVec n) {k l a b : Nat} (h : a = k + l) :
    w.extractLsb' a b ++ w.extractLsb' k l = w.extractLsb' k (b + l) := BitVec.extractLsb'_append_extractLsb'_eq_extractLsb' h

theorem shortWord_shortFields {w : W32} (hl : w.extractLsb' 0 2 = 0#2) : shortWord (opcOf w).toNat (shortFields w) = w := by
  rw [shortWord, BitVec.ofNat_toNat, BitVec.setWidth_eq, ← hl]
  simp (disch := rfl) only [shortFields, opcOf, join_fields]
  exact BitVec.extractLsb'_eq_self

theorem word0_longFields {w0 : W32} {l : BitVec 2} (hl : w0.extractLsb' 0 2 = l) (w1 : W32) (t : Tail) :
    word0 (opcOf w0).toNat l (longFields w0 w1 t) = w0 := by
  rw [word0, BitVec.ofNat_toNat, BitVec.setWidth_eq, ← hl]
  simp (disch := rfl) only [longFields, opcOf, join_fields]
  exact BitVec.extractLsb'_eq_self

theorem word1_longFields {w1 : W32} {f : Bool} {m : BitVec 16} (hf : w1.getLsbD 30 = f) (hm : w1.extractLsb' 10 16 = m) (w0 : W32)
    (t : Tail) : word1 f m (longFields w0 w1 t) = w1 := by
  subst hf hm
  simp (disch := rfl) only [word1, longFields, ofBool_getLsbD, join_fields]
  exact BitVec.extractLsb'_eq_self

theorem word1_fields_mid (w0 w1 : W32) (t : Tail) :
    word1 (w1.getLsbD 30) (w1.extractLsb' 20 6 ++ w1.extractLsb' 10 10) (longFields w0 w1 t) = w1 :=
  word1_longFields rfl (join_fields w1 (k := 10) (l := 10) rfl).symm w0 t

theorem word2_fields (w : W32) : w.extractLsb' 16 16 ++ w.extractLsb' 10 6 ++ w.extractLsb' 0 10 = w := by
  simp (disch := rfl) only [join_fields]
  exact BitVec.extractLsb'_eq_self

theorem lo32_append (a b : W32) : lo32 (a ++ b) = b := BitVec.extractLsb'_append_eq_right
theorem hi32_append (a b : W32) : hi32 (a ++ b) = a := BitVec.extractLsb'_append_eq_left

/-! ## What decodes is the words read -/

/-- A candidate that stands is allocated. -/
theorem of_wellRead {c : Option Instr} {r rest : List W32} {i : Instr} (h : (wellRead c).map (fun i => (i, r)) = .ok (i, rest)) :
    c = some i ∧ i.allocated = true ∧ rest = r := by
  unfold wellRead at h
  cases c with
  | none => cases h
  | some j =>
    cases ha : j.allocated with
    | false => simp only [ha] at h; cases h
    | true => simp only [ha] at h; cases h; exact ⟨rfl, ha, rfl⟩

/-- The encoding of what the long table answers. -/
theorem encode_longInstr {opc : Nat} {o : Long} {i : Instr} (h : longInstr opc o = some i) : encode i = some (longWords opc o) := by
  obtain ⟨_, _, hv⟩ := long_view opc o i h
  rw [encode, hv]

/-- A longer form is the words read wherever its tail's words are. -/
theorem encodes_long {w0 w1 : W32} {t : Tail} {ws r rest : List W32} {i : Instr}
    (h : (wellRead (longInstr (opcOf w0).toNat (longFields w0 w1 t))).map (fun i => (i, r)) = .ok (i, rest))
    (hw : longWords (opcOf w0).toNat (longFields w0 w1 t) = ws) :
    i.allocated = true ∧ ∃ e, encode i = some e ∧ ws ++ r = e ++ rest := by
  obtain ⟨hi, ha, rfl⟩ := of_wellRead h
  exact ⟨ha, ws, hw ▸ encode_longInstr hi, rfl⟩

theorem longWords_tail64 {w0 : W32} (hl : w0.extractLsb' 0 2 = 1) (w1 : W32) :
    longWords (opcOf w0).toNat (longFields w0 w1 (tail64 w1)) = [w0, w1] := by
  cases hf : w1.getLsbD 30 with
  | true =>
    have ht : tail64 w1 = .bi (w1.extractLsb' 10 16) := by simp only [tail64, hf, if_true]
    rw [ht]
    exact congr (congrArg (fun a b => [a, b]) (word0_longFields hl w1 _)) (word1_longFields hf rfl w0 _)
  | false =>
    have ht : tail64 w1 = .b (w1.extractLsb' 20 6) (w1.extractLsb' 10 10) := by simp only [tail64, hf, Bool.false_eq_true, if_false]
    rw [ht]
    exact congr (congrArg (fun a b => [a, b]) (word0_longFields hl w1 _)) (hf ▸ word1_fields_mid w0 w1 _)

theorem longWords_tail96 {w0 : W32} (hl : w0.extractLsb' 0 2 = 2) (cm : Bool) (w1 w2 : W32) :
    longWords (opcOf w0).toNat (longFields w0 w1 (tail96 cm w1 w2)) = [w0, w1, w2] := by
  cases cm with
  | true => exact congr (congrArg (fun a b => [a, b, w2]) (word0_longFields hl w1 _)) (word1_fields_mid w0 w1 _)
  | false =>
    show [word0 _ 2 _, word1 _ _ _, _] = _
    rw [word0_longFields hl, word1_fields_mid, word2_fields]

theorem longWords_tail160 {w0 : W32} (hl : w0.extractLsb' 0 2 = 3) (w1 w2 w3 w4 : W32) :
    longWords (opcOf w0).toNat (longFields w0 w1 (tail160 w1 w2 w3 w4)) = [w0, w1, w2, w3, w4] := by
  show [word0 _ 3 _, word1 _ _ _, _, lo32 (w4 ++ w3), hi32 (w4 ++ w3)] = _
  rw [word0_longFields hl, word1_fields_mid, word2_fields, lo32_append, hi32_append]

/-- The length that LEN gives. -/
theorem len_of_toNat {w : W32} {n : Nat} (h : (w.extractLsb' 0 2).toNat = n) : w.extractLsb' 0 2 = BitVec.ofNat 2 n := by
  rw [← h, BitVec.ofNat_toNat, BitVec.setWidth_eq]

/-- Settles O3: the branches of the decoder by LEN, each with the words of its form. -/
theorem encodeOfDecode : Obligations.EncodeOfDecode := by
  intro ws rest i h
  unfold decode at h
  split at h
  case h_1 => cases h
  case h_2 w0 r =>
    dsimp only at h
    split at h
    case h_1 hl =>
      obtain ⟨hi, ha, rfl⟩ := of_wellRead h
      obtain ⟨_, hv⟩ := short_view _ _ i hi
      refine ⟨ha, [w0], ?_, rfl⟩
      rw [encode, hv]
      exact congrArg (fun w => some [w]) (shortWord_shortFields (len_of_toNat hl))
    case h_2 hl => exact encodes_long h (longWords_tail64 (len_of_toNat hl) _)
    case h_3 hl => exact encodes_long h (longWords_tail96 (len_of_toNat hl) _ _ _)
    case h_4 hl => exact encodes_long h (longWords_tail160 (len_of_toNat hl) _ _ _ _)
    case h_5 => cases h

end Sys2Proof.Laws
end

section
/-! The checks of R76 (O5, O8, O9, O10) and the end of an instruction in its thread (O12): one equation of `gate` for each check that
fails, given that those before it pass, and what `run`, `runGang` and `runTeam` do with a trap or a skip. -/

namespace Sys2Proof.Machine

open Sys2Proof

/-! ## Words that hold no instruction (R77, R78) -/

theorem shortInstr_none {opc : Nat} (h : opc = 0 ∨ 0xFC ≤ opc) (hb : opc < 256) (o : Short) : shortInstr opc o = none := by
  obtain rfl | rfl | rfl | rfl | rfl : opc = 0 ∨ opc = 252 ∨ opc = 253 ∨ opc = 254 ∨ opc = 255 := by omega
  all_goals rfl

theorem longInstr_none {opc : Nat} (h : opc = 0 ∨ 0xFC ≤ opc) (hb : opc < 256) (o : Long) : longInstr opc o = none := by
  obtain rfl | rfl | rfl | rfl | rfl : opc = 0 ∨ opc = 252 ∨ opc = 253 ∨ opc = 254 ∨ opc = 255 := by omega
  all_goals rfl

theorem decode_unlisted {w0 : W32} (h : (opcOf w0).toNat = 0 ∨ 0xFC ≤ (opcOf w0).toNat) (r : List W32) :
    ∃ e, decode (w0 :: r) = .error e := by
  have hb : (opcOf w0).toNat < 256 := (opcOf w0).isLt
  simp only [decode, shortInstr_none h hb, longInstr_none h hb]
  split <;> exact ⟨_, rfl⟩

theorem illegalTrap_of_no_landing {th : Thread} (h : th.landing = none) : illegalTrap th = { cause := .illegalOpc } := by
  simp only [illegalTrap, landingMissed, h, trapOf]

/-- Settles O5: no table has an entry for these opcodes, and words that decode to nothing come to the trap of `issueWords`. -/
theorem unlistedOpcodesAreIllegal : Obligations.UnlistedOpcodesAreIllegal := by
  refine ⟨fun ws w0 r hw h => hw ▸ decode_unlisted h r, fun s uid tid t th ws e hd hl => ?_⟩
  rw [issueWords, hd, illegalTrap_of_no_landing hl]

/-! ## The first failing check (R76) -/

/-- One of several is taken (log 26). -/
theorem oneOf_mem {α : Type} (ctr : Nat) {l : List α} (h : l ≠ []) : ∃ x ∈ l, oneOf ctr l = some x := by
  have hlt : Config.pick ctr % l.length < l.length := Nat.mod_lt _ (List.length_pos_iff.mpr h)
  exact ⟨_, List.getElem_mem hlt, List.getElem?_eq_getElem hlt⟩

/-- The masked feature bits of an instruction. -/
def maskedBits (s : State) (t : Team) (i : Instr) : List Nat := i.features.filter (fun b => !(effFeat s t.asid).getLsbD b)

theorem mem_maskedBits {s : State} {t : Team} {i : Instr} {b : Nat} :
    b ∈ maskedBits s t i ↔ b ∈ i.features ∧ (effFeat s t.asid).getLsbD b = false := by simp [maskedBits]

theorem maskedBits_nil {s : State} {t : Team} {i : Instr} (h : ∀ b ∈ i.features, (effFeat s t.asid).getLsbD b = true) :
    maskedBits s t i = [] := List.filter_eq_nil_iff.mpr fun b hb => by simp [h b hb]

section
variable {s : State} {i : Instr} {t : Team} {th : Thread}

theorem gate_landing {a : W64} (hl : landingFails i th = some a) (sg : Sig) :
    gate s i t th sg = .trap { cause := .badTarget, addr := a, lnd := true } := by
  simp only [gate, hl]

theorem gate_unallocated (hl : landingFails i th = none) (ha : i.allocated = false) (sg : Sig) :
    gate s i t th sg = .trap { cause := .illegalOpc } := by
  simp only [gate, hl, ha, Bool.not_false, if_true]; rfl

theorem gate_masked (hl : landingFails i th = none) (ha : i.allocated = true)
    (hf : ∃ b ∈ i.features, (effFeat s t.asid).getLsbD b = false) :
    ∃ b ∈ i.features, (effFeat s t.asid).getLsbD b = false ∧ ∀ sg, gate s i t th sg = .trap { cause := .maskedFeature, aux := b } := by
  obtain ⟨b, hb, hm⟩ := hf
  obtain ⟨c, hc, ho⟩ := oneOf_mem s.freeCtr (List.ne_nil_of_mem (mem_maskedBits.mpr ⟨hb, hm⟩))
  obtain ⟨hc, hcm⟩ := mem_maskedBits.mp hc
  refine ⟨c, hc, hcm, fun sg => ?_⟩
  rw [maskedBits] at ho
  simp only [gate, hl, ha, ho, Bool.not_true, Bool.false_eq_true, if_false]

theorem gate_reserved (hl : landingFails i th = none) (ha : i.allocated = true)
    (hf : ∀ b ∈ i.features, (effFeat s t.asid).getLsbD b = true) (hr : i.reservedOk = false) (sg : Sig) :
    gate s i t th sg = .trap { cause := .reservedField } := by
  have hm : i.features.filter (fun b => !(effFeat s t.asid).getLsbD b) = [] := maskedBits_nil hf
  simp only [gate, hl, ha, hm, hr, oneOf_nil, Bool.not_true, Bool.not_false, Bool.false_eq_true, if_false, if_true]; rfl

/-- With checks 2 to 4 passed, the stall distance of the guard predicate comes next. -/
theorem gate_admitted (h : Admitted i s t th) (sg : Sig) : gate s i t th sg =
    (match (if sbChk t th && (encOf i).grd != 7 then oneOf s.freeCtr (shortOn th [] [(encOf i).grd]) else none) with
      | some h => .trap (stallTrap h)
      | none =>
        if (encOf i).grd != 7 && interlocked th [] [(encOf i).grd] then .hold
        else if !guardHolds (viewOf s th).preds (encOf i).grd (encOf i).gneg then .skip
        else if seedHeld i th then .hold
        else gateOperands s t th (viewOf s th) sg (ctrOf s th)) := by
  have hm : i.features.filter (fun b => !(effFeat s t.asid).getLsbD b) = [] := maskedBits_nil h.features
  simp only [gate, h.landing, h.form, hm, h.fields, oneOf_nil, Bool.not_true, Bool.false_eq_true, if_false] <;> rfl

theorem gate_guardStall (h : Admitted i s t th) (hc : sbChk t th = true) (hg : (encOf i).grd ≠ 7)
    (hs : shortOn th [] [(encOf i).grd] ≠ []) (sg : Sig) :
    ∃ h ∈ shortOn th [] [(encOf i).grd], gate s i t th sg = .trap (stallTrap h) := by
  obtain ⟨x, hx, ho⟩ := oneOf_mem s.freeCtr hs
  refine ⟨x, hx, ?_⟩
  rw [gate_admitted h, if_pos (by simp [hc, hg]), ho]

/-- With checks 5 and 6 passed, the guard decides. -/
theorem gate_ready (h : Admitted i s t th) (hr : GuardReady i t th) (sg : Sig) : gate s i t th sg =
    (if !guardHolds (viewOf s th).preds (encOf i).grd (encOf i).gneg then .skip
      else if seedHeld i th then .hold
      else gateOperands s t th (viewOf s th) sg (ctrOf s th)) := by
  have hn : (if sbChk t th && (encOf i).grd != 7 then oneOf s.freeCtr (shortOn th [] [(encOf i).grd]) else none) = none := by
    split
    case isTrue hc =>
      simp only [Bool.and_eq_true, bne_iff_ne] at hc
      rw [hr.stall hc.1 hc.2, oneOf_nil]
    case isFalse => rfl
  have hi : ((encOf i).grd != 7 && interlocked th [] [(encOf i).grd]) = false := by
    rw [Bool.and_eq_false_iff, bne_eq_false_iff_eq]
    exact (Classical.em _).imp_right hr.free
  rw [gate_admitted h, hn, hi, if_neg Bool.false_ne_true]

theorem gate_skip (h : Admitted i s t th) (hr : GuardReady i t th)
    (hg : guardHolds (viewOf s th).preds (encOf i).grd (encOf i).gneg = false) (sg : Sig) : gate s i t th sg = .skip := by
  rw [gate_ready h hr, hg]; rfl

theorem gate_seed (h : Admitted i s t th) (hr : GuardReady i t th)
    (hg : guardHolds (viewOf s th).preds (encOf i).grd (encOf i).gneg = true) (hs : seedHeld i th = true) (sg : Sig) :
    gate s i t th sg = .hold := by
  rw [gate_ready h hr, hg, hs]; rfl

/-- A thread whose guard holds comes to the checks of its operands. -/
theorem gate_operands (h : Admitted i s t th) (hr : GuardReady i t th)
    (hg : guardHolds (viewOf s th).preds (encOf i).grd (encOf i).gneg = true) (hs : seedHeld i th = false) (sg : Sig) :
    gate s i t th sg = gateOperands s t th (viewOf s th) sg (ctrOf s th) := by
  rw [gate_ready h hr, hg, hs]; rfl

variable {view : Thread} {sg : Sig} {ctr : Nat}

theorem gateOperands_badReg (hw : reticlePc s t th = none) (hb : badReg th sg.regs ≠ []) :
    ∃ n ∈ badReg th sg.regs, gateOperands s t th view sg ctr = .trap { cause := .reservedField, aux := n * 2 ^ 80 } := by
  obtain ⟨n, hn, ho⟩ := oneOf_mem ctr hb
  exact ⟨n, hn, by simp only [gateOperands, hw, ho]⟩

theorem gateOperands_interlocked (hw : reticlePc s t th = none) (hb : badReg th sg.regs = [])
    (hi : interlocked th sg.regs (sg.pr ++ sg.pw) = true) : gateOperands s t th view sg ctr = .hold := by
  simp only [gateOperands, hw, hb, oneOf_nil, hi, if_true]

theorem gateOperands_stall (hw : reticlePc s t th = none) (hb : badReg th sg.regs = [])
    (hi : interlocked th sg.regs (sg.pr ++ sg.pw) = false) (hc : sbChk t th = true)
    (hs : shortOn th sg.regs (sg.pr ++ sg.pw) ≠ []) :
    ∃ h ∈ shortOn th sg.regs (sg.pr ++ sg.pw), gateOperands s t th view sg ctr = .trap (stallTrap h) := by
  obtain ⟨x, hx, ho⟩ := oneOf_mem ctr hs
  exact ⟨x, hx, by simp only [gateOperands, hw, hb, oneOf_nil, hi, hc, ho, Bool.false_eq_true, if_false, if_true]⟩

theorem gateOperands_badTag (hw : reticlePc s t th = none) (hb : badReg th sg.regs = [])
    (hi : interlocked th sg.regs (sg.pr ++ sg.pw) = false) (hc : sbChk t th = true → shortOn th sg.regs (sg.pr ++ sg.pw) = [])
    (hr : tagRlx t th = false) (ht : badTag view sg.regs ≠ []) :
    ∃ p ∈ badTag view sg.regs, gateOperands s t th view sg ctr =
      .trap { cause := .tagMismatch, aux := p.1 + tagCode p.2.1 * 2 ^ 10 + tagCode p.2.2 * 2 ^ 14 } := by
  obtain ⟨p, hp, ho⟩ := oneOf_mem ctr ht
  have hn : (if sbChk t th then oneOf ctr (shortOn th sg.regs (sg.pr ++ sg.pw)) else none) = none := by
    split
    case isTrue h => rw [hc h, oneOf_nil]
    case isFalse => rfl
  exact ⟨p, hp, by simp only [gateOperands, hw, hb, oneOf_nil, hi, hn, hr, ho, Bool.false_eq_true, if_false]⟩

end

/-- Settles O8, check by check. -/
theorem checkOrder : Obligations.CheckOrder := by
  intro s i t th sg
  refine ⟨fun a hl => gate_landing hl sg, fun hl ha => gate_unallocated hl ha sg, fun hl ha hf => ?_,
    fun hl ha hf hr => gate_reserved hl ha hf hr sg, fun h hc hg hs => gate_guardStall h hc hg hs sg,
    fun h hr hg => gate_skip h hr hg sg, fun h hr hg hs => gate_seed h hr hg hs sg, fun h hr hg hs hw hb => ?_,
    fun h hr hg hs hw hb hi => ?_, fun h hr hg hs hw hb hi hc hd => ?_, fun h hr hg hs hw hb hi hc hx ht => ?_⟩
  · obtain ⟨b, hb, hm, hx⟩ := gate_masked hl ha hf
    exact ⟨b, hb, hm, hx sg⟩
  · exact gate_operands h hr hg hs sg ▸ gateOperands_badReg hw hb
  · exact gate_operands h hr hg hs sg ▸ gateOperands_interlocked hw hb hi
  · exact gate_operands h hr hg hs sg ▸ gateOperands_stall hw hb hi hc hd
  · exact gate_operands h hr hg hs sg ▸ gateOperands_badTag hw hb hi hc hx ht

/-! ## What every instruction does with a failing check -/

section
variable {i : Instr} {s : State} {uid tid : Nat} {t : Team} {th : Thread} {sg : Sig}

theorem issue_of_turn (hT : Turn s uid tid t th) : ∃ r, s.issue = (uid, tid) :: r := by
  obtain ⟨hhead, -, -, -⟩ := hT
  match hs : s.issue, hhead with
  | _ :: r, hhead => cases hhead; exact ⟨r, rfl⟩

theorem run_of_gate_trap (hT : Turn s uid tid t th) {tr : Trap} (hg : gate s i t th sg = .trap tr)
    (eff : State → Nat → Nat → Cur → Act) : run i sg eff s = .next (trapped i t th uid tid (nextFree s) tr) := by
  obtain ⟨r, hs⟩ := issue_of_turn hT
  simp only [run, hs, hT.team, hT.thread, hT.runs, hg, Bool.not_true, Bool.false_eq_true, if_false] <;> rfl

theorem runGang_of_gate_trap (hT : Turn s uid tid t th) {tr : Trap} (hg : gate s i t th sg = .trap tr)
    (f : List Part → Part → Writes) : runGang i sg f s = .next (trapped i t th uid tid (nextFree s) tr) := by
  obtain ⟨r, hs⟩ := issue_of_turn hT
  simp only [runGang, hs, hT.team, hT.thread, hT.runs, hg, Bool.not_true, Bool.false_eq_true, if_false] <;> rfl

theorem runTeam_of_gate_trap (hT : Turn s uid tid t th) {tr : Trap} (hg : gate s i t th sg = .trap tr)
    (eff : State → Nat → List Part → Part → Act) : runTeam i sg eff s = .next (trapped i t th uid tid (nextFree s) tr) := by
  obtain ⟨r, hs⟩ := issue_of_turn hT
  simp only [runTeam, hs, hT.team, hT.thread, hT.runs, hg, Bool.not_true, Bool.false_eq_true, if_false] <;> rfl

/-- A check that fails whatever the operands gives every instruction its trap. -/
theorem exec_of_gate_trap (he : (encode i).isSome = true) (hT : Turn s uid tid t th) {tr : Trap}
    (hg : ∀ sg, gate s i t th sg = .trap tr) : exec i s = .next (trapped i t th uid tid (nextFree s) tr) := by
  by_cases ha : actsAlone i = true
  case pos =>
    exact exec_alone i s (· = _) he ha fun sg eff => run_of_gate_trap hT (hg sg) eff
  case neg =>
    have gang := exec_gang i s (· = .next (trapped i t th uid tid (nextFree s) tr)) fun sg f => runGang_of_gate_trap hT (hg sg) f
    cases i
    case vote | shfl | gred | gscan | matchG | elect => exact gang
    case copy o => exact (exec_team o s (· = _)).1 fun sg f => runTeam_of_gate_trap hT (hg sg) f
    case copyt o => exact (exec_team o s (· = _)).2 fun sg f => runTeam_of_gate_trap hT (hg sg) f
    all_goals exact absurd rfl ha

end

/-- Settles O9: the four checks of the encoding do not depend on the operands, so `exec` takes their traps for every instruction. -/
theorem encodingChecksTrap : Obligations.EncodingChecksTrap := by
  intro i s uid tid t th he hT
  refine ⟨fun a hl => exec_of_gate_trap he hT (gate_landing hl), fun hl ha => exec_of_gate_trap he hT (gate_unallocated hl ha),
    fun hl ha hf => ?_, fun hl ha hf hr => exec_of_gate_trap he hT (gate_reserved hl ha hf hr)⟩
  obtain ⟨b, hb, hm, hg⟩ := gate_masked hl ha hf
  exact ⟨b, hb, hm, exec_of_gate_trap he hT hg⟩

/-! ## A false guard (R60) -/

theorem run_of_gate_skip {i : Instr} {s : State} {uid tid : Nat} {t : Team} {th : Thread} {sg : Sig} (hT : Turn s uid tid t th)
    (hg : gate s i t th sg = .skip) (eff : State → Nat → Nat → Cur → Act) :
    run i sg eff s = .next (popIssue (chargeIssue i t.asid th (retireAt s uid tid i {} false th (nextPc i th)))) := by
  obtain ⟨r, hs⟩ := issue_of_turn hT
  simp only [run, hs, hT.team, hT.thread, hT.runs, hg, Bool.not_true, Bool.false_eq_true, if_false] <;> rfl

/-- Settles O10: `run` answers a skip with the thread's end alone, which is the end after no writes. -/
theorem falseGuardDoesNothing : Obligations.FalseGuardDoesNothing := by
  intro i s uid tid t th he ha hT hadm hr hg
  have hx : exec i s = .next (popIssue (chargeIssue i t.asid th (retireAt s uid tid i {} false th (nextPc i th)))) :=
    exec_alone i s (· = _) he ha fun sg eff => run_of_gate_skip hT (gate_skip hadm hr hg sg) eff
  exact ⟨hx, fun hi => ⟨_, hx, wrote_after hT hi {} false s.freeCtr {} (by simp) (by simp) (by simp)⟩⟩

/-! ## Stall distances (R68, R69) -/

section
variable {e : Enc} {sg : Sig} {old th : Thread} {pc : W64}

theorem advance_drains (h : e.stl = 7) (wrote : Bool) :
    (advance e sg wrote old th pc).hazards = [] ∧ (advance e sg wrote old th pc).stall = 0 := by
  simp [advance, newHazards, h]

/-- An earlier producer's distance grows, and it stays while its latency is not reached. -/
theorem mem_advance_hazards (h7 : e.stl < 7) (wrote : Bool) {h : Hazard} (hm : h ∈ th.hazards) (hl : h.dist + 1 + e.stl < h.lat) :
    ({ h with dist := h.dist + 1 + e.stl } : Hazard) ∈ (advance e sg wrote old th pc).hazards := by
  have hne : (e.stl == 7) = false := by simp; omega
  simp only [advance, hne, Bool.false_eq_true, if_false]
  refine List.mem_append_left _ (List.mem_filter.mpr ⟨List.mem_map_of_mem hm, ?_⟩)
  simpa [isShort] using hl

/-- A fixed-latency instruction leaves a hazard on each register it writes. -/
theorem mem_advance_newHazard (h7 : e.stl < 7) (hl : e.stl + 1 < e.lat) {n : Nat} (hn : n ∈ writtenRegs sg) :
    ({ pred := false, num := n, old := readV old n, dist := e.stl + 1, lat := e.lat } : Hazard) ∈
      (advance e sg true old th pc).hazards := by
  have hno : (e.lat == 0 || e.stl == 7 || decide (e.stl + 1 ≥ e.lat)) = false := by simp; omega
  simp only [advance, newHazards, hno, Bool.false_eq_true, if_false, if_true]
  exact List.mem_append_right _ (List.mem_append_left _ (List.mem_map_of_mem hn))

/-- The writes of a variable-latency instruction are interlocked. -/
theorem advance_pending (hl : e.lat = 0) : (advance e sg true old th pc).pending =
    th.pending ++ ((writtenRegs sg).map Pending.v ++ (writtenPreds sg).map Pending.p ++ (if sg.seedW then [.seed] else [])) := by
  simp [advance, newPending, hl]

end

/-- A stalled thread does not issue, and its count goes down by one in a cycle. -/
theorem stalled_ticks {s : State} {t : Team} {tid n : Nat} {th : Thread} (hr : th.st = .ready) (hs : th.saved = false)
    (hd : th.drain = false) (hn : th.stall = n + 1) : mayIssue s t tid th = false ∧ (tickThread s t tid th).stall = n := by
  constructor
  · simp [mayIssue, hr, hn]
  · simp [tickThread, hr, hs, hd, hn]

/-- Settles O12. -/
theorem stallDistancesGrow : Obligations.StallDistancesGrow := by
  intro e sg old th pc wrote
  refine ⟨fun h7 => ?_, fun h7 => ⟨advance_stall h7 sg wrote old th pc, fun h hm hl => mem_advance_hazards h7 wrote hm hl⟩,
    fun h7 hl n hn => mem_advance_newHazard h7 hl hn, fun hl => ⟨fun n hn => ?_, fun hs => ?_⟩, fun s t tid n => stalled_ticks⟩
  · obtain ⟨hh, hs⟩ := advance_drains (sg := sg) (old := old) (th := th) (pc := pc) h7 wrote
    exact ⟨by simp [hh], hs⟩
  · simp [advance_pending hl, hn]
  · simp [advance_pending hl, hs]

end Sys2Proof.Machine
end

section
/-! Integers (O16, O17, O18): the short forms on 32-bit values, the long forms on exact integers, and what an exact integer becomes in
a type. -/

namespace Sys2Proof.Machine

open Sys2Proof

/-! ## Results of a type's width -/

/-- A result of a 32- or 64-bit type fills the type's registers. -/
theorem placed_resultAs_tyRegs (t : BitVec 6) (d : Nat) (v : W64) : Placed d (tyRegs t) (resultAs t d v) := by
  refine placed_resultAs t d _ v (.inr ?_)
  have hd : t = 0x11 → ty64 t = true := by rintro rfl; rfl
  cases h : ty64 t with
  | true => exact .inl ⟨by simp, by simp [tyRegs, h]⟩
  | false => exact .inr ⟨by simpa using fun e => by simp [hd e] at h, by simp [tyRegs, h]⟩

/-- An instruction whose writes are an integer or bit result of its type. -/
theorem computes_resultAs {i : Instr} {us : List RegUse} {t : BitVec 6} {d : Nat} {v : Cur → W64} {w : Cur → Writes}
    (hx : ∀ s, exec i s = runAlu i (sigR (us ++ useDst d (tyRegs t))) w s) (hi : isControl i = false)
    (hw : ∀ c, w c = outR (resultAs t d (v c))) :
    Computes i (sigR (us ++ useDst d (tyRegs t))) (fun c => outR (resultAs t d (v c))) := by
  obtain rfl : w = fun c => outR (resultAs t d (v c)) := funext hw
  exact computes_regs d _ hx hi (by simp [sigR, useDst]) (by simp [outR]) (fun _ => placed_resultAs_tyRegs ..)

/-! ## The short forms: two's complement of 32 bits (R59, R85) -/

theorem toSigned_eq_toInt {w : Nat} (hw : 0 < w) (x : BitVec w) : toSigned w x.toNat = x.toInt := by
  have h2 : 2 ^ w = 2 * 2 ^ (w - 1) := by rw [← Nat.pow_succ', Nat.succ_eq_add_one, Nat.sub_add_cancel hw]
  have hc : 2 * x.toNat < 2 ^ w ↔ x.toNat < 2 ^ (w - 1) := by omega
  simp only [toSigned, Nat.mod_eq_of_lt x.isLt, BitVec.toInt_eq_toNat_cond, hc]
  split <;> simp

theorem opdInt_i32 (c : Cur) (n : Nat) : opdInt c 0x00 (.v n) = (readV c.th n).val.toInt :=
  toSigned_eq_toInt (by decide) _

theorem lo32_ofInt (z : Int) : lo32 (BitVec.ofInt 64 z) = BitVec.ofInt 32 z := by
  refine BitVec.eq_of_toNat_eq ?_
  simp only [lo32, BitVec.extractLsb'_toNat, Nat.shiftRight_zero, BitVec.toNat_ofInt]
  omega

theorem resultAs_i32 (d : Nat) (z : Int) :
    resultAs 0x00 d (intResult 0x00 false z) = [(d, { val := BitVec.ofInt 32 z, tag := .b32 })] := by
  rw [← lo32_ofInt]; rfl

theorem computes_intA {i : Instr} {o : Short} {f : Int → Int → Int} {g : W32 → W32 → W32} (hx : ∀ s, exec i s = intA i o f s)
    (hi : isControl i = false) (hg : ∀ a b : W32, BitVec.ofInt 32 (f a.toInt b.toInt) = g a b) :
    Computes i (sigA o) (fun c =>
      outR [(o.d.toNat, { val := g (readV c.th o.d.toNat).val (readV c.th o.s.toNat).val, tag := .b32 })]) := by
  simp only [intA, resultAs_i32, opdInt_i32, hg] at hx
  exact computes_regs o.d.toNat 1 hx hi (by simp [sigA, sigR, useDst]) (by simp [outR]) (fun _ => placed_one _ _ _ (by decide))

theorem computes_intA1 {i : Instr} {o : Short} {f : Int → Int} {g : W32 → W32} (hx : ∀ s, exec i s = intA1 i o f s)
    (hi : isControl i = false) (hg : ∀ a : W32, BitVec.ofInt 32 (f a.toInt) = g a) :
    Computes i (sigA1 o) (fun c => outR [(o.d.toNat, { val := g (readV c.th o.s.toNat).val, tag := .b32 })]) := by
  simp only [intA1, resultAs_i32, opdInt_i32, hg] at hx
  exact computes_regs o.d.toNat 1 hx hi (by simp [sigA1, sigR, useDst]) (by simp [outR]) (fun _ => placed_one _ _ _ (by decide))

theorem ofInt_toInt_add (a b : W32) : BitVec.ofInt 32 (a.toInt + b.toInt) = a + b := by
  rw [BitVec.ofInt_add, BitVec.ofInt_toInt, BitVec.ofInt_toInt]

theorem ofInt_toInt_neg (a : W32) : BitVec.ofInt 32 (-a.toInt) = -a := by rw [BitVec.ofInt_neg, BitVec.ofInt_toInt]

theorem ofInt_toInt_sub (a b : W32) : BitVec.ofInt 32 (a.toInt - b.toInt) = a - b := by
  rw [Int.sub_eq_add_neg, BitVec.ofInt_add, ofInt_toInt_neg, BitVec.ofInt_toInt, BitVec.sub_eq_add_neg]

theorem ofInt_toInt_mul (a b : W32) : BitVec.ofInt 32 (intMul a.toInt b.toInt) = a * b := by
  rw [intMul, BitVec.ofInt_mul, BitVec.ofInt_toInt, BitVec.ofInt_toInt]

theorem ofInt_toInt_min (a b : W32) : BitVec.ofInt 32 (min a.toInt b.toInt) = if a.sle b then a else b := by
  rw [Int.min_def, apply_ite (BitVec.ofInt 32), BitVec.ofInt_toInt, BitVec.ofInt_toInt]
  simp only [BitVec.sle, decide_eq_true_eq]

theorem ofInt_toInt_max (a b : W32) : BitVec.ofInt 32 (max a.toInt b.toInt) = if a.sle b then b else a := by
  rw [Int.max_def, apply_ite (BitVec.ofInt 32), BitVec.ofInt_toInt, BitVec.ofInt_toInt]
  simp only [BitVec.sle, decide_eq_true_eq]

/-- An absolute value is the operand or its negation, by its sign (R86). -/
theorem intAbs_eq (z : Int) : intAbs z = if z < 0 then -z else z := by rw [intAbs]; split <;> omega

theorem ofInt_toInt_abs (a : W32) : BitVec.ofInt 32 (intAbs a.toInt) = if a.slt 0 then -a else a := by
  rw [intAbs_eq, apply_ite (BitVec.ofInt 32), ofInt_toInt_neg, BitVec.ofInt_toInt]
  simp [BitVec.slt]

/-- Settles O16: each short form with the operation of 32-bit words that its exact result wraps to. -/
theorem shortIntegerForms : Obligations.ShortIntegerForms := fun _ =>
  ⟨computes_intA (fun _ => rfl) rfl ofInt_toInt_add, computes_intA (fun _ => rfl) rfl ofInt_toInt_sub,
    computes_intA (fun _ => rfl) rfl ofInt_toInt_mul, computes_intA (fun _ => rfl) rfl ofInt_toInt_min,
    computes_intA (fun _ => rfl) rfl ofInt_toInt_max, computes_intA1 (fun _ => rfl) rfl ofInt_toInt_abs,
    computes_intA1 (fun _ => rfl) rfl ofInt_toInt_neg⟩

/-! ## The long forms: exact integers (R85 to R87) -/

/-- A form of three operands where TRI is 1: the third is folded in by the same operation. -/
theorem computes_intLong {i : Instr} {o : Long} {f : Int → Int → Int} {z : Cur → Int} (hx : ∀ s, exec i s = intLong i o f s)
    (hi : isControl i = false) (hz : ∀ c, z c = if o.tri
      then f (f (opdInt c o.sub (srcA o)) (opdInt c o.sub (srcB o o.sub))) (opdInt c o.sub (srcC o))
      else f (opdInt c o.sub (srcA o)) (opdInt c o.sub (srcB o o.sub))) :
    Computes i (sigThree o) (fun c => outR (resultAs o.sub o.dst.toNat (intResult o.sub o.sat (z c)))) :=
  computes_resultAs hx hi (fun c => by rw [hz])

theorem computes_intLong1 {i : Instr} {o : Long} {f : Int → Int} {z : Cur → Int} (hx : ∀ s, exec i s = intLong1 i o f s)
    (hi : isControl i = false) (hz : ∀ c, z c = f (opdInt c o.sub (srcA o))) :
    Computes i (sigR (useTyped o.sub (srcA o) ++ useDst o.dst.toNat (tyRegs o.sub)))
      (fun c => outR (resultAs o.sub o.dst.toNat (intResult o.sub o.sat (z c)))) :=
  computes_resultAs hx hi (fun c => by rw [hz])

/-- Settles O17: each long form with its exact result. -/
theorem longIntegerForms : Obligations.LongIntegerForms := fun o =>
  ⟨computes_intLong (fun _ => rfl) rfl (fun c => by split <;> simp),
    computes_intLong (fun _ => rfl) rfl (fun c => by split <;> simp),
    computes_intLong (fun _ => rfl) rfl (fun c => by split <;> simp [intMul]),
    computes_intLong (fun _ => rfl) rfl (fun _ => rfl), computes_intLong (fun _ => rfl) rfl (fun _ => rfl),
    computes_intLong1 (fun _ => rfl) rfl (fun c => (intAbs_eq _).symm), computes_intLong1 (fun _ => rfl) rfl (fun _ => rfl),
    computes_resultAs (fun _ => rfl) rfl (fun _ => rfl), computes_resultAs (fun _ => rfl) rfl (fun _ => rfl)⟩

/-! ## An exact integer in a type (R87) -/

theorem clampInt_eq {lo hi : Int} (h : lo ≤ hi) (z : Int) : clampInt lo hi z = max lo (min hi z) := by
  unfold clampInt
  split
  · omega
  · split <;> omega

theorem intMin_le_intMax (w : Nat) (signed : Bool) : intMin w signed ≤ intMax w signed := by
  have h1 : (0 : Int) < 2 ^ (w - 1) := Int.pow_pos (by decide)
  have h2 : (0 : Int) < 2 ^ w := Int.pow_pos (by decide)
  unfold intMin intMax
  split <;> omega

/-- A number read in a type of w bits (R87). -/
def readIn (w : Nat) (signed : Bool) (n : Nat) : Int := if signed then toSigned w n else ((n % 2 ^ w : Nat) : Int)

/-- What a type reads of a number is the value of its range that is equal modulo 2 ^ w. -/
theorem readIn_spec {w : Nat} (h0 : 0 < w) (signed : Bool) (n : Nat) :
    intMin w signed ≤ readIn w signed n ∧ readIn w signed n ≤ intMax w signed ∧
      ∃ k : Int, readIn w signed n = n + k * (2 : Int) ^ w := by
  have h2 : (2 : Int) ^ w = 2 * 2 ^ (w - 1) := by rw [← Int.pow_succ', Nat.sub_add_cancel h0]
  have hp : (0 : Int) < 2 ^ (w - 1) := Int.pow_pos (by decide)
  have hlo : (0 : Int) ≤ (n % 2 ^ w : Nat) := Int.natCast_nonneg _
  have hhi : ((n % 2 ^ w : Nat) : Int) < 2 ^ w := by exact_mod_cast Nat.mod_lt n (Nat.two_pow_pos w)
  have hk : ((n % 2 ^ w : Nat) : Int) = n + -(n / 2 ^ w) * 2 ^ w := by push_cast; rw [Int.emod_def, Int.neg_mul, Int.mul_comm, Int.sub_eq_add_neg]
  unfold readIn intMin intMax
  cases signed with
  | false =>
    simp only [Bool.false_eq_true, if_false]
    exact ⟨hlo, by omega, _, hk⟩
  | true =>
    simp only [if_true, toSigned]
    split
    case isTrue h =>
      have h : ((n % 2 ^ w : Nat) : Int) < 2 ^ (w - 1) := by exact_mod_cast h
      exact ⟨by omega, by omega, _, hk⟩
    case isFalse h =>
      have h : (2 : Int) ^ (w - 1) ≤ (n % 2 ^ w : Nat) := by exact_mod_cast Nat.not_lt.mp h
      exact ⟨by omega, by omega, -(n / 2 ^ w) - 1, by rw [hk, Int.sub_mul, Int.one_mul]; omega⟩

/-- The 64-bit value of an exact integer is equal to it modulo the width of every type. -/
theorem readIn_ofInt {w : Nat} (h0 : 0 < w) (hw : w ≤ 64) (signed : Bool) (z : Int) :
    let r := readIn w signed (BitVec.ofInt 64 z).toNat
    intMin w signed ≤ r ∧ r ≤ intMax w signed ∧ ∃ k : Int, r = z + k * (2 : Int) ^ w := by
  obtain ⟨hlo, hhi, k, hk⟩ := readIn_spec h0 signed (BitVec.ofInt 64 z).toNat
  obtain ⟨c, hc⟩ : (2 : Int) ^ w ∣ 2 ^ 64 := ⟨2 ^ (64 - w), by rw [← Int.pow_add, Nat.add_sub_cancel' hw]⟩
  have hz : ((BitVec.ofInt 64 z).toNat : Int) = z + -(z / 2 ^ 64) * 2 ^ 64 := by
    rw [BitVec.toNat_ofInt, Int.toNat_of_nonneg (by omega)]; omega
  exact ⟨hlo, hhi, k - z / 2 ^ 64 * c, by rw [hk, hz, Int.sub_mul, Int.mul_assoc, Int.mul_comm c, ← hc]; omega⟩

/-- A value of the type's range reads as itself. -/
theorem readIn_ofInt_of_mem {w : Nat} (h0 : 0 < w) (hw : w ≤ 64) {signed : Bool} {z : Int} (hlo : intMin w signed ≤ z)
    (hhi : z ≤ intMax w signed) : readIn w signed (BitVec.ofInt 64 z).toNat = z := by
  obtain ⟨h1, h2, k, hk⟩ := readIn_ofInt h0 hw signed z
  have hr : intMax w signed - intMin w signed < (2 : Int) ^ w := by
    have e : (2 : Int) ^ w = 2 * 2 ^ (w - 1) := by rw [← Int.pow_succ', Nat.sub_add_cancel h0]
    unfold intMin intMax
    split <;> omega
  have hp : (0 : Int) < 2 ^ w := Int.pow_pos (by decide)
  have hz : k = 0 := by
    have hlt : k * 2 ^ w < 1 * 2 ^ w := by omega
    have hgt : -1 * 2 ^ w < k * 2 ^ w := by omega
    have h0 := Int.lt_of_mul_lt_mul_right hlt (Int.le_of_lt hp)
    have h1 := Int.lt_of_mul_lt_mul_right hgt (Int.le_of_lt hp)
    omega
  rw [hk, hz, Int.zero_mul, Int.add_zero]

theorem tyWidth_pos (t : BitVec 6) : 0 < tyWidth t ∧ tyWidth t ≤ 64 := by unfold tyWidth; split <;> decide

/-- R87: clamped, the nearest value of the range; else the one equal modulo 2 ^ w. -/
theorem readIn_intResult (t : BitVec 6) (z : Int) :
    let w := tyWidth t
    let lo := intMin w (tySigned t)
    let hi := intMax w (tySigned t)
    let read := fun (v : W64) => readIn w (tySigned t) v.toNat
    read (intResult t true z) = max lo (min hi z) ∧
    lo ≤ read (intResult t false z) ∧ read (intResult t false z) ≤ hi ∧ ∃ k : Int, read (intResult t false z) = z + k * (2 : Int) ^ w := by
  obtain ⟨h0, hw⟩ := tyWidth_pos t
  have hle := intMin_le_intMax (tyWidth t) (tySigned t)
  refine ⟨?_, readIn_ofInt h0 hw _ z⟩
  simp only [intResult, if_true, clampInt_eq hle]
  exact readIn_ofInt_of_mem h0 hw (by omega) (by omega)

/-! ## Carry and borrow (R88) -/

theorem carryOut_exact {w a b : Nat} (p : Bool) (ha : a < 2 ^ w) (hb : b < 2 ^ w) :
    (carryOut w a b p).toNat * 2 ^ w + (a + b + p.toNat) % 2 ^ w = a + b + p.toNat := by
  have hp := Bool.toNat_le p
  by_cases h : 2 ^ w ≤ a + b + p.toNat
  · have hc : carryOut w a b p = true := decide_eq_true h
    rw [hc, Nat.mod_eq_sub_mod h, Nat.mod_eq_of_lt (by omega)]
    simp only [Bool.toNat_true]
    omega
  · have hc : carryOut w a b p = false := decide_eq_false h
    rw [hc, Nat.mod_eq_of_lt (by omega)]
    simp

theorem borrowOut_exact {w a b : Nat} (p : Bool) (ha : a < 2 ^ w) (hb : b < 2 ^ w) :
    ((a : Int) - b - p.toNat) + (borrowOut a b p).toNat * (2 : Int) ^ w = ((a : Int) - b - p.toNat) % (2 : Int) ^ w := by
  have hp := Bool.toNat_le p
  have ha' : (a : Int) < 2 ^ w := by exact_mod_cast ha
  have hb' : (b : Int) < 2 ^ w := by exact_mod_cast hb
  by_cases h : a < b + p.toNat
  · have hc : borrowOut a b p = true := decide_eq_true h
    rw [hc, ← Int.add_emod_right, Int.emod_eq_of_lt (by omega) (by omega)]
    simp
  · have hc : borrowOut a b p = false := decide_eq_false h
    rw [hc, Int.emod_eq_of_lt (by omega) (by omega)]
    simp

/-- A carry instruction writes its result and one predicate. -/
theorem computes_carry {i : Instr} {o : Long} {v : Cur → W64} {b : Cur → Bool}
    (hx : ∀ s, exec i s = runAlu i (sigCarry o) (fun c => { regs := resultAs o.sub o.dst.toNat (v c), preds := [(carryTo o, b c)] }) s)
    (hi : isControl i = false) :
    Computes i (sigCarry o) (fun c => { regs := resultAs o.sub o.dst.toNat (v c), preds := [(carryTo o, b c)] }) :=
  computes_regs o.dst.toNat _ hx hi (by simp [sigCarry, sigP, useDst]) (by simp) (fun _ => placed_resultAs_tyRegs ..)

/-- Settles O18. -/
theorem integerValues : Obligations.IntegerValues :=
  ⟨fun t z _ => readIn_intResult t z, fun _ => ⟨computes_carry (fun _ => rfl) rfl, computes_carry (fun _ => rfl) rfl⟩,
    fun _ _ _ p ha hb => ⟨carryOut_exact p ha hb, borrowOut_exact p ha hb⟩⟩

end Sys2Proof.Machine
end

section
/-! Comparisons (O19): `iset` and the floating-point ones as predicate writes, and `hset2` where both its elements have one predicate:
the writes of one thread in any order leave what `Wrote` says of the value that stands at the end. -/

namespace Sys2Proof.Machine

open Sys2Proof

/-! ## A thread with writes made -/

/-- The thread `a` is `th` with the writes `w`, or at a short hazard without them (R70). -/
structure Holds (th : Thread) (w : Writes) (a : Thread) : Prop where
  regs  : ∀ n r, (n, r) ∈ w.regs → readV a n = r ∨ (hazardOn th false n = true ∧ readV a n = readV th n)
  kept  : ∀ n, (∀ p ∈ w.regs, p.1 ≠ n) → readV a n = readV th n
  preds : ∀ n b, (n, b) ∈ w.preds → n < 7 → readPred a.preds n = b ∨ (hazardOn th true n = true ∧ readPred a.preds n = readPred th.preds n)
  keptP : ∀ n, n < 8 → (∀ p ∈ w.preds, p.1 ≠ n) → readPred a.preds n = readPred th.preds n
  seed  : a.seed = w.seed.getD th.seed
  frame : a = { th with regs := a.regs, preds := a.preds, seed := a.seed }

/-- What an instruction leaves whose writes stand in its thread. -/
theorem wrote_of_holds {i : Instr} {s : State} {uid tid : Nat} {t : Team} {th a : Thread} {w : Writes} (hT : Turn s uid tid t th)
    (hi : isControl i = false) (h : Holds th w a) (sg : Sig) (wrote : Bool) (ctr : Nat) :
    Wrote i s uid tid t th w (popIssue (chargeIssue i t.asid th
      (retireAt (withThread s t tid a ctr) uid tid i sg wrote th (nextPc i th)))) := by
  have hg : a.st ≠ .gone := by rw [h.frame]; exact canRun_not_gone hT.runs
  rw [retireAt_withThread hT.team hT.thread hi sg wrote th a ctr (nextPc i th) hg]
  obtain ⟨hframe, hctxs⟩ := chargeIssue_spec i t.asid th (withThread s t tid (retired i sg wrote th a (nextPc i th)) ctr)
  refine ⟨⟨retired i sg wrote th a (nextPc i th), ?_, rfl, h.regs, h.kept, h.preds, h.keptP, h.seed, rfl, ?_⟩, fun u hu => ?_,
    hctxs, ?_⟩
  · rw [hframe]
    exact getTeam_withThread (ctr := ctr) _ hT.team
  · obtain ⟨rs, ps, sd, rfl⟩ : ∃ rs ps sd, a = { th with regs := rs, preds := ps, seed := sd } := ⟨_, _, _, h.frame⟩
    rfl
  · rw [hframe]
    exact getTeam_withThread_other (ctr := ctr) _ hT.team hu
  · rw [hframe]
    rfl

/-- One predicate written twice holds the one value or the other. -/
theorem holds_pred_twice (th : Thread) (ctr n : Nat) (b0 b1 : Bool) :
    Holds th { preds := [(n, b0)] } (allWrites th ctr { preds := [(n, b0), (n, b1)] }).1 ∨
    Holds th { preds := [(n, b1)] } (allWrites th ctr { preds := [(n, b0), (n, b1)] }).1 := by
  obtain ⟨first, hfirst⟩ : ∃ p, p = predWrite (th, ctr) (n, b0) := ⟨_, rfl⟩
  have ha : (allWrites th ctr { preds := [(n, b0), (n, b1)] }).1 = (predWrite first (n, b1)).1 := by rw [hfirst]; rfl
  obtain ⟨hframe1, -⟩ := predWrites_frame [(n, b0)] (th, ctr)
  have hz : hazardOn first.1 true n = hazardOn th true n := by
    rw [hfirst, show predWrite (th, ctr) (n, b0) = [(n, b0)].foldl predWrite (th, ctr) from rfl, hframe1]; rfl
  have hone : n < 7 → readPred first.1.preds n = b0 ∨ hazardOn th true n = true ∧ readPred first.1.preds n = readPred th.preds n :=
    fun h7 => hfirst ▸ predWrites_value [(n, b0)] (th, ctr) (by simp) n b0 h7 (by simp)
  have htwo : n < 7 → readPred (predWrite first (n, b1)).1.preds n = b1 ∨
      hazardOn first.1 true n = true ∧ readPred (predWrite first (n, b1)).1.preds n = readPred first.1.preds n :=
    fun h7 => predWrites_value [(n, b1)] first (by simp) n b1 h7 (by simp)
  obtain ⟨hframe, hkept⟩ := predWrites_frame [(n, b0), (n, b1)] (th, ctr)
  have hall : [(n, b0), (n, b1)].foldl predWrite (th, ctr) = predWrite first (n, b1) := by rw [hfirst]; rfl
  rw [hall] at hframe hkept
  have build : ∀ b, (n < 7 → readPred (predWrite first (n, b1)).1.preds n = b ∨
      hazardOn th true n = true ∧ readPred (predWrite first (n, b1)).1.preds n = readPred th.preds n) →
      Holds th { preds := [(n, b)] } (predWrite first (n, b1)).1 := fun b hb =>
    { regs := by simp
      kept := fun m _ => by rw [hframe]; rfl
      preds := fun m c hm h7 => by obtain ⟨rfl, rfl⟩ : m = n ∧ c = b := by simpa using hm
                                   exact hb h7
      keptP := fun m h8 hm => hkept m h8 (by simpa using hm)
      seed := by rw [hframe]; rfl
      frame := by rw [hframe]; rfl }
  rw [ha]
  by_cases h7 : n < 7
  case neg => exact .inl (build b0 fun h => absurd h h7)
  case pos =>
    rcases htwo h7 with h | ⟨hh, h⟩
    · exact .inr (build b1 fun _ => .inl h)
    · exact .inl (build b0 fun _ => (hone h7).imp (h.trans ·) fun ⟨ho, he⟩ => ⟨ho, h.trans he⟩)

/-! ## Comparisons (R89, R125) -/

theorem elements_length (w : Nat) : ∀ n v : Nat, (elements w n v).length = n
  | 0, _ => rfl
  | n + 1, v => by rw [elements, List.length_cons, elements_length]

theorem floatElems_length (c : Cur) (t : BitVec 6) (o : Opd) : (floatElems c t o).length = floatCount t := elements_length ..

/-- A sign flip of each element, read at a place that an operand has. -/
theorem getD_map_flipSign (c : Cur) (t : BitVec 6) (o : Opd) (f : Fmt) (neg : Bool) {e : Nat} (he : e < floatCount t) :
    ((floatElems c t o).map (flipSign f neg)).getD e 0 = flipSign f neg ((floatElems c t o).getD e 0) := by
  have hl : e < (floatElems c t o).length := by rwa [floatElems_length]
  simp [hl]

/-- Element k of a floating-point comparison. -/
def compareAt (o : Long) (c : Cur) (k : Nat) : Bool :=
  compareElem (floatFmt o.sub) (setCode o) (flipSign (floatFmt o.sub) o.na ((floatElems c o.sub (srcA o)).getD k 0))
    (flipSign (floatFmt o.sub) o.nb ((floatElems c o.sub (srcB o o.sub)).getD k 0))

/-- Registers and predicates of a comparison. -/
def sigSet (o : Long) (pds : List Nat) : Sig := sigP (useTyped o.sub (srcA o) ++ useTyped o.sub (srcB o o.sub)) (combReads o) pds

theorem floatSet_one {o : Long} (hn : floatCount o.sub = 1) (i : Instr) (s : State) : floatSet i o s =
    runAlu i (sigSet o [setPd o]) (fun c => { preds := [(setPd o, combined o c.th.preds (compareAt o c 0))] }) s := by
  have h0 : 0 < floatCount o.sub := by omega
  simp only [floatSet, hn, sigSet, compareAt, ← getD_map_flipSign _ _ _ _ _ h0]
  rfl

theorem floatSet_two {o : Long} (hn : floatCount o.sub = 2) (i : Instr) (s : State) : floatSet i o s =
    runAlu i (sigSet o [setPd o, setPe o]) (fun c => { preds := [(setPd o, combined o c.th.preds (compareAt o c 0)),
      (setPe o, combined o c.th.preds (compareAt o c 1))] }) s := by
  have h0 : 0 < floatCount o.sub := by omega
  have h1 : 1 < floatCount o.sub := by omega
  simp only [floatSet, hn, sigSet, compareAt, ← getD_map_flipSign _ _ _ _ _ h0, ← getD_map_flipSign _ _ _ _ _ h1]
  rfl

theorem computes_floatSet {i : Instr} {o : Long} (hx : ∀ s, exec i s = floatSet i o s) (hi : isControl i = false)
    (hn : floatCount o.sub = 1) : Computes i (sigSet o [setPd o]) (fun c =>
      { preds := [(setPd o, combined o c.th.preds (compareAt o c 0))] }) :=
  computes_preds (fun s => (hx s).trans (floatSet_one hn i s)) hi (by simp) (fun _ => rfl)

theorem computes_hset2 {o : Long} (hn : floatCount o.sub = 2) (hd : setPd o ≠ setPe o) :
    Computes (.hset2 o) (sigSet o [setPd o, setPe o]) (fun c => { preds := [(setPd o, combined o c.th.preds (compareAt o c 0)),
      (setPe o, combined o c.th.preds (compareAt o c 1))] }) :=
  computes_preds (fun s => floatSet_two hn _ s) rfl (by simp [hd]) (fun _ => rfl)

/-- Where both elements have one predicate, it ends with the one comparison or the other (log 28). -/
theorem hset2_one_predicate {o : Long} (hn : floatCount o.sub = 2) (hd : setPd o = setPe o) {s : State} {uid tid : Nat} {t : Team}
    {th : Thread} (hT : Turn s uid tid t th) (hP : Passes (.hset2 o) (sigSet o [setPd o, setPe o]) s t th) :
    ∃ s' b, exec (.hset2 o) s = .next s' ∧ Wrote (.hset2 o) s uid tid t th { preds := [(setPd o, b)] } s' ∧
      ∃ k, k < 2 ∧ b = combined o (curOf s t th).th.preds (compareAt o (curOf s t th) k) := by
  have hx : exec (.hset2 o) s = _ := (floatSet_two hn (.hset2 o) s).trans (run_done hT hP rfl)
  rw [issueState, ← withThread_self hT.team hT.thread, applyWrites_withThread hT.team hT.thread, ← hd] at hx
  rcases holds_pred_twice th (ctrOf s th) (setPd o) (combined o (curOf s t th).th.preds (compareAt o (curOf s t th) 0))
    (combined o (curOf s t th).th.preds (compareAt o (curOf s t th) 1)) with h | h
  · exact ⟨_, _, hx, wrote_of_holds hT rfl h _ _ _, 0, by decide, rfl⟩
  · exact ⟨_, _, hx, wrote_of_holds hT rfl h _ _ _, 1, by decide, rfl⟩

theorem floatCount_half {t : BitVec 6} (h : t = 0x12 ∨ t = 0x13) : floatCount t = 2 := by rcases h with rfl | rfl <;> rfl

/-- Settles O19. -/
theorem comparisons : Obligations.Comparisons := fun _ =>
  ⟨computes_preds (fun _ => rfl) rfl (by simp) (fun _ => rfl),
    fun h => computes_floatSet (fun _ => rfl) rfl (by rw [h]; rfl), fun h => computes_floatSet (fun _ => rfl) rfl (by rw [h]; rfl),
    fun h hd => computes_hset2 (floatCount_half h) hd,
    fun h hd _ _ _ _ _ hT hP => hset2_one_predicate (floatCount_half h) hd hT hP⟩

end Sys2Proof.Machine
end

section
/-! The untyped instructions, shifts, counts and bit fields (O20, O21): each is `runAlu` with the stated writes; and the values of the
shift, count, field and byte functions (O22), bit by bit. -/

namespace Sys2Proof.Machine

open Sys2Proof

/-! ## Untyped results (R28, R90, R94 to R96) -/

theorem untypedTag_one (t : Tag) : untypedTag [t] = t := rfl

theorem untypedTag_two (a b : Tag) : untypedTag [a, b] = if a = b then a else .b32 := by
  simp only [untypedTag, List.all_cons, List.all_nil, Bool.and_true, beq_iff_eq, eq_comm (a := b)]

theorem placed_rawResult (c : Cur) (d n : Nat) (srcs : List Opd) (f : List W32 → W32) : Placed d n (rawResult c d n srcs f) :=
  placed_range d n n _ (Nat.le_refl n)

/-- An instruction whose writes are the n registers of an untyped result. -/
theorem computes_raw {i : Instr} {us : List RegUse} {pr : List Nat} {d n : Nat} {srcs : List Opd} {f : Cur → List W32 → W32}
    {g : Cur → Nat → Reg} (hx : ∀ s, exec i s = runAlu i (sigP (us ++ useDst d n) pr []) (fun c => outR (rawResult c d n srcs (f c))) s)
    (hi : isControl i = false) (hg : ∀ c j, g c j = rawReg c srcs (f c) j) :
    Computes i (sigP (us ++ useDst d n) pr []) (fun c => outR ((List.range n).map (fun j => (d + j, g c j)))) := by
  simp only [hg]
  exact computes_regs d n hx hi (by simp [sigP, useDst]) (by simp [outR]) (fun _ => placed_range d n n _ (Nat.le_refl n))

/-- One register. -/
theorem computes_raw_one {i : Instr} {us : List RegUse} {d : Nat} {srcs : List Opd} {f : List W32 → W32} {g : Cur → Reg}
    (hx : ∀ s, exec i s = runAlu i (sigR (us ++ useDst d 1)) (fun c => outR (rawResult c d 1 srcs f)) s)
    (hi : isControl i = false) (hg : ∀ c, g c = rawReg c srcs f 0) :
    Computes i (sigR (us ++ useDst d 1)) (fun c => outR [(d, g c)]) := by
  simp only [hg]
  exact computes_regs d 1 hx hi (by simp [sigR, useDst]) (by simp [outR]) (fun _ => placed_one _ _ _ (by decide))

theorem rawReg_pair (c : Cur) (a b : Opd) (f : W32 → W32 → W32) (j : Nat) : rawReg c [a, b] (fold1 f) j =
    { val := f (opdReg c a j).val (opdReg c b j).val, tag := untypedTag [(opdReg c a j).tag, (opdReg c b j).tag] } := rfl

theorem computes_logicA {i : Instr} {o : Short} {f : W32 → W32 → W32} (hx : ∀ s, exec i s = logicA i o f s)
    (hi : isControl i = false) :
    Computes i (sigR (useRaw 1 (.v o.d.toNat) ++ useRaw 1 (.v o.s.toNat) ++ useDst o.d.toNat 1)) (fun c =>
      outR [(o.d.toNat, { val := f (readV c.th o.d.toNat).val (readV c.th o.s.toNat).val
                          tag := if (readV c.th o.d.toNat).tag = (readV c.th o.s.toNat).tag then (readV c.th o.d.toNat).tag else .b32 })]) :=
  computes_raw_one hx hi (fun c => by rw [rawReg_pair, untypedTag_two]; rfl)

/-- The logic of two sources, or of three where TRI is 1 (R90). -/
theorem computes_logicLong {i : Instr} {o : Long} {f : W32 → W32 → W32} (hx : ∀ s, exec i s = logicLong i o f s)
    (hi : isControl i = false) :
    Computes i (sigR (([srcA o, srcB o o.sub] ++ (if o.tri then [srcC o] else [])).flatMap (useRaw (tyRegs o.sub))
      ++ useDst o.dst.toNat (tyRegs o.sub))) (fun c =>
      outR ((List.range (tyRegs o.sub)).map (fun j => (o.dst.toNat + j,
        let a := opdReg c (srcA o) j
        let b := opdReg c (srcB o o.sub) j
        let e := opdReg c (srcC o) j
        if o.tri then { val := f (f a.val b.val) e.val, tag := untypedTag [a.tag, b.tag, e.tag] }
        else { val := f a.val b.val, tag := untypedTag [a.tag, b.tag] })))) :=
  computes_raw (pr := []) hx hi (fun c j => by cases o.tri <;> rfl)

/-- A one-source untyped copy over n registers. -/
theorem computes_rawLong1 {i : Instr} {o : Long} {n : Nat} {f : W32 → W32} (hx : ∀ s, exec i s = rawLong1 i o n f s)
    (hi : isControl i = false) :
    Computes i (sigR (useRaw n (srcA o) ++ useDst o.dst.toNat n)) (fun c => outR ((List.range n).map (fun j =>
      (o.dst.toNat + j, { val := f (opdReg c (srcA o) j).val, tag := (opdReg c (srcA o) j).tag })))) :=
  computes_raw (pr := []) hx hi (fun _ _ => rfl)

theorem computes_sel (o : Long) :
    Computes (.sel o) (sigP (useRaw (tyRegs o.sub) (srcA o) ++ useRaw (tyRegs o.sub) (srcB o o.sub)
      ++ useDst o.dst.toNat (tyRegs o.sub)) [o.mod.toNat % 8] []) (fun c =>
      outR ((List.range (tyRegs o.sub)).map (fun j => (o.dst.toNat + j,
        { val := if xor (readPred c.th.preds (o.mod.toNat % 8)) (o.mod.getLsbD 3) then (opdReg c (srcA o) j).val
                 else (opdReg c (srcB o o.sub) j).val
          tag := untypedTag [(opdReg c (srcA o) j).tag, (opdReg c (srcB o o.sub) j).tag] })))) :=
  computes_raw (fun _ => rfl) rfl (fun _ _ => rfl)

theorem computes_prmt (o : Long) :
    Computes (.prmt o) (sigR (useRaw 1 (srcA o) ++ useRaw 1 (prmtB o) ++ prmtSelUse o ++ useDst o.dst.toNat 1)) (fun c =>
      outR [(o.dst.toNat, { val := BitVec.ofNat 32 (prmtValue (cat64 (opdReg c (srcA o) 0).val (opdReg c (prmtB o) 0).val)
          (if o.form = .b then (opd32 c (regOpd o.kb o.sb)).toNat % 2 ^ 16 else o.imm.toNat))
                            tag := untypedTag [(opdReg c (srcA o) 0).tag, (opdReg c (prmtB o) 0).tag] })]) := by
  refine computes_regs o.dst.toNat 1 (fun s => ?_) rfl (by simp [sigR, useDst]) (by simp [outR]) (fun _ => placed_one _ _ _ (by decide))
  show execPrmt o s = _
  cases h : o.form <;> simp [execPrmt, h, result32]

theorem computes_tagset (o : Long) : Computes (.tagset o) (sigR (useRaw 1 (srcA o) ++ useDst o.dst.toNat 1)) (fun c =>
    outR [(o.dst.toNat, { val := opd32 c (srcA o), tag := codeTag o.imm.toNat })]) :=
  computes_regs o.dst.toNat 1 (fun _ => rfl) rfl (by simp [sigR, useDst]) (by simp [outR]) (fun _ => placed_one _ _ _ (by decide))

theorem computes_tagget (o : Long) : Computes (.tagget o) (sigR (useRaw 1 (srcA o) ++ useDst o.dst.toNat 1)) (fun c =>
    outR [(o.dst.toNat, { val := BitVec.ofNat 32 (tagCode (opdReg c (srcA o) 0).tag), tag := .b32 })]) :=
  computes_regs o.dst.toNat 1 (fun _ => rfl) rfl (by simp [sigR, useDst]) (by simp [outR]) (fun _ => placed_one _ _ _ (by decide))

/-- Settles O20. -/
theorem untypedInstructions : Obligations.UntypedInstructions :=
  ⟨fun _ => ⟨computes_logicA (fun _ => rfl) rfl, computes_logicA (fun _ => rfl) rfl, computes_logicA (fun _ => rfl) rfl,
      computes_logicA (f := andNot) (fun _ => rfl) rfl, computes_raw_one (fun _ => rfl) rfl (fun _ => rfl),
      computes_raw_one (fun _ => rfl) rfl (fun _ => rfl)⟩,
    fun o => ⟨computes_logicLong (fun _ => rfl) rfl, computes_logicLong (fun _ => rfl) rfl, computes_logicLong (fun _ => rfl) rfl,
      computes_logicLong (f := andNot) (fun _ => rfl) rfl, computes_rawLong1 (fun _ => rfl) rfl, computes_rawLong1 (f := id) (fun _ => rfl) rfl,
      computes_sel o, computes_prmt o, computes_tagset o, computes_tagget o⟩⟩

/-! ## Shifts, counts and fields (R91 to R93) -/

theorem computes_shiftAi {i : Instr} {o : Short} {f : Nat → Nat → Nat → Nat} (hx : ∀ s, exec i s = shiftAi i o f s)
    (hi : isControl i = false) : Computes i (sigAi o) (fun c =>
      outR (resultAs 0x0A o.d.toNat (BitVec.ofNat 64 (f 32 (readV c.th o.d.toNat).val.toNat o.s.toNat)))) :=
  computes_resultAs (t := 0x0A) hx hi (fun _ => rfl)

theorem computes_countA {i : Instr} {o : Short} {f : Nat → Nat → Nat} (hx : ∀ s, exec i s = countA i o f s)
    (hi : isControl i = false) : Computes i (sigA1 o) (fun c =>
      outR (result32 o.d.toNat (BitVec.ofNat 32 (f 32 (readV c.th o.s.toNat).val.toNat)) .b32)) :=
  computes_regs o.d.toNat 1 hx hi (by simp [sigA1, sigR, useDst]) (by simp [outR]) (fun _ => placed_one _ _ _ (by decide))

/-- The C form of a shift adds SC after it, and the sum wraps. -/
theorem computes_shiftLong {i : Instr} {o : Long} {f : Nat → Nat → Nat → Nat} (hx : ∀ s, exec i s = shiftLong i o f s)
    (hi : isControl i = false) :
    Computes i (sigR (useTyped o.sub (srcA o) ++ useOpd (shiftCount o) 1 [.b32] ++ (if o.form == .c then useTyped o.sub (srcC o) else [])
      ++ useDst o.dst.toNat (tyRegs o.sub))) (fun c =>
      let x := f (tyWidth o.sub) (opdNat c (ty64 o.sub) (srcA o)) (opd32 c (shiftCount o)).toNat
      outR (resultAs o.sub o.dst.toNat (BitVec.ofNat 64 (if o.form == .c then x + opdNat c (ty64 o.sub) (srcC o) else x)))) :=
  computes_resultAs hx hi (fun _ => rfl)

theorem computes_countLong {i : Instr} {o : Long} {f : Nat → Nat → Nat} (hx : ∀ s, exec i s = countLong i o false f s)
    (hi : isControl i = false) : Computes i (sigR (useTyped o.sub (srcA o) ++ useDst o.dst.toNat 1)) (fun c =>
      outR (resultAs 0x0A o.dst.toNat (BitVec.ofNat 64 (f (tyWidth o.sub) (opdNat c (ty64 o.sub) (srcA o)))))) :=
  computes_resultAs (t := 0x0A) hx hi (fun _ => rfl)

/-- Settles O21. -/
theorem shiftsCountsFields : Obligations.ShiftsCountsFields :=
  ⟨fun _ => ⟨computes_shiftAi (fun _ => rfl) rfl, computes_shiftAi (fun _ => rfl) rfl, computes_shiftAi (fun _ => rfl) rfl,
      computes_shiftAi (fun _ => rfl) rfl, computes_shiftAi (fun _ => rfl) rfl, computes_countA (fun _ => rfl) rfl,
      computes_countA (fun _ => rfl) rfl, computes_countA (fun _ => rfl) rfl, computes_countA (fun _ => rfl) rfl⟩,
    fun _ => ⟨computes_shiftLong (fun _ => rfl) rfl, computes_shiftLong (fun _ => rfl) rfl, computes_shiftLong (fun _ => rfl) rfl,
      computes_shiftLong (fun _ => rfl) rfl, computes_shiftLong (fun _ => rfl) rfl, computes_countLong (fun _ => rfl) rfl,
      computes_countLong (fun _ => rfl) rfl, computes_countLong (fun _ => rfl) rfl,
      computes_resultAs (fun _ => rfl) rfl (fun _ => rfl), computes_resultAs (fun _ => rfl) rfl (fun _ => rfl),
      computes_resultAs (fun _ => rfl) rfl (fun _ => rfl)⟩⟩

/-! ## Shifts and rotations as operations of bit vectors (R91) -/

section
variable {w : Nat} (a : BitVec w) (n : Nat)

theorem ofNat_shlBits : BitVec.ofNat w (shlBits w a.toNat n) = a <<< n := by
  unfold shlBits
  split
  case isTrue =>
    refine BitVec.eq_of_toNat_eq ?_
    rw [BitVec.toNat_ofNat, Nat.mod_mod, BitVec.toNat_shiftLeft, Nat.shiftLeft_eq]
  case isFalse h => rw [BitVec.shiftLeft_eq_zero (Nat.not_lt.mp h)]

theorem ofNat_shrBits : BitVec.ofNat w (shrBits w a.toNat n) = a >>> n := by
  unfold shrBits
  split
  case isTrue =>
    rw [← Nat.shiftRight_eq_div_pow, ← BitVec.toNat_ushiftRight, BitVec.ofNat_toNat, BitVec.setWidth_eq]
  case isFalse h => rw [BitVec.ushiftRight_eq_zero (Nat.not_lt.mp h)]

/-- A value of w bits shifted right by w - 1 or more is 0 or -1 by its sign. -/
theorem div_two_pow_of_le {z : Int} {k m : Nat} (hlo : -(2 : Int) ^ k ≤ z) (hhi : z < 2 ^ k) (hm : k ≤ m) :
    z / 2 ^ m = if z < 0 then -1 else 0 := by
  have hle : (2 : Int) ^ k ≤ 2 ^ m := by exact_mod_cast Nat.pow_le_pow_right (by decide) hm
  split
  case isTrue h => exact Int.ediv_eq_neg_one_of_neg_of_le h (by omega)
  case isFalse h => exact Int.ediv_eq_zero_of_lt (by omega) (by omega)

theorem ofNat_sarBits (hw : 0 < w) : BitVec.ofNat w (sarBits w a.toNat n) = a.sshiftRight n := by
  have hz : a.toInt / (2 : Int) ^ min n (w - 1) = a.toInt >>> n := by
    rw [Int.shiftRight_eq_div_pow]
    push_cast
    by_cases h : n ≤ w - 1
    case pos => rw [Nat.min_eq_left h]
    case neg =>
      have hlo := BitVec.le_toInt a
      have hhi := BitVec.toInt_lt (x := a)
      rw [Nat.min_eq_right (by omega), div_two_pow_of_le hlo hhi (Nat.le_refl _), div_two_pow_of_le hlo hhi (by omega)]
  rw [sarBits, toSigned_eq_toInt hw, hz, BitVec.sshiftRight]
  refine BitVec.eq_of_toNat_eq ?_
  rw [BitVec.toNat_ofNat, BitVec.toNat_ofInt, wrapTo, Nat.mod_eq_of_lt]
  · push_cast; rfl
  · have := Int.emod_lt_of_pos (a.toInt >>> n) (b := 2 ^ w) (Int.pow_pos (by decide))
    exact (Int.toNat_lt' (Nat.two_pow_pos w)).mpr (by exact_mod_cast this)

theorem ofNat_rolBits (hw : 0 < w) : BitVec.ofNat w (rolBits w a.toNat n) = a.rotateLeft n := by
  have hk : n % w ≤ w := Nat.le_of_lt (Nat.mod_lt n hw)
  have hlt : a.toNat / 2 ^ (w - n % w) < 2 ^ (n % w) := by
    rw [Nat.div_lt_iff_lt_mul (Nat.two_pow_pos _), ← Nat.pow_add, Nat.add_sub_cancel' hk]
    exact a.isLt
  refine BitVec.eq_of_toNat_eq ?_
  rw [rolBits, ← Nat.shiftLeft_eq, Nat.shiftLeft_add_eq_or_of_lt hlt, BitVec.rotateLeft_def, BitVec.toNat_ofNat, Nat.mod_mod,
    BitVec.toNat_or, BitVec.toNat_shiftLeft, BitVec.toNat_ushiftRight, Nat.or_mod_two_pow, ← Nat.shiftRight_eq_div_pow,
    Nat.mod_eq_of_lt (Nat.lt_of_le_of_lt (Nat.shiftRight_le ..) a.isLt)]

/-- To the right by n is to the left by w less n. -/
theorem ofNat_rorBits (hw : 0 < w) : BitVec.ofNat w (rorBits w a.toNat n) = a.rotateRight n := by
  have hk := Nat.mod_lt n hw
  rw [rorBits, ofNat_rolBits a _ hw, BitVec.rotateLeft_def, BitVec.rotateRight_def]
  by_cases h : n % w = 0
  case pos => simp [h, BitVec.ushiftRight_eq_zero (x := a) (Nat.le_refl w)]
  case neg => rw [Nat.mod_eq_of_lt (a := w - n % w) (by omega), Nat.sub_sub_self (Nat.le_of_lt hk), BitVec.or_comm]

end

/-! ## Counts (R92) -/

/-- What `takeWhile` takes of a list is as long as the condition holds from the front. -/
theorem takeWhile_length_spec {α : Type} (p : α → Bool) : ∀ l : List α,
    (l.takeWhile p).length ≤ l.length ∧ (∀ (k : Nat) (x : α), k < (l.takeWhile p).length → l[k]? = some x → p x = true) ∧
      (∀ x : α, l[(l.takeWhile p).length]? = some x → p x = false)
  | [] => by simp
  | y :: r => by
    obtain ⟨hle, hin, hend⟩ := takeWhile_length_spec p r
    cases hy : p y with
    | false => simp [hy]
    | true =>
      simp only [List.takeWhile_cons, hy, if_true, List.length_cons]
      refine ⟨by omega, fun k x hk hx => ?_, fun x hx => hend x (by simpa using hx)⟩
      cases k with
      | zero => cases hx; exact hy
      | succ k => exact hin k x (by omega) (by simpa using hx)

theorem bitList_length (w a : Nat) : (bitList w a).length = w := by simp [bitList]

theorem bitList_get {w a k : Nat} (hk : k < w) : (bitList w a)[k]? = some (a.testBit k) := by simp [bitList, hk]

theorem bitList_reverse_get {w a k : Nat} (hk : k < w) : (bitList w a).reverse[k]? = some (a.testBit (w - 1 - k)) := by
  rw [List.getElem?_reverse (by simpa [bitList] using hk), bitList_length, bitList_get (by omega)]

theorem popcBits_eq (w a : Nat) : popcBits w a = ((List.range w).filter (fun k => a.testBit k)).length := by
  simp only [popcBits, bitList, List.filter_map, List.length_map]
  rfl

theorem ctzBits_spec (w a : Nat) : ctzBits w a ≤ w ∧ (∀ k, k < ctzBits w a → a.testBit k = false) ∧
    (ctzBits w a < w → a.testBit (ctzBits w a) = true) := by
  obtain ⟨hle, hin, hend⟩ := takeWhile_length_spec (!·) (bitList w a)
  rw [bitList_length] at hle
  exact ⟨hle, fun k hk => by simpa using hin k _ hk (bitList_get (Nat.lt_of_lt_of_le hk hle)),
    fun hlt => by simpa [ctzBits] using hend _ (bitList_get hlt)⟩

theorem clzBits_spec (w a : Nat) : clzBits w a ≤ w ∧ (∀ k, k < clzBits w a → a.testBit (w - 1 - k) = false) ∧
    (clzBits w a < w → a.testBit (w - 1 - clzBits w a) = true) := by
  obtain ⟨hle, hin, hend⟩ := takeWhile_length_spec (!·) (bitList w a).reverse
  rw [List.length_reverse, bitList_length] at hle
  exact ⟨hle, fun k hk => by simpa using hin k _ hk (bitList_reverse_get (Nat.lt_of_lt_of_le hk hle)),
    fun hlt => by simpa [clzBits] using hend _ (bitList_reverse_get hlt)⟩

theorem testBit_foldr_bits : ∀ (l : List Bool) (k : Nat) (b : Bool), l[k]? = some b →
    (l.foldr (fun (b : Bool) n => 2 * n + b.toNat) 0).testBit k = b
  | [], k, b, h => by cases h
  | c :: r, 0, b, h => by
    obtain rfl : c = b := by simpa using h
    rw [List.foldr_cons, Nat.testBit_zero]
    cases c <;> simp
  | c :: r, k + 1, b, h => by
    rw [List.foldr_cons, Nat.testBit_succ, Nat.mul_add_div (by decide), Nat.div_eq_of_lt (Bool.toNat_lt c), Nat.add_zero]
    exact testBit_foldr_bits r k b (by simpa using h)

/-- Bits read in front of one another: the last one read is the lowest. -/
theorem testBit_foldl_bits (l : List Bool) (k : Nat) (b : Bool) (h : l.reverse[k]? = some b) :
    (l.foldl (fun n (b : Bool) => 2 * n + b.toNat) 0).testBit k = b := by
  rw [List.foldl_eq_foldr_reverse]
  exact testBit_foldr_bits l.reverse k b h

theorem testBit_brevBits {w a k : Nat} (hk : k < w) : (brevBits w a).testBit k = a.testBit (w - 1 - k) :=
  testBit_foldl_bits _ k _ (bitList_reverse_get hk)

/-! ## Fields and bytes (R93, R94) -/

/-- A number put together from its bits. -/
theorem testBit_foldl_two_pow (f : Nat → Bool) : ∀ w : Nat,
    (List.range w).foldl (fun n k => n + (f k).toNat * 2 ^ k) 0 < 2 ^ w ∧
      ∀ k, ((List.range w).foldl (fun n k => n + (f k).toNat * 2 ^ k) 0).testBit k = (decide (k < w) && f k)
  | 0 => by simp
  | w + 1 => by
    obtain ⟨hlt, hbit⟩ := testBit_foldl_two_pow f w
    simp only [List.range_succ, List.foldl_append, List.foldl_cons, List.foldl_nil]
    generalize (List.range w).foldl (fun n k => n + (f k).toNat * 2 ^ k) 0 = m at hlt hbit ⊢
    have hb := Bool.toNat_le (f w)
    rw [Nat.add_comm, Nat.mul_comm]
    have hm := Nat.mul_le_mul_left (2 ^ w) hb
    refine ⟨by rw [Nat.pow_succ]; omega, fun k => ?_⟩
    rw [Nat.testBit_two_pow_mul_add _ hlt, hbit]
    split
    case isTrue h => simp [h, Nat.lt_succ_of_lt h]
    case isFalse h =>
      by_cases he : k = w
      · subst he; cases f k <;> simp
      · have h0 : k - w ≠ 0 := by omega
        have hn : ¬ k < w + 1 := by omega
        have h1 : Nat.testBit 1 (k - w) = false := Nat.testBit_lt_two_pow (Nat.one_lt_two_pow h0)
        cases f w <;> simp [hn, h1]

theorem testBit_bfiValue (w base value pos len k : Nat) : (bfiValue w base value pos len).testBit k =
    (decide (k < w) && if pos ≤ k ∧ k < pos + min len w then value.testBit (k - pos) else base.testBit k) := by
  have h := (testBit_foldl_two_pow (fun k => if pos ≤ k && k < pos + min len w then value.testBit (k - pos) else base.testBit k) w).2 k
  simpa only [bfiValue, Bool.and_eq_true, decide_eq_true_eq] using h

/-- The field that `bfx` extracts, read in its own width. -/
theorem bfxValue_spec {w pos len : Nat} (signed : Bool) (a : Int) (hl : 0 < min len w) :
    ∃ q : Int, a / (2 : Int) ^ pos = bfxValue w signed a pos len + q * (2 : Int) ^ (min len w) ∧
      intMin (min len w) signed ≤ bfxValue w signed a pos len ∧ bfxValue w signed a pos len ≤ intMax (min len w) signed := by
  have hp : (0 : Int) < 2 ^ min len w := Int.pow_pos (by decide)
  obtain ⟨f, hf⟩ : ∃ f : Nat, (f : Int) = a / 2 ^ pos % 2 ^ min len w := ⟨_, Int.toNat_of_nonneg (Int.emod_nonneg _ (Int.ne_of_gt hp))⟩
  have hlt : f < 2 ^ min len w := by exact_mod_cast hf ▸ Int.emod_lt_of_pos (a / 2 ^ pos) hp
  have hv : bfxValue w signed a pos len = readIn (min len w) signed f := by
    simp only [bfxValue, Nat.ne_of_gt hl, if_false, ← hf, Int.toNat_natCast, readIn, Nat.mod_eq_of_lt hlt]
  obtain ⟨hlo, hhi, k, hk⟩ := readIn_spec hl signed f
  have hdiv := Int.emod_add_mul_ediv (a / 2 ^ pos) (2 ^ min len w)
  rw [← hf] at hdiv
  exact ⟨a / 2 ^ pos / 2 ^ min len w - k, by rw [hv, hk, Int.sub_mul, Int.mul_comm (_ / _)]; omega, hv ▸ hlo, hv ▸ hhi⟩

theorem prmtByte_eq (x : W64) {nib : Nat} (hn : nib < 16) : prmtByte x nib =
    let byte := x.toNat / 256 ^ (nib % 8) % 256
    if nib < 8 then byte else if 128 ≤ byte then 255 else 0 := by
  have hp : 2 ^ (8 * (nib % 8)) = 256 ^ (nib % 8) := by rw [Nat.pow_mul]
  have hlt := Nat.mod_lt (x.toNat / 256 ^ (nib % 8)) (show 0 < 256 by decide)
  simp only [prmtByte, hp, beq_iff_eq]
  generalize x.toNat / 256 ^ (nib % 8) % 256 = b at hlt ⊢
  have h1 : nib / 8 % 2 = 0 ↔ nib < 8 := by omega
  have h2 : b / 128 = 1 ↔ 128 ≤ b := by omega
  simp only [h1, h2]

theorem prmtByte_lt (x : W64) (nib : Nat) : prmtByte x nib < 256 := by
  unfold prmtByte
  dsimp only
  split
  · exact Nat.mod_lt _ (by decide)
  · split <;> decide

/-- Byte i of the result is the one that nibble i selects. -/
theorem prmtValue_byte (x : W64) (sel : Nat) {i : Nat} (hi : i < 4) :
    prmtValue x sel / 256 ^ i % 256 = prmtByte x (sel / 16 ^ i % 16) := by
  have h0 := prmtByte_lt x (sel % 16)
  have h1 := prmtByte_lt x (sel / 16 % 16)
  have h2 := prmtByte_lt x (sel / 256 % 16)
  have h3 := prmtByte_lt x (sel / 4096 % 16)
  unfold prmtValue
  obtain rfl | rfl | rfl | rfl : i = 0 ∨ i = 1 ∨ i = 2 ∨ i = 3 := by omega
  all_goals simp only [Nat.reducePow, Nat.div_one]; omega

/-- Settles O22. -/
theorem shiftAndFieldValues : Obligations.ShiftAndFieldValues := by
  refine ⟨fun w n a hw => ⟨ofNat_shlBits a n, ofNat_shrBits a n, ofNat_sarBits a n hw, ofNat_rolBits a n hw, ofNat_rorBits a n hw⟩,
    fun w a _ => ?_, fun w pos len k base value _ => testBit_bfiValue .., fun w pos len signed a hl => bfxValue_spec signed a hl,
    fun x sel i hi => ?_⟩
  · obtain ⟨hc, hcz, hc1⟩ := clzBits_spec w a
    obtain ⟨ht, htz, ht1⟩ := ctzBits_spec w a
    exact ⟨popcBits_eq w a, hc, hcz, hc1, ht, htz, ht1, fun k hk => testBit_brevBits hk⟩
  · rw [prmtValue_byte x sel hi]
    exact prmtByte_eq x (Nat.mod_lt _ (by decide))

end Sys2Proof.Machine
end

section
/-! Floating point (O24 to O27): the arithmetic and the one-operand instructions, conversions and narrow formats are `runAlu` with the
stated writes; and what a NaN operand gives (R35, R121, R124). -/

namespace Sys2Proof.Machine

open Sys2Proof

/-! ## Writes of one F32 value, and with the seed's advance (R40) -/

theorem lo32_ofNat (n : Nat) : lo32 (BitVec.ofNat 64 n) = BitVec.ofNat 32 n := by
  refine BitVec.eq_of_toNat_eq ?_
  simp only [lo32, BitVec.extractLsb'_toNat, Nat.shiftRight_zero, BitVec.toNat_ofNat]
  omega

theorem resultAs_f32 (d n : Nat) : resultAs 0x10 d (BitVec.ofNat 64 n) = [(d, { val := BitVec.ofNat 32 n, tag := .f32 })] := by
  rw [← lo32_ofNat]; rfl

/-- An instruction whose writes are registers of its destination, and the seed's advance where it rounds stochastically. -/
theorem computes_seeded {i : Instr} {us : List RegUse} {o : Long} {d n : Nat} {r r' : Cur → List (Nat × Reg)}
    (hx : ∀ s, exec i s = runAlu i (sigR (us ++ useDst d n)) (fun c => outSeed o.rnd c (r c)) s)
    (hi : isControl i = false) (hr : ∀ c, r' c = r c) (hp : ∀ c, Placed d n (r c)) :
    Computes i (sigR (us ++ useDst d n))
      (fun c => { regs := r' c, seed := if o.rnd = 4 then some (c.th.seed + 1) else none }) := by
  simp only [hr]
  simp only [outSeed, seedAfter, beq_iff_eq] at hx
  exact computes_regs d n hx hi (by simp [sigR, useDst]) (by simp) hp

theorem placed_floatResult (t : BitVec 6) (d : Nat) (es : List Nat) : Placed d (tyRegs t) (floatResult t d es) :=
  placed_resultAs_tyRegs ..

/-! ## Arithmetic (R122 to R124) -/

theorem computes_floatA {i : Instr} {o : Short} {f : ElemOp} (hx : ∀ s, exec i s = floatA i o f s) (hi : isControl i = false) :
    Computes i (sigR (useTyped 0x10 (.v o.d.toNat) ++ useTyped 0x10 (.v o.s.toNat) ++ useDst o.d.toNat 1)) (fun c =>
      outR [(o.d.toNat, { val := BitVec.ofNat 32 (f fmtF32 0 0 false (readV c.th o.d.toNat).val.toNat (readV c.th o.s.toNat).val.toNat)
                          tag := .f32 })]) := by
  simp only [floatA, resultAs_f32] at hx
  exact computes_regs o.d.toNat 1 hx hi (by simp [sigR, useDst]) (by simp [outR]) (fun _ => placed_one _ _ _ (by decide))

/-- Element e of an operand with its sign flipped as asked. -/
def signedElem (t : BitVec 6) (neg : Bool) (c : Cur) (o : Opd) (e : Nat) : Nat :=
  flipSign (floatFmt t) neg ((floatElems c t o).getD e 0)

/-- An operation over the elements of an operand. -/
theorem map_range_elems (t : BitVec 6) (neg : Bool) (c : Cur) (o : Opd) (f g : Nat → Nat) (h : ∀ e, e < floatCount t → f e = g e) :
    (List.range (floatCount t)).map f = (List.range ((floatElems c t o).map (flipSign (floatFmt t) neg)).length).map g := by
  rw [List.length_map, floatElems_length]
  exact List.map_congr_left fun e he => h e (List.mem_range.mp he)

theorem computes_floatLong {i : Instr} {o : Long} {f : ElemOp} (hx : ∀ s, exec i s = floatLong i o f s) (hi : isControl i = false) :
    Computes i (sigR (useTyped o.sub (srcA o) ++ useTyped o.sub (srcB o o.sub) ++ useDst o.dst.toNat (tyRegs o.sub))) (fun c =>
      { regs := floatResult o.sub o.dst.toNat ((List.range (floatCount o.sub)).map (fun e => f (floatFmt o.sub) o.rnd
          (randomBits o.rnd c e) o.sat (signedElem o.sub o.na c (srcA o) e) (signedElem o.sub o.nb c (srcB o o.sub) e)))
        seed := if o.rnd = 4 then some (c.th.seed + 1) else none }) :=
  computes_seeded hx hi (fun c => congrArg _ (map_range_elems o.sub o.na c (srcA o) _ _ fun e he => by
    simp only [getD_map_flipSign _ _ _ _ _ he, signedElem])) (fun _ => placed_floatResult ..)

theorem computes_floatFma {i : Instr} {o : Long} (hx : ∀ s, exec i s = floatFma i o s) (hi : isControl i = false) :
    Computes i (sigR (useTyped o.sub (srcA o) ++ useTyped o.sub (srcB o o.sub) ++ useTyped o.sub (srcC o)
      ++ useDst o.dst.toNat (tyRegs o.sub))) (fun c =>
      { regs := floatResult o.sub o.dst.toNat ((List.range (floatCount o.sub)).map (fun e => fmaElem (floatFmt o.sub) o.rnd
          (randomBits o.rnd c e) o.sat (signedElem o.sub o.na c (srcA o) e) (signedElem o.sub o.nb c (srcB o o.sub) e)
          (signedElem o.sub (negC o) c (srcC o) e)))
        seed := if o.rnd = 4 then some (c.th.seed + 1) else none }) :=
  computes_seeded hx hi (fun c => congrArg _ (map_range_elems o.sub o.na c (srcA o) _ _ fun e he => by
    simp only [getD_map_flipSign _ _ _ _ _ he, signedElem])) (fun _ => placed_floatResult ..)

/-- Settles O24. -/
theorem floatArithmetic : Obligations.FloatArithmetic :=
  ⟨fun _ => ⟨computes_floatA (fun _ => rfl) rfl, computes_floatA (fun _ => rfl) rfl, computes_floatA (fun _ => rfl) rfl,
      computes_floatA (fun _ => rfl) rfl, computes_floatA (fun _ => rfl) rfl, computes_floatA (fun _ => rfl) rfl⟩,
    fun _ => ⟨fun _ => ⟨computes_floatLong (fun _ => rfl) rfl, computes_floatLong (fun _ => rfl) rfl,
        computes_floatLong (fun _ => rfl) rfl, computes_floatLong (fun _ => rfl) rfl, computes_floatLong (fun _ => rfl) rfl,
        computes_floatLong (fun _ => rfl) rfl, computes_floatFma (fun _ => rfl) rfl⟩,
      fun _ => ⟨computes_floatLong (fun _ => rfl) rfl, computes_floatLong (fun _ => rfl) rfl,
        computes_floatLong (fun _ => rfl) rfl, computes_floatLong (fun _ => rfl) rfl, computes_floatLong (fun _ => rfl) rfl,
        computes_floatFma (fun _ => rfl) rfl⟩,
      fun _ => ⟨computes_floatLong (fun _ => rfl) rfl, computes_floatLong (fun _ => rfl) rfl,
        computes_floatLong (fun _ => rfl) rfl, computes_floatLong (fun _ => rfl) rfl, computes_floatFma (fun _ => rfl) rfl⟩⟩⟩

/-! ## One operand (R126 to R130) -/

theorem computes_floatA1 {i : Instr} {o : Short} {f : ElemFn} {g : W32 → W32} (hx : ∀ s, exec i s = floatA1 i o f s)
    (hi : isControl i = false) (hg : ∀ a : W32, BitVec.ofNat 32 (f fmtF32 0 false a.toNat) = g a) :
    Computes i (sigR (useTyped 0x10 (.v o.s.toNat) ++ useDst o.d.toNat 1)) (fun c =>
      outR [(o.d.toNat, { val := g (readV c.th o.s.toNat).val, tag := .f32 })]) := by
  simp only [← hg]
  simp only [floatA1, resultAs_f32] at hx
  exact computes_regs o.d.toNat 1 hx hi (by simp [sigR, useDst]) (by simp [outR]) (fun _ => placed_one _ _ _ (by decide))

theorem computes_floatLong1 {i : Instr} {o : Long} {f : ElemFn} (hx : ∀ s, exec i s = floatLong1 i o f s)
    (hi : isControl i = false) :
    Computes i (sigR (useTyped o.sub (srcA o) ++ useDst o.dst.toNat (tyRegs o.sub))) (fun c =>
      outR (resultAs o.sub o.dst.toNat (BitVec.ofNat 64 (f (floatFmt o.sub) o.rnd o.sat
        (flipSign (floatFmt o.sub) o.na (opdNat c (ty64 o.sub) (srcA o))))))) :=
  computes_resultAs hx hi (fun _ => rfl)

/-- A picked result is an F32 code. -/
theorem ofNat_pickFn (f : W32 → W32) (a : W32) : BitVec.ofNat 32 (pickFn f fmtF32 0 false a.toNat) = f a := by
  simp only [pickFn, BitVec.ofNat_toNat, BitVec.setWidth_eq]

theorem computes_pickLong {i : Instr} {o : Long} {f : W32 → W32} (hx : ∀ s, exec i s = floatLong1 i o (pickFn f) s)
    (hi : isControl i = false) :
    Computes i (sigR (useTyped o.sub (srcA o) ++ useDst o.dst.toNat (tyRegs o.sub))) (fun c =>
      outR (resultAs o.sub o.dst.toNat ((f (BitVec.ofNat 32
        (flipSign (floatFmt o.sub) o.na (opdNat c (ty64 o.sub) (srcA o))))).setWidth 64))) := by
  simpa only [pickFn, BitVec.ofNat_toNat] using computes_floatLong1 hx hi

theorem computes_fclassA (o : Short) : Computes (.fclassA o) (sigR (useTyped 0x10 (.v o.s.toNat) ++ useDst o.d.toNat 1)) (fun c =>
    outR [(o.d.toNat, { val := BitVec.ofNat 32 (classMask (readV c.th o.s.toNat).val.toNat), tag := .b32 })]) :=
  computes_regs o.d.toNat 1 (fun _ => rfl) rfl (by simp [sigR, useDst]) (by simp [outR]) (fun _ => placed_one _ _ _ (by decide))

theorem computes_fclass (o : Long) : Computes (.fclass o) (sigR (useTyped 0x10 (srcA o) ++ useDst o.dst.toNat 1)) (fun c =>
    outR [(o.dst.toNat, { val := BitVec.ofNat 32 (classMask (opdNat c false (srcA o))), tag := .b32 })]) :=
  computes_regs o.dst.toNat 1 (fun _ => rfl) rfl (by simp [sigR, useDst]) (by simp [outR]) (fun _ => placed_one _ _ _ (by decide))

/-- Settles O25. -/
theorem floatFunctions : Obligations.FloatFunctions :=
  ⟨fun o => ⟨computes_floatA1 (f := rcpFn) (fun _ => rfl) rfl (fun _ => rfl), computes_floatA1 (fun _ => rfl) rfl (ofNat_pickFn _),
      computes_floatA1 (f := sqrtFn) (fun _ => rfl) rfl (fun _ => rfl), computes_floatA1 (fun _ => rfl) rfl (ofNat_pickFn _),
      computes_floatA1 (fun _ => rfl) rfl (ofNat_pickFn _), computes_floatA1 (fun _ => rfl) rfl (ofNat_pickFn _),
      computes_floatA1 (fun _ => rfl) rfl (ofNat_pickFn _), computes_floatA1 (f := rndFn) (fun _ => rfl) rfl (fun _ => rfl),
      computes_floatA1 (f := frcFn) (fun _ => rfl) rfl (fun _ => rfl), computes_fclassA o⟩,
    fun o => ⟨computes_floatLong1 (f := rcpFn) (fun _ => rfl) rfl, computes_pickLong (fun _ => rfl) rfl,
      computes_floatLong1 (f := sqrtFn) (fun _ => rfl) rfl, computes_floatLong1 (f := sqrtFn) (fun _ => rfl) rfl,
      computes_pickLong (fun _ => rfl) rfl, computes_pickLong (fun _ => rfl) rfl, computes_pickLong (fun _ => rfl) rfl,
      computes_pickLong (fun _ => rfl) rfl, computes_floatLong1 (f := rndFn) (fun _ => rfl) rfl,
      computes_floatLong1 (f := rndFn) (fun _ => rfl) rfl, computes_floatLong1 (f := frcFn) (fun _ => rfl) rfl, computes_fclass o⟩⟩

/-! ## NaN operands (R35, R121, R124) -/

theorem addNum_nan_right (mode : Nat) (x : Num) : addNum mode x .nan = .nan := by cases x <;> rfl
theorem mulNum_nan_right (x : Num) : mulNum x .nan = .nan := by cases x <;> rfl
theorem divNum_nan_right (x : Num) : divNum x .nan = .nan := by cases x <;> rfl

theorem addNum_nan {x y : Num} (mode : Nat) (h : x = .nan ∨ y = .nan) : addNum mode x y = .nan := by
  rcases h with rfl | rfl
  · rfl
  · exact addNum_nan_right mode x

theorem mulNum_nan {x y : Num} (h : x = .nan ∨ y = .nan) : mulNum x y = .nan := by
  rcases h with rfl | rfl
  · rfl
  · exact mulNum_nan_right x

theorem divNum_nan {x y : Num} (h : x = .nan ∨ y = .nan) : divNum x y = .nan := by
  rcases h with rfl | rfl
  · rfl
  · exact divNum_nan_right x

/-- A minimum or maximum with one NaN is the other operand; with two it is the canonical NaN (R124). -/
theorem minmaxElem_nan {f : Fmt} {a b : Nat} (isMax : Bool) (ha : decodeNum f a = .nan) :
    (decodeNum f b ≠ .nan → minmaxElem f isMax a b = b ∧ minmaxElem f isMax b a = b) ∧
    (decodeNum f b = .nan → minmaxElem f isMax a b = fmtNan f) := by
  unfold minmaxElem
  cases hb : decodeNum f b <;> simp [ha]

/-- The approximated functions give the canonical F32 NaN (R128). -/
theorem pickElem_nan {x : W32} (h : decodeNum fmtF32 x.toNat = .nan) : frsqElem x = canonF32 ∧ fex2Elem x = canonF32 ∧
    flg2Elem x = canonF32 ∧ fsinElem x = canonF32 ∧ fcosElem x = canonF32 := by
  simp only [frsqElem, fex2Elem, flg2Elem, fsinElem, fcosElem, h, and_self]

/-- Settles O26: every exact operation keeps a NaN, and rounding gives the canonical one. -/
theorem nanResults : Obligations.NanResults := by
  intro f mode r sat a b c
  refine ⟨fun h => ?_, fun h => ?_, fun h => ⟨?_, ?_, minmaxElem_nan sat h⟩, fun h x hx => pickElem_nan (hx ▸ h), rfl, rfl, rfl, rfl⟩
  · exact ⟨by rw [addElem, addNum_nan mode h]; rfl, by rw [mulElem, mulNum_nan h]; rfl, by rw [divElem, divNum_nan h]; rfl,
      by rw [fmaElem, mulNum_nan h]; rfl⟩
  · rw [fmaElem, h, addNum_nan_right]; rfl
  · rw [sqrtElem, h]; rfl
  · rw [integralElem, h]

/-! ## Scaling, conversions, packing (R131 to R134) -/

/-- The third source of the C form. -/
theorem scaleThird_of_c {o : Long} (h : o.form = .c) : scaleThird o = some (srcC o) := by rw [scaleThird, h]

theorem scaleThird_of_ne {o : Long} (h : o.form ≠ .c) : scaleThird o = none := by
  unfold scaleThird
  split
  · exact absurd ‹_› h
  · rfl

/-- Registers of a scaling instruction. -/
abbrev sigScale (o : Long) (t u : BitVec 6) (k : Nat) : Sig :=
  sigR (useTyped t (srcA o) ++ useTyped 0x00 (scaleOpd o) ++ (if o.form = .c then useTyped u (srcC o) else []) ++ useDst o.dst.toNat k)

theorem computes_fscale (o : Long) : Computes (.fscale o) (sigScale o 0x10 0x10 1) (fun c =>
    { regs := resultAs 0x10 o.dst.toNat (BitVec.ofNat 64 (scaleElem o.rnd (randomBits o.rnd c 0) o.sat
        (flipSign fmtF32 o.na (opdNat c false (srcA o))) (clampInt (-2000) 2000 (opdInt c 0x00 (scaleOpd o)))
        (if o.form = .c then some (opdNat c false (srcC o)) else none)))
      seed := if o.rnd = 4 then some (c.th.seed + 1) else none }) := by
  refine computes_seeded (fun s => ?_) rfl (fun _ => rfl) (fun _ => placed_resultAs_tyRegs 0x10 _ _)
  show execFscale o s = _
  by_cases h : o.form = .c
  · simp only [execFscale, scaleThird_of_c h, if_pos h] <;> rfl
  · simp only [execFscale, scaleThird_of_ne h, if_neg h] <;> rfl

theorem computes_fqnt (o : Long) : Computes (.fqnt o) (sigScale o 0x10 0x02 2) (fun c =>
    { regs := resultAs 0x02 o.dst.toNat (intResult 0x02 o.sat (quantise o.rnd (randomBits o.rnd c 0)
        (flipSign fmtF32 o.na (opdNat c false (srcA o))) (clampInt (-126) 127 (opdInt c 0x00 (scaleOpd o)))
        + (if o.form = .c then opdInt c 0x02 (srcC o) else 0)))
      seed := if o.rnd = 4 then some (c.th.seed + 1) else none }) := by
  refine computes_seeded (fun s => ?_) rfl (fun _ => rfl) (fun _ => placed_resultAs_tyRegs 0x02 _ _)
  show execFqnt o s = _
  by_cases h : o.form = .c
  · simp only [execFqnt, scaleThird_of_c h, if_pos h] <;> rfl
  · simp only [execFqnt, scaleThird_of_ne h, if_neg h, Int.add_zero] <;> rfl

theorem computes_fdeq (o : Long) : Computes (.fdeq o) (sigScale o 0x02 0x02 1) (fun c =>
    { regs := resultAs 0x10 o.dst.toNat (BitVec.ofNat 64 (dequantise o.rnd (randomBits o.rnd c 0) o.sat
        (opdInt c 0x02 (srcA o) + (if o.form = .c then opdInt c 0x02 (srcC o) else 0))
        (clampInt (-126) 127 (opdInt c 0x00 (scaleOpd o)))))
      seed := if o.rnd = 4 then some (c.th.seed + 1) else none }) := by
  refine computes_seeded (fun s => ?_) rfl (fun _ => rfl) (fun _ => placed_resultAs_tyRegs 0x10 _ _)
  show execFdeq o s = _
  by_cases h : o.form = .c
  · simp only [execFdeq, scaleThird_of_c h, if_pos h] <;> rfl
  · simp only [execFdeq, scaleThird_of_ne h, if_neg h, Int.add_zero] <;> rfl

/-- The source type of a conversion. -/
abbrev cvtFrom (o : Long) : BitVec 6 := o.sb.setWidth 6

theorem computes_cvt_scalar {o : Long} (h : floatCount (cvtFrom o) = 1) :
    Computes (.cvt o) (sigR (useTyped (cvtFrom o) (srcA o) ++ useDst o.dst.toNat (tyTags o.sub).length)) (fun c =>
      { regs := resultAs o.sub o.dst.toNat (BitVec.ofNat 64 (widenResult o.sub (convertScalar o.sub (cvtFrom o) o.rnd
          (randomBits o.rnd c 0) o.sat (opdNat c (ty64 (cvtFrom o)) (srcA o)))))
        seed := if o.rnd = 4 then some (c.th.seed + 1) else none }) :=
  computes_seeded (fun _ => rfl) rfl (fun c => (if_neg (by rw [h]; decide)).symm)
    (fun c => by rw [if_neg (by rw [h]; decide)]; exact placed_resultAs_tags ..)

theorem computes_cvt_packed {o : Long} (h : 1 < floatCount (cvtFrom o)) :
    Computes (.cvt o) (sigR (useTyped (cvtFrom o) (srcA o) ++ useDst o.dst.toNat (tyTags o.sub).length)) (fun c =>
      { regs := floatResult o.sub o.dst.toNat ((List.range (floatCount (cvtFrom o))).map (fun e =>
          convertFloat (floatFmt (cvtFrom o)) (floatFmt o.sub) o.rnd (randomBits o.rnd c e) o.sat
            ((floatElems c (cvtFrom o) (srcA o)).getD e 0)))
        seed := if o.rnd = 4 then some (c.th.seed + 1) else none }) :=
  computes_seeded (fun _ => rfl) rfl (fun c => by rw [if_pos h]; dsimp only; rw [floatElems_length])
    (fun c => by rw [if_pos h]; exact placed_resultAs_tags ..)

theorem computes_pack_all {o : Long} (h : o.form = .b) : Computes (.pack o)
    (sigR (useOpd (.v o.sa.toNat) (packCount o.sub) (List.replicate (packCount o.sub) (unpackedTag o.sub)) ++ useDst o.dst.toNat 1))
    (fun c =>
      { regs := result32 o.dst.toNat (BitVec.ofNat 32 (packElements (packWidth o.sub) ((List.range (packCount o.sub)).map (fun e =>
          narrowElem o.sub o.rnd (randomBits o.rnd c e) o.sat (flipSign fmtF32 o.na (readV c.th (o.sa.toNat + e)).val.toNat)))))
          (packTag o.sub)
        seed := if o.rnd = 4 then some (c.th.seed + 1) else none }) := by
  refine computes_seeded (fun s => ?_) rfl (fun _ => rfl) (fun _ => placed_one _ _ _ (by decide))
  show execPack o s = _
  simp only [execPack, h] <;> rfl

theorem computes_pack_one {o : Long} (h : o.form = .c) : Computes (.pack o)
    (sigR (useOpd (srcA o) 1 [unpackedTag o.sub] ++ useOpd (.v o.dst.toNat) 1 [packTag o.sub] ++ useDst o.dst.toNat 1))
    (fun c =>
      { regs := result32 o.dst.toNat (BitVec.ofNat 32 (packElements (packWidth o.sub)
          ((packedElems o.sub (readV c.th o.dst.toNat).val).set o.imm.toNat (narrowElem o.sub o.rnd (randomBits o.rnd c o.imm.toNat)
            o.sat (flipSign fmtF32 o.na (opdNat c false (srcA o))))))) (packTag o.sub)
        seed := if o.rnd = 4 then some (c.th.seed + 1) else none }) := by
  refine computes_seeded (fun s => ?_) rfl (fun _ => rfl) (fun _ => placed_one _ _ _ (by decide))
  show execPack o s = _
  simp only [execPack, h] <;> rfl

theorem computes_unpk_one {o : Long} (h : o.form = .bi) : Computes (.unpk o)
    (sigR (useOpd (srcA o) 1 [packTag o.sub] ++ useDst o.dst.toNat 1)) (fun c => outR [(o.dst.toNat,
      { val := BitVec.ofNat 32 (widenElem o.sub ((packedElems o.sub (opd32 c (srcA o))).getD o.imm.toNat 0))
        tag := unpackedTag o.sub })]) := by
  refine computes_regs o.dst.toNat 1 (fun s => ?_) rfl (by simp [sigR, useDst]) (by simp [outR]) (fun _ => placed_one _ _ _ (by decide))
  show execUnpk o s = _
  simp only [execUnpk, h]

theorem computes_unpk_all {o : Long} (h : o.form = .b) : Computes (.unpk o)
    (sigR (useOpd (srcA o) 1 [packTag o.sub] ++ useDst o.dst.toNat (packCount o.sub))) (fun c =>
      outR ((List.range (packCount o.sub)).map (fun e => (o.dst.toNat + e,
        { val := BitVec.ofNat 32 (widenElem o.sub ((packedElems o.sub (opd32 c (srcA o))).getD e 0)), tag := unpackedTag o.sub })))) := by
  refine computes_regs o.dst.toNat _ (fun s => ?_) rfl (by simp [sigR, useDst]) (by simp [outR])
    (fun _ => placed_range _ _ _ _ (Nat.le_refl _))
  show execUnpk o s = _
  simp only [execUnpk, h]

/-! ## Dot products and the generator (R136 to R140) -/

/-- Byte j of the scale register. -/
abbrev scaleByte (o : Long) (c : Cur) (j : Nat) : Nat := opdNat c false (.v o.imm.toNat) / 256 ^ j % 256

/-- The scale of a dot product. -/
abbrev dotScale (o : Long) (c : Cur) : Num :=
  if o.modb.getLsbD 0 then mulNum (decodeE8M0 (scaleByte o c (o.modb.toNat / 2 % 4))) (decodeE8M0 (scaleByte o c (o.modb.toNat / 8 % 4)))
  else .fin false 1 0

/-- What a dot product writes, of integers or of floating-point elements. -/
theorem computes_dotLong {i : Instr} {o : Long} {eight : Bool} (hx : ∀ s, exec i s = dotLong i o eight s) (hi : isControl i = false)
    (int : Bool) (hn : int = if eight then o.sub.toNat % 8 == 1 else o.sub.toNat % 8 == 2) :
    let k := if eight then 8 else 4
    let b := regOpd o.kb o.sb
    let xs := fun (c : Cur) => elements (32 / k) k (opdNat c false (srcA o))
    let ys := fun (c : Cur) => elements (32 / k) k (opdNat c false b)
    Computes i (sigR (useOpd (srcA o) 1 [dotTag eight (o.sub.toNat % 8)] ++ useOpd b 1 [dotTag eight (o.sub.toNat / 8)]
        ++ useOpd (srcC o) 1 [if int then .b32 else .f32] ++ (if o.modb.getLsbD 0 then useOpd (.v o.imm.toNat) 1 [.scl] else [])
        ++ useDst o.dst.toNat 1))
      (fun c => if int then
          outR (resultAs 0x00 o.dst.toNat (intResult 0x00 o.sat (dotInt (32 / k) (xs c) (ys c) (opdInt c 0x00 (srcC o)))))
        else { regs := resultAs 0x10 o.dst.toNat (BitVec.ofNat 64 (dotFloat o.rnd (randomBits o.rnd c 0) o.sat (dotScale o c)
                 (dotFmt eight (o.sub.toNat % 8)) (dotFmt eight (o.sub.toNat / 8)) (xs c) (ys c) (opdNat c false (srcC o))))
               seed := if o.rnd = 4 then some (c.th.seed + 1) else none }) := by
  have hp : ∀ j, 2 ^ (8 * j) = 256 ^ j := fun j => by rw [Nat.pow_mul]
  dsimp only
  cases int with
  | true =>
    simp only [dotLong, ← hn, if_true] at hx
    exact computes_resultAs (t := 0x00) hx hi (fun _ => rfl)
  | false =>
    simp only [dotLong, ← hn, Bool.false_eq_true, if_false, hp] at hx
    exact computes_seeded hx hi (fun _ => rfl) (fun _ => placed_resultAs_tyRegs 0x10 _ _)

/-- Four registers, one write each. -/
theorem placed_four (d : Nat) (a b c e : Reg) : Placed d 4 [(d, a), (d + 1, b), (d + 2, c), (d + 3, e)] :=
  placed_range d 4 4 (fun j => [a, b, c, e].getD j noReg) (Nat.le_refl 4)

theorem computes_rngc (o : Long) : Computes (.rngc o)
    (sigR (useOpd (srcA o) 2 [.b32, .b32] ++ useOpd (.v o.sb.toNat) 4 [.b32, .b32, .b32, .b32] ++ useDst o.dst.toNat 4)) (fun c =>
      let w := fun j => (readV c.th (o.sb.toNat + j)).val
      let r := philox (opdReg c (srcA o) 0).val (opdReg c (srcA o) 1).val (w 0, w 1, w 2, w 3)
      outR [(o.dst.toNat, { val := r.1, tag := .b32 }), (o.dst.toNat + 1, { val := r.2.1, tag := .b32 }),
        (o.dst.toNat + 2, { val := r.2.2.1, tag := .b32 }), (o.dst.toNat + 3, { val := r.2.2.2, tag := .b32 })]) :=
  computes_regs o.dst.toNat 4 (fun _ => rfl) rfl (by simp [sigR, useDst]) (by simp [outR]) (fun _ => placed_four ..)

theorem computes_rngf (o : Long) : Computes (.rngf o)
    (sigR (useTyped 0x0A (srcA o) ++ (if o.sub == 2 then useTyped 0x0A (regOpd o.kb o.sb) else []) ++ useDst o.dst.toNat 1))
      (fun c => outR [(o.dst.toNat,
        { val := match o.sub.toNat with
            | 0 => BitVec.ofNat 32 (roundFin fmtF32 0 0 false false (unit24 (opd32 c (srcA o))) (-24))
            | 1 => BitVec.ofNat 32 (roundFin fmtF32 0 0 false false (unit24 (opd32 c (srcA o)) + 1) (-24))
            | _ => nrmElem (opd32 c (srcA o)) (opd32 c (regOpd o.kb o.sb))
          tag := .f32 })]) :=
  computes_regs o.dst.toNat 1 (fun _ => rfl) rfl (by simp [sigR, useDst]) (by simp [outR]) (fun _ => placed_one _ _ _ (by decide))

/-- Settles O27. -/
theorem conversionsAndNarrow : Obligations.ConversionsAndNarrow := fun o =>
  ⟨computes_fscale o, computes_fqnt o, computes_fdeq o, computes_cvt_scalar, computes_cvt_packed, computes_pack_all, computes_pack_one,
    computes_unpk_one, computes_unpk_all,
    ⟨computes_dotLong (fun _ => rfl) rfl _ rfl, computes_dotLong (fun _ => rfl) rfl _ rfl⟩, computes_rngc o, computes_rngf o⟩

end Sys2Proof.Machine
end

section
/-! Bytes performed at their home (O7): what each byte of a write is stored as, and what every byte of memory reads as after it. -/

namespace Sys2Proof.Machine

open Sys2Proof Sys2Proof.Laws

/-! ## Bytes in handler frames (R118) -/

theorem anyHandler_eq_false {s : State} : anyHandler s = false ↔ ∀ t ∈ s.teams, ∀ th ∈ t.threads, th.handler = false := by
  simp [anyHandler]

/-- Without a thread in its handler no byte is one of a frame. -/
theorem frameByteAt_of_no_handler {s : State} (h : ∀ t ∈ s.teams, ∀ th ∈ t.threads, th.handler = false) (a : Nat) :
    frameByteAt s a = none := by
  unfold frameByteAt
  split
  case isTrue => rfl
  case isFalse =>
    refine List.findSome?_eq_none_iff.mpr fun t ht => ?_
    dsimp only
    split
    case isFalse => rfl
    case isTrue =>
      split
      case h_1 th hth => rw [h t ht th (List.mem_of_getElem? hth)]; rfl
      case h_2 => rfl

theorem storedByte_plain {s : State} (h : ∀ t ∈ s.teams, ∀ th ∈ t.threads, th.handler = false) (a : Nat) (b : Byte) :
    storedByte s a b = b := by
  rw [storedByte, frameByteAt_of_no_handler h]

theorem storedBytes_getD (s : State) (k : Nat) (bs : List Byte) {j : Nat} (hj : j < bs.length) :
    (storedBytes s k bs).getD j unlisted = storedByte s (k + j) (bs.getD j unlisted) := by
  cases h : anyHandler s with
  | false => rw [storedBytes_plain h, storedByte_plain (anyHandler_eq_false.mp h)]
  | true => simp [storedBytes, h, hj, List.getD]

theorem storedCells_eq (s : State) (ps : List (Nat × Byte)) :
    storedCells s ps = ps.map (fun p => (p.1, storedByte s p.1 p.2)) := by
  cases h : anyHandler s with
  | false => simp [storedCells_plain h, storedByte_plain (anyHandler_eq_false.mp h)]
  | true => simp [storedCells, h]

/-! ## Memory after cells put one by one -/

theorem memPut_append : ∀ (m : Memory) (ps qs : List (Nat × Byte)), memPut m (ps ++ qs) = memPut (memPut m ps) qs
  | _, [], _ => rfl
  | m, (k, b) :: r, qs => memPut_append (memSet m k b) r qs

theorem memGet_memPut_other {a : Nat} : ∀ {m : Memory} {ps : List (Nat × Byte)}, m.wf = true → (∀ p ∈ ps, p.1 ≠ a) →
    memGet (memPut m ps) a = memGet m a
  | _, [], _, _ => rfl
  | m, (k, b) :: r, hw, h => by
    obtain ⟨hk, hr⟩ := List.forall_mem_cons.mp h
    rw [memPut, memGet_memPut_other (memSet_wf m k b hw) hr, memGet_memSet m k a b hw, if_neg (Ne.symm hk)]

theorem readKey_one (s : State) (a : Nat) : readKey s a 1 = [memGet s.mem a] := rfl

theorem homeWrite_wf {s : State} (h : s.mem.wf = true) (asid k : Nat) (bs : List Byte) : (homeWrite s asid k bs).mem.wf = true := by
  rw [homeWrite_mem]
  exact memWrite_wf _ _ _ h

theorem homePut_wf {s : State} (h : s.mem.wf = true) (asid : Nat) (ps : List (Nat × Byte)) : (homePut s asid ps).mem.wf = true := by
  rw [homePut_mem]
  exact memPut_wf _ _ h

theorem readKey_homeWrite {s : State} (h : s.mem.wf = true) (asid k a : Nat) (bs : List Byte) : readKey (homeWrite s asid k bs) a 1 =
    if k ≤ a ∧ a < k + bs.length then [storedByte s a (bs.getD (a - k) unlisted)] else readKey s a 1 := by
  simp only [readKey_one, homeWrite_mem, memGet_memWrite _ _ _ _ h, storedBytes_length]
  split
  case isTrue hin =>
    rw [storedBytes_getD s k bs (by omega), show k + (a - k) = a by omega]
  case isFalse => rfl

theorem readKey_homePut_other {s : State} (h : s.mem.wf = true) (asid : Nat) {a : Nat} {ps : List (Nat × Byte)}
    (hp : ∀ p ∈ ps, p.1 ≠ a) : readKey (homePut s asid ps) a 1 = readKey s a 1 := by
  rw [readKey_one, readKey_one, homePut_mem, storedCells_eq]
  exact congrArg ([·]) (memGet_memPut_other h (List.forall_mem_map.mpr hp))

theorem readKey_homePut_last {s : State} (h : s.mem.wf = true) (asid a : Nat) (b : Byte) (ps : List (Nat × Byte)) :
    readKey (homePut s asid (ps ++ [(a, b)])) a 1 = [storedByte s a b] := by
  rw [readKey_one, homePut_mem, storedCells_eq, List.map_append, memPut_append]
  simp only [List.map_cons, List.map_nil, memPut, memGet_memSet _ _ _ _ (memPut_wf _ _ h), if_true]

/-- Settles O7: each byte of a write is `storedByte`, and `memGet` after it by the laws of the list that memory is. -/
theorem homeWritesOnlyItsBytes : Obligations.HomeWritesOnlyItsBytes := by
  refine ⟨fun s asid k a bs h => ⟨homeWrite_wf h asid k bs, readKey_homeWrite h asid k a bs⟩,
    fun s asid a ps h => ⟨homePut_wf h asid ps, readKey_homePut_other h asid⟩,
    fun s asid a b ps h => readKey_homePut_last h asid a b ps, fun s a b h => storedByte_plain h a b, fun s a i b hf => ?_⟩
  have hs : storedByte s a b = if i < 64 then memGet s.mem a else if i == 82 then b &&& 0x7F else b := by
    rw [storedByte, hf]; rfl
  refine ⟨fun hi => ?_, fun hi => ?_, fun hi hn => ?_⟩
  · rw [hs, if_pos hi, readKey_one]
  · rw [hs, hi]; rfl
  · rw [hs, if_neg (by omega), if_neg (by simpa using hn)]

end Sys2Proof.Machine
end

section
/-! Traps and the return from a handler (O13, O14, O15): the team and the thread as a trap leaves them, the notices and entries that
change no team, and the frame that `hret` restores. -/

namespace Sys2Proof.Machine

open Sys2Proof Sys2Proof.Laws

/-! ## A cohort of one (R99) -/

/-- The team with the number of its next cohort taken. -/
def cohortTaken (t : Team) : Team := { t with nextCohort := t.nextCohort + 1 }

/-- The thread in the cohort that it alone forms. -/
def aloneIn (t : Team) (th : Thread) : Thread := { th with cohort := t.nextCohort, path := [] }

theorem leaveCohort_eq {t : Team} {tid : Nat} {th : Thread} (h : getThread t tid = some th) :
    leaveCohort t tid = setThread (cohortTaken t) tid (aloneIn t th) := by
  rw [leaveCohort, h]; rfl

/-! ## What a trap leaves of the thread (R72, R386) -/

/-- The thread with its pending writes complete and nothing left of the instruction's wait. -/
def stoppedThread (s : State) (th : Thread) (tr : Trap) : Thread :=
  { settled th with
    syncing := none, freed := false, waited := 0, stall := 0, age := 0, reply := [], released := false,
    rel := th.rel.filter (fun r => !r.own), noFill := false, early := [], since := s.cycle,
    issued := if tr.unissued then th.issued else th.issued + 1, landing := if tr.lnd then none else th.landing }

/-- The thread as a trap finds it, in a cohort of one. -/
def trapThread (s : State) (t : Team) (th : Thread) (tr : Trap) : Thread := aloneIn t (stoppedThread s th tr)

/-- Its team. -/
def trapTeam (s : State) (t : Team) (tid : Nat) (th : Thread) (tr : Trap) : Team :=
  setThread (cohortTaken t) tid (trapThread s t th tr)

/-! ## v0 to v3 -/

theorem readV_congr {a b : Thread} (h : a.regs = b.regs) (n : Nat) : readV a n = readV b n := by rw [readV, readV, h]

/-- v0 to v3 of a thread replaced. -/
def putFour (th : Thread) (f : Nat → Reg) : Thread := writeV (writeV (writeV (writeV th 0 (f 0)) 1 (f 1)) 2 (f 2)) 3 (f 3)

theorem readV_putFour {th : Thread} (hl : 4 ≤ th.regs.length) (f : Nat → Reg) (n : Nat) :
    readV (putFour th f) n = if n < 4 then f n else readV th n := by
  unfold putFour
  split
  case isTrue h =>
    obtain rfl | rfl | rfl | rfl : n = 0 ∨ n = 1 ∨ n = 2 ∨ n = 3 := by omega
    · rw [readV_writeV_other (by decide), readV_writeV_other (by decide), readV_writeV_other (by decide), readV_writeV (by omega)]
    · rw [readV_writeV_other (by decide), readV_writeV_other (by decide), readV_writeV (by simp; omega)]
    · rw [readV_writeV_other (by decide), readV_writeV (by simp; omega)]
    · rw [readV_writeV (by simp; omega)]
  case isFalse h =>
    rw [readV_writeV_other (by omega), readV_writeV_other (by omega), readV_writeV_other (by omega), readV_writeV_other (by omega)]

/-- What handler entry puts into v0 to v3: the frame's address, the cause and zero (R118). -/
def handlerReg (a : W64) (cause : Nat) : Nat → Reg
  | 0 => { val := lo32 a, tag := .b32 }
  | 1 => { val := hi32 a, tag := .b32 }
  | 2 => { val := BitVec.ofNat 32 cause, tag := .b32 }
  | _ => { val := 0, tag := .b32 }

/-! ## The team and the thread of a trap -/

section
variable {s : State} {t : Team} {tid uid : Nat} {th : Thread} {tr : Trap} {c : Ctx}

theorem getThread_trapTeam (h : getThread t tid = some th) : getThread (trapTeam s t tid th tr) tid = some (trapThread s t th tr) :=
  getThread_setThread (t := cohortTaken t) h

theorem trapEntry_eq (h : getThread t tid = some th) : trapEntry s t tid th tr =
    (trapTeam s t tid th tr, trapThread s t th tr,
      recordOf s (trapTeam s t tid th tr) tid (trapThread s t th tr) tr) := by
  have hl : leaveCohort (setThread t tid (stoppedThread s th tr)) tid = trapTeam s t tid th tr :=
    (leaveCohort_eq (getThread_setThread h)).trans (setThread_twice (cohortTaken t) tid _ _)
  have he : trapEntry s t tid th tr =
      (let t1 := leaveCohort (setThread t tid (stoppedThread s th tr)) tid
       let th1 := (getThread t1 tid).getD (stoppedThread s th tr)
       (t1, th1, recordOf s t1 tid th1 tr)) := rfl
  simp only [he, hl, getThread_trapTeam h, Option.getD_some]

/-- The record that a trap leaves. -/
def trapRecord (s : State) (t : Team) (tid : Nat) (th : Thread) (tr : Trap) : Frc :=
  recordOf s (trapTeam s t tid th tr) tid (trapThread s t th tr) tr

/-- The thread as it leaves for its handler (R118). -/
def handlerThread (s : State) (t : Team) (tid : Nat) (th : Thread) (tr : Trap) : Thread :=
  { putFour (trapThread s t th tr) (handlerReg (windowAddr (chipId s) (teamCore t) (frameOff t tid)) (causeCode tr.cause)) with
    pc := hentOf t th, handler := true, st := .ready, frc := trapRecord s t tid th tr, begun := none }

theorem takeTrap_of_own (ht : getTeam s uid = some t) (hth : getThread t tid = some th) (hc : getCtx s t.asid = some c)
    (hg : th.st ≠ .gone) (hr : routeTrap s (trapTeam s t tid th tr) (trapThread s t th tr) tr = .own) :
    takeTrap s uid tid tr = setTeam (homeStore (setTeam s (trapTeam s t tid th tr)) t.asid (sliceKey (teamCore t) (frameOff t tid))
      (natBytes 128 (frameNat th (trapRecord s t tid th tr) (entryAction tr.cause))))
      (setThread (cohortTaken t) tid (handlerThread s t tid th tr)) := by
  simp only [takeTrap, ht, hth, hc, beq_iff_eq, hg, if_false, trapEntry_eq hth, hr]
  exact congrArg (setTeam _) (setThread_twice (cohortTaken t) tid _ _)

/-- The entry that a trap offers upward (R345). -/
def trapHqe (s : State) (t : Team) (tid : Nat) (th : Thread) (tr : Trap) (c : Ctx) : Hqe :=
  entryOf c (trapTeam s t tid th tr) tid (trapThread s t th tr) (trapRecord s t tid th tr)

/-- The thread PARKED where its entry was posted. -/
def parkedThread (s : State) (t : Team) (tid : Nat) (th : Thread) (tr : Trap) (p : Posted) : Thread :=
  { trapThread s t th tr with frc := trapRecord s t tid th tr, st := parkPosted p, begun := none }

theorem takeTrap_of_chain {cs : List Ctx} (ht : getTeam s uid = some t) (hth : getThread t tid = some th)
    (hc : getCtx s t.asid = some c) (hg : th.st ≠ .gone)
    (hr : routeTrap s (trapTeam s t tid th tr) (trapThread s t th tr) tr = .chain cs) :
    takeTrap s uid tid tr = setTeam (postEntry s (trapHqe s t tid th tr c) cs).2
      (setThread (cohortTaken t) tid (parkedThread s t tid th tr (postEntry s (trapHqe s t tid th tr c) cs).1)) := by
  simp only [takeTrap, ht, hth, hc, beq_iff_eq, hg, if_false, trapEntry_eq hth, hr]
  exact congrArg (setTeam _) (setThread_twice (cohortTaken t) tid _ _)

/-! ## Who receives it (R343) -/

theorem routeTrap_own (hh : tr.halt = false) (hp : tr.rpl = false) (hm : tr.cause ≠ .misalignedData)
    (hu : tr.cause ≠ .uncorrectable) (ht : t.trm.getLsbD (causeCode tr.cause) = true) (he : hentOf t th ≠ 0)
    (hn : th.handler = false) : routeTrap s t th tr = .own := by
  unfold routeTrap
  simp only [hh, hp, Bool.false_eq_true, if_false, ht, hn, Bool.not_false, Bool.and_true, Bool.true_and, bne_iff_ne, he, ne_eq,
    not_false_eq_true, if_true]

theorem routeTrap_parent (hh : tr.halt = false) (hp : tr.rpl = false)
    (h : tr.cause = .misalignedData ∨ tr.cause = .uncorrectable ∨ t.trm.getLsbD (causeCode tr.cause) = false ∨ hentOf t th = 0 ∨
      th.handler = true) : routeTrap s t th tr = .chain (parentChain s t.asid) := by
  unfold routeTrap
  simp only [hh, hp, Bool.false_eq_true, if_false]
  split
  case h_1 => rfl
  case h_2 => rfl
  case h_3 hm hu =>
    have hno : (t.trm.getLsbD (causeCode tr.cause) && hentOf t th != 0 && !th.handler) = false := by
      rcases h with h | h | h | h | h
      · exact absurd h hm
      · exact absurd h hu
      all_goals simp [h]
    rw [hno]; rfl

end

/-! ## Notices and entries change no team (R344, R392) -/

@[simp] theorem setPortRegs_teams (s : State) (p : Port) (r : PortRegs) : (setPortRegs s p r).teams = s.teams := by cases p <;> rfl

@[simp] theorem noticeAt_teams (s : State) (p : Port) (n : Notice) : (noticeAt s p n).teams = s.teams := by
  unfold noticeAt ringWrite
  dsimp only
  repeat' split
  all_goals simp

@[simp] theorem postNotice_teams (s : State) (n : Notice) : (postNotice s n).teams = s.teams := by simp [postNotice]

@[simp] theorem askNotice_teams (s : State) (n : Notice) (about : Concern) (rpl : Bool) (a : W64) (wr : Bool) :
    (askNotice s n about rpl a wr).2.teams = s.teams := by simp [askNotice]

@[simp] theorem postEntry_teams (s : State) : ∀ (cs : List Ctx) (h : Hqe), (postEntry s h cs).2.teams = s.teams
  | [], h => by
    unfold postEntry
    dsimp only
    split <;> simp
  | c :: rest, h => by
    unfold postEntry
    split
    case h_1 => split <;> rfl
    case h_2 => exact postEntry_teams s rest _

/-- Tables looked up in states with the same teams. -/
theorem getTeam_of_teams {s s' : State} (h : s'.teams = s.teams) (u : Nat) : getTeam s' u = getTeam s u := by rw [getTeam, getTeam, h]

/-! ## O13 and O14 -/

theorem handlerThread_regs (s : State) (t : Team) (tid : Nat) (th : Thread) (tr : Trap) : (handlerThread s t tid th tr).regs =
    (putFour (trapThread s t th tr)
      (handlerReg (windowAddr (chipId s) (teamCore t) (frameOff t tid)) (causeCode tr.cause))).regs := by simp only [handlerThread]

theorem readV_handlerThread {s : State} {t : Team} {tid : Nat} {th : Thread} {tr : Trap} (hl : 4 ≤ th.regs.length) (n : Nat) :
    readV (handlerThread s t tid th tr) n =
      if n < 4 then handlerReg (windowAddr (chipId s) (teamCore t) (frameOff t tid)) (causeCode tr.cause) n else readV th n := by
  rw [readV_congr (handlerThread_regs ..), readV_putFour (show 4 ≤ (trapThread s t th tr).regs.length from hl),
    readV_congr (a := trapThread s t th tr) (b := th) rfl]

/-- Settles O13: `takeTrap` goes to `enterHandler`, whose frame is the one write to memory and whose thread is `handlerThread`. -/
theorem trapEntersOwnHandler : Obligations.TrapEntersOwnHandler := by
  intro s uid tid t th c tr ht hth hc hg hl hh hp hm hu htr he hn a
  have hu' := getTeam_uid ht
  have hr := routeTrap_own (s := s) (t := trapTeam s t tid th tr) (th := trapThread s t th tr) hh hp hm hu htr he hn
  rw [takeTrap_of_own ht hth hc hg hr]
  generalize hs1 : homeStore _ _ _ _ = s1
  have hsame : ∀ u, getTeam s1 u = getTeam (setTeam s (trapTeam s t tid th tr)) u := fun u => hs1 ▸ same_getTeam (homeStore_same ..) u
  have ht1 : getTeam s1 uid = some (trapTeam s t tid th tr) := (hsame uid).trans (getTeam_setTeam ht hu')
  have hv := readV_handlerThread (s := s) (t := t) (tid := tid) (tr := tr) hl
  refine ⟨_, handlerThread s t tid th tr, getTeam_setTeam ht1 hu', getThread_setThread (t := cohortTaken t) hth,
    rfl, rfl, rfl, rfl, rfl, rfl, hv 0, hv 1, hv 2, hv 3, fun n hn => (hv n).trans (if_neg (by omega)), rfl, rfl, rfl, rfl, rfl, rfl, rfl, ?_, fun u hne => ?_⟩
  · rw [setTeam_mem, ← hs1, homeStore_mem]
    rfl
  · have hne' : t.uid ≠ u := by omega
    exact (getTeam_setTeam_other (t' := setThread (cohortTaken t) tid _) hne').trans ((hsame u).trans (getTeam_setTeam_other (t' := trapTeam s t tid th tr) hne'))

/-- Settles O14: `takeTrap` goes to `postEntry` with the parent's chain, which changes no team, and parks the thread. -/
theorem trapParksThread : Obligations.TrapParksThread := by
  intro s uid tid t th c tr ht hth hc hg hh hp hcase
  have hu := getTeam_uid ht
  have hr := routeTrap_parent (s := s) (t := trapTeam s t tid th tr) (th := trapThread s t th tr) hh hp hcase
  have hteams := fun u => getTeam_of_teams (postEntry_teams s (parentChain s t.asid) (trapHqe s t tid th tr c)) u
  rw [takeTrap_of_chain ht hth hc hg hr]
  refine ⟨trapHqe s t tid th tr c, _, _, _, rfl, rfl, rfl, rfl, rfl, rfl, congrArg (Concern.thread · tid) hu,
    getTeam_setTeam ((hteams uid).trans ht) hu, getThread_setThread (t := cohortTaken t) hth, rfl, rfl, rfl, rfl, rfl, rfl, rfl, rfl,
    fun u hne => ?_⟩
  have hne' : t.uid ≠ u := by omega
  exact (getTeam_setTeam_other (t' := setThread (cohortTaken t) tid _) hne').trans (hteams u)

/-! ## `hret` (R119) -/

/-- A thread's view differs from it in registers and predicates alone (R70). -/
theorem viewOf_frame (s : State) (th : Thread) : viewOf s th = { th with regs := (viewOf s th).regs, preds := (viewOf s th).preds } :=
  hazardView_induction (P := fun x => x = { th with regs := x.regs, preds := x.preds }) _ rfl _ fun h _ _ x hx => by
    unfold readOld
    split
    · exact congrArg (fun y : Thread => { y with preds := writePred x.preds h.num (h.old.val.getLsbD 0) }) hx
    · exact congrArg (fun y : Thread => { y with regs := x.regs.set h.num h.old }) hx

theorem viewOf_handler (s : State) (th : Thread) : (viewOf s th).handler = th.handler := by rw [viewOf_frame]

/-- What the frame of thread `tid` holds as v`n`. -/
def frameReg (s : State) (t : Team) (tid n : Nat) : Reg :=
  { val := BitVec.ofNat 32 (frameBits s t tid (512 + 32 * n + 31) (512 + 32 * n)),
    tag := codeTag (frameBits s t tid (640 + 4 * n + 3) (640 + 4 * n)) }

theorem readV_restoreFrame {s : State} {t : Team} {tid : Nat} {th : Thread} (hl : 4 ≤ th.regs.length) (n : Nat) :
    readV (restoreFrame s t tid th) n = if n < 4 then frameReg s t tid n else readV th n :=
  readV_putFour hl (frameReg s t tid) n

/-- The thread that `hret` leaves before its end. -/
def returnedThread (s : State) (t : Team) (tid : Nat) (th : Thread) : Thread :=
  { restoreFrame s t tid (settled (aloneIn t th)) with handler := false }

/-- Where ACTION of the frame sends the thread. -/
def returnPc (s : State) (t : Team) (tid : Nat) : W64 :=
  if frameBits s t tid 671 664 = 0 then BitVec.ofNat 64 (frameBits s t tid 511 448)
  else if frameBits s t tid 671 664 = 1 then
    BitVec.ofNat 64 (frameBits s t tid 511 448) + BitVec.ofNat 64 (4 * wordLen (BitVec.ofNat 32 (frameBits s t tid 383 352)))
  else BitVec.ofNat 64 (frameBits s t tid 767 704)

theorem returnHandler_of_inactive {s : State} {uid tid : Nat} {c : Cur} (h : c.th.handler = false) :
    returnHandler s uid tid c = .trap s { cause := .badTarget } := by
  simp only [returnHandler, h, Bool.not_false, if_true]

theorem returnHandler_of_bad {s : State} {uid tid : Nat} {c : Cur} (h : c.th.handler = true)
    (hb : frameBits s c.team tid 671 664 > 2 ∨ frameBits s c.team tid 767 704 % 4 ≠ 0) : returnHandler s uid tid c =
      .trap s { cause := .badTarget, addr := BitVec.ofNat 64 (frameBits s c.team tid 767 704), aux := frameBits s c.team tid 671 664 } := by
  have hc : (decide (frameBits s c.team tid 671 664 > 2) || frameBits s c.team tid 767 704 % 4 != 0) = true := by simpa using hb
  simp only [returnHandler, h, Bool.not_true, Bool.false_eq_true, if_false, hc, if_true]

/-- The return in terms of the team with its next cohort taken. -/
theorem returnHandler_of_good {s : State} {uid tid : Nat} {c : Cur} {th : Thread} (h : c.th.handler = true)
    (ha : frameBits s c.team tid 671 664 ≤ 2) (hr : frameBits s c.team tid 767 704 % 4 = 0) (ht : getTeam s uid = some c.team)
    (hth : getThread c.team tid = some th) : returnHandler s uid tid c =
      .jump (withThread (setTeam s (cohortTaken c.team)) (cohortTaken c.team) tid (returnedThread s c.team tid th) s.freeCtr)
        (returnPc s c.team tid) := by
  have hc : (decide (frameBits s c.team tid 671 664 > 2) || frameBits s c.team tid 767 704 % 4 != 0) = false := by
    simp [hr]; omega
  have hu := getTeam_uid ht
  have ht' : getTeam (setTeam s (cohortTaken c.team)) uid = some (cohortTaken c.team) := getTeam_setTeam ht hu
  have hs1 : modTeam s uid (fun t => leaveCohort t tid) =
      withThread (setTeam s (cohortTaken c.team)) (cohortTaken c.team) tid (aloneIn c.team th) s.freeCtr := by
    simp only [modTeam, ht, leaveCohort_eq hth]
    exact (setTeam_twice s (cohortTaken c.team) (setThread (cohortTaken c.team) tid (aloneIn c.team th)) rfl).symm
  simp only [returnHandler, h, Bool.not_true, Bool.false_eq_true, if_false, hc, hs1, modThread_withThread _ ht' hth, returnPc]
  refine congrArg (Act.jump _) ?_
  split
  case h_1 h0 => rw [if_pos h0]
  case h_2 h1 => rw [if_neg (by omega), if_pos h1]
  case h_3 h0 h1 => rw [if_neg h0, if_neg h1]

/-! The charge of an issue and the turn of the next thread concern no team and no memory. -/

theorem getTeam_popCharge (i : Instr) (a : Nat) (th : Thread) (s : State) (u : Nat) :
    getTeam (popIssue (chargeIssue i a th s)) u = getTeam s u := by
  rw [(chargeIssue_spec i a th s).1]; rfl

theorem mem_popCharge (i : Instr) (a : Nat) (th : Thread) (s : State) : (popIssue (chargeIssue i a th s)).mem = s.mem := by
  rw [(chargeIssue_spec i a th s).1]; rfl

/-- The thread after the return: its end as that of any instruction, and one replay of a Reticle match lets it pass (R401). -/
def resumedThread (o : Short) (s : State) (t : Team) (tid : Nat) (view th : Thread) : Thread :=
  { retired (.hret o) {} true view (returnedThread s t tid th) (returnPc s t tid) with
    pass := frameBits s t tid 671 664 == 0 && byReticle view.frc }

theorem exec_hret (o : Short) (s : State) : exec (.hret o) s = execHret o s := rfl

/-- The effect of `hret` where its frame is good: it settles the thread itself. -/
theorem exec_hret_returns {o : Short} {s : State} {uid tid : Nat} {t : Team} {th : Thread} (hT : Turn s uid tid t th)
    (hP : Passes (.hret o) {} s t th) (h : th.handler = true) (ha : frameBits s t tid 671 664 ≤ 2)
    (hr : frameBits s t tid 767 704 % 4 = 0) :
    exec (.hret o) s = .next (popIssue (chargeIssue (.hret o) t.asid th (withThread (setTeam (issueState s th) (cohortTaken t))
      (cohortTaken t) tid (resumedThread o s t tid (viewOf s th) th) (issueState s th).freeCtr))) := by
  have hth : getThread t tid = some th := hT.thread
  have ht : getTeam (issueState s th) uid = some t := hT.team
  have ht' : getTeam (setTeam (issueState s th) (cohortTaken t)) uid = some (cohortTaken t) := 
    getTeam_setTeam ht (show t.uid = uid from getTeam_uid hT.team)
  have hg : (returnedThread (issueState s th) t tid th).st ≠ .gone := canRun_not_gone hT.runs
  have hj := returnHandler_of_good (s := issueState s th) (c := curOf s t th) ((viewOf_handler s th).trans h) ha hr ht hth
  rw [exec_hret, execHret]
  refine run_left (s1 := withThread (setTeam (issueState s th) (cohortTaken t)) (cohortTaken t) tid
    (resumedThread o s t tid (viewOf s th) th) (issueState s th).freeCtr) hT hP ?_
  simp only [hj]
  simp only [curOf]
  refine congrArg Act.left ?_
  rw [retireAt_withThread (t := cohortTaken t) ht' hth rfl _ _ _ _ _ _ hg, modThread_withThread _ ht' hth]
  rfl

/-- Settles O15: `returnHandler` answers one of the traps or the jump whose thread is `returnedThread`, and the end of the
instruction keeps its registers. -/
theorem handlerReturn : Obligations.HandlerReturn := by
  intro o s uid tid t th hT hP f
  have hview : (curOf s t th).th.handler = th.handler := viewOf_handler s th
  refine ⟨fun h => ?_, fun h hb => ?_, fun h ha hr hl => ?_⟩
  · rw [exec_hret, execHret]
    exact run_trap hT hP (by rw [returnHandler_of_inactive (hview.trans h)])
  · rw [exec_hret, execHret]
    refine run_trap hT hP ?_
    rw [returnHandler_of_bad (s := issueState s th) (hview.trans h) hb]; rfl
  · have hth : getThread t tid = some th := hT.thread
    have hu := getTeam_uid hT.team
    have ht' : getTeam (setTeam (issueState s th) (cohortTaken t)) uid = some (cohortTaken t) :=
      getTeam_setTeam (s := issueState s th) hT.team hu
    have hreg : ∀ n, readV (resumedThread o s t tid (viewOf s th) th) n = if n < 4 then frameReg s t tid n else readV th n :=
      fun n => readV_restoreFrame (th := settled (aloneIn t th)) hl n
    refine ⟨_, _, _, exec_hret_returns hT hP h ha hr, (getTeam_popCharge ..).trans (getTeam_withThread _ ht'),
      getThread_setThread (t := cohortTaken t) hth, rfl, rfl, rfl, fun n hn => (hreg n).trans (if_pos hn),
      fun n hn => (hreg n).trans (if_neg (by omega)), rfl, mem_popCharge .., fun u hne => ?_⟩
    refine (getTeam_popCharge ..).trans ((getTeam_withThread_other _ ht' hne).trans ?_)
    exact getTeam_setTeam_other (s := issueState s th) (t' := cohortTaken t) (by show t.uid ≠ u; omega)

end Sys2Proof.Machine
end

section
/-! Control transfers, `land`, `pause`, `yield` and the frame of an instruction's end (O30, O31, O32, O36): what each effect answers,
the arm of `switch`, and the return stack as one list. -/

namespace Sys2Proof.Machine

open Sys2Proof Sys2Proof.Laws

/-! ## The thread in hand -/

/-- The thread stands in its team. -/
def Stands (s : State) (uid tid : Nat) : Prop := ∃ t th, getTeam s uid = some t ∧ getThread t tid = some th

theorem stands_issueState {s : State} {uid tid : Nat} {t : Team} {th : Thread} (hT : Turn s uid tid t th) :
    Stands (issueState s th) uid tid := ⟨t, th, hT.team, hT.thread⟩

/-- `traps_of` for an effect that looks its thread up. -/
theorem traps_of_stands {i : Instr} {sg : Sig} {pre : State → Nat → Nat → Cur → Prop} {eff : State → Nat → Nat → Cur → State}
    {tr : State → Nat → Nat → Cur → Trap} {act : State → Nat → Nat → Cur → Act} (hx : ∀ s, exec i s = run i sg act s)
    (ha : ∀ s uid tid c, Stands s uid tid → pre s uid tid c → act s uid tid c = .trap (eff s uid tid c) (tr s uid tid c)) :
    Traps i sg pre eff tr :=
  fun s _ _ _ _ hT hP hp => (hx s).trans (run_trap hT hP (ha _ _ _ _ (stands_issueState hT) hp))

/-! ## Targets (R107, R108) -/

theorem exec_bra (o : Long) (s : State) : exec (.bra o) s = execBra o s := rfl
theorem exec_brx (o : Long) (s : State) : exec (.brx o) s = execBrx o s := rfl
theorem exec_call (o : Long) (s : State) : exec (.call o) s = execCall o s := rfl
theorem exec_ret (o : Short) (s : State) : exec (.ret o) s = execRet o s := rfl
theorem exec_callx (o : Long) (s : State) : exec (.callx o) s = execCallx o s := rfl

/-- A target in a register that `brx` and `callx` accept. -/
def goodTarget (a : W64) : Prop := isCanonical a = true ∧ a.toNat % 4 = 0

theorem goodTarget_iff (a : W64) : (isCanonical a && a.toNat % 4 == 0) = true ↔ goodTarget a := by simp [goodTarget]

/-! ## The arm of `switch` (R111) -/

theorem switchCase_eq (o : Long) (k : Nat) :
    switchCase o k = if o.form = .l then toSigned 8 (o.lit.toNat / 256 ^ k) else toSigned 16 o.imm.toNat + k := by
  unfold switchCase
  split
  case h_1 h => rw [if_pos h, Nat.pow_mul]
  case h_2 h => rw [if_neg h]

theorem switchArm_eq_zero (o : Long) (x : Int) :
    switchArm o x = 0 ↔ ∀ k, k < o.modb.toNat % 8 + 1 → switchCase o k ≠ x := by
  have hnone : (List.range (o.modb.toNat % 8 + 1)).find? (fun k => switchCase o k == x) = none ↔
      ∀ k, k < o.modb.toNat % 8 + 1 → switchCase o k ≠ x := by simp
  rw [← hnone]
  unfold switchArm
  dsimp only
  split
  case h_1 k hk => simp only [hk, Nat.succ_ne_zero, reduceCtorEq]
  case h_2 h => simp only [h]

theorem switchArm_of_first {o : Long} {x : Int} {k : Nat} (hk : k < o.modb.toNat % 8 + 1) (he : switchCase o k = x)
    (hn : ∀ j, j < k → switchCase o j ≠ x) : switchArm o x = k + 1 := by
  have hf : (List.range (o.modb.toNat % 8 + 1)).find? (fun k => switchCase o k == x) = some k := by
    rw [List.find?_range_eq_some]
    exact ⟨by simpa using he, List.mem_range.mpr hk, fun j hj => by simpa using hn j hj⟩
  simp only [switchArm, hf]

/-- Settles O30: each effect decides on its target, and the arm of `switch` is the first equal case. -/
theorem branches : Obligations.Branches := by
  refine ⟨fun o => ⟨?_, ?_, ?_, ?_, jumps_of (fun _ => rfl) (fun _ _ _ _ _ => rfl)⟩, fun o x => ⟨?_, fun k hk he hn => ?_⟩⟩
  · exact jumps_of (fun s => by rw [exec_bra, execBra]) (fun _ _ _ c h => by exact if_pos h)
  · exact traps_of (fun s => by rw [exec_bra, execBra]) (fun _ _ _ c h => by exact if_neg (ne_true_of_eq_false h))
  · exact jumps_of (fun s => by rw [exec_brx, execBrx]) (fun _ _ _ c h => by exact if_pos ((goodTarget_iff _).mpr h))
  · exact traps_of (fun s => by rw [exec_brx, execBrx]) (fun _ _ _ c h => by exact if_neg (mt (goodTarget_iff _).mp h))
  · simp only [switchArm_eq_zero, switchCase_eq]
  · simp only [← switchCase_eq] at he hn
    exact switchArm_of_first hk he hn

/-! ## The return stack (R110) -/

theorem pushReturn_eq_none {calld : Nat} {th : Thread} {a : W64} (h : th.stack.length ≤ 8) :
    pushReturn calld th a = none ↔ th.stack.length = 8 ∧ calld ≤ th.spill.length := by
  unfold pushReturn stackHw
  split
  case isTrue hl => simp; omega
  case isFalse hl =>
    split
    case isTrue hs => simp; omega
    case isFalse hs => simp; omega

/-- The stack and its spill area as one list, newest first. -/
def returns (th : Thread) : List W64 := th.stack ++ th.spill

theorem returns_pushReturn {calld : Nat} {th th1 : Thread} {a : W64}
    (h : pushReturn calld th a = some th1) :
    returns th1 = a :: returns th ∧ th1.stack.length ≤ 8 ∧ th1 = { th with stack := th1.stack, spill := th1.spill } ∧
      ∃ r, th1.stack = a :: r := by
  unfold pushReturn stackHw at h
  split at h
  case isTrue hs =>
    cases h
    exact ⟨rfl, by simp; omega, rfl, _, rfl⟩
  case isFalse hs =>
    split at h
    case isFalse => cases h
    case isTrue =>
      cases h
      refine ⟨?_, by rw [List.length_cons, List.length_take]; omega, rfl, _, rfl⟩
      simp only [returns, List.cons_append, ← List.append_assoc, List.take_append_drop]

theorem popReturn_of_stack {th : Thread} {a : W64} {r : List W64} (h : th.stack = a :: r) :
    popReturn th = some (a, { th with stack := r }) := by simp only [popReturn, h]

theorem popReturn_eq_none (th : Thread) : popReturn th = none ↔ th.stack = [] ∧ th.spill = [] := by
  unfold popReturn
  split <;> simp_all

/-- The push of a call at the thread as it stands. -/
def pushAt (i : Instr) (s : State) (uid tid : Nat) (c : Cur) : Option Thread :=
  ((getTeam s uid).bind (fun t => getThread t tid)).bind (fun th => pushReturn c.team.calld th (nextPc i c.th))

theorem callTo_of_push {i : Instr} {s : State} {uid tid : Nat} {c : Cur} {th1 : Thread} (h : pushAt i s uid tid c = some th1)
    (a : W64) (f : Thread → Thread) : callTo i s uid tid c a f = .jump (modThread s uid tid (fun _ => f th1)) a := by
  obtain ⟨th, hth, hp⟩ := Option.bind_eq_some_iff.mp h
  simp only [callTo, hth, hp]

theorem callTo_of_full {i : Instr} {s : State} {uid tid : Nat} {c : Cur} (hs : Stands s uid tid) (h : pushAt i s uid tid c = none)
    (a : W64) (f : Thread → Thread) : callTo i s uid tid c a f = .trap s { cause := .stackOverflow, aux := c.team.calld } := by
  obtain ⟨t, th, ht, hth⟩ := hs
  have hb : (getTeam s uid).bind (fun t => getThread t tid) = some th := by rw [ht]; exact hth
  rw [pushAt, hb] at h
  simp only [callTo, hb, show pushReturn c.team.calld th (nextPc i c.th) = none from h]

/-- Settles O31: each call pushes by `callTo`, and a push and a pop change one list at its head. -/
theorem callsAndReturns : Obligations.CallsAndReturns := by
  refine ⟨fun o => ⟨?_, ?_, ?_, ?_, ?_, ?_⟩, fun o a th1 => ⟨?_, ?_⟩, fun calld th a hl => ⟨pushReturn_eq_none hl, fun th1 h => ?_,
    popReturn_eq_none th⟩⟩
  · refine jumps_of (fun s => by rw [exec_call, execCall]) (fun s uid tid c ⟨hc, hp⟩ => ?_)
    obtain ⟨th1, h⟩ := Option.isSome_iff_exists.mp hp
    exact (if_pos hc).trans ((callTo_of_push h _ id).trans (by simp only [h]; rfl))
  · exact traps_of_stands (fun s => by rw [exec_call, execCall]) (fun s uid tid c hs ⟨hc, hp⟩ => by
      exact (if_pos hc).trans (callTo_of_full hs hp _ _))
  · exact traps_of (fun s => by rw [exec_call, execCall]) (fun s uid tid c hc => by exact if_neg (ne_true_of_eq_false hc))
  · refine jumps_of (fun s => by rw [exec_callx, execCallx]) (fun s uid tid c ⟨hc, hp⟩ => ?_)
    obtain ⟨th1, h⟩ := Option.isSome_iff_exists.mp hp
    exact (if_pos ((goodTarget_iff _).mpr hc)).trans ((callTo_of_push h _ _).trans (by simp only [h]; rfl))
  · exact traps_of_stands (fun s => by rw [exec_callx, execCallx]) (fun s uid tid c hs ⟨hc, hp⟩ => by
      exact (if_pos ((goodTarget_iff _).mpr hc)).trans (callTo_of_full hs hp _ _))
  · exact traps_of (fun s => by rw [exec_callx, execCallx]) (fun s uid tid c hc => by exact if_neg (mt (goodTarget_iff _).mp hc))
  · exact jumps_of (fun s => by rw [exec_ret, execRet]) (fun s uid tid c h => by simp only [h])
  · exact traps_of (fun s => by rw [exec_ret, execRet]) (fun s uid tid c h => by simp only [h, same])
  · obtain ⟨hret, hlen, hframe, r, hr⟩ := returns_pushReturn h
    refine ⟨hret, hlen, hframe, _, popReturn_of_stack hr, ?_⟩
    have hcons : a :: (r ++ th1.spill) = a :: (th.stack ++ th.spill) := by simpa only [returns, hr, List.cons_append] using hret
    exact List.tail_eq_of_cons_eq hcons

/-! ## `land`, `pause` and `yield` (R109, R114, R115) -/

theorem exec_yield (o : Short) (s : State) : exec (.yield o) s = execYield o s := rfl

/-- Every cycle takes one off the pause, whatever the thread's state. -/
theorem tickThread_pauseLeft (s : State) (t : Team) (tid : Nat) {th : Thread} (h : th.saved = false) :
    (tickThread s t tid th).pauseLeft = th.pauseLeft - 1 := by
  simp only [tickThread, h, Bool.false_eq_true, if_false]
  split
  case h_1 => repeat' split
              all_goals rfl
  case h_2 => split <;> rfl
  case h_3 => rfl

theorem issueClass_eq_zero (th : Thread) : issueClass th = 0 ↔ th.age < 2048 ∧ th.pauseLeft ≠ 0 := by
  unfold issueClass
  split
  case isTrue h => simp; omega
  case isFalse h => simp; omega

/-- Settles O32: the effects are the ones stated, and a paused thread's class and count are those of `issueClass` and `tickThread`. -/
theorem smallControl : Obligations.SmallControl := by
  refine ⟨fun o => ⟨goes_of (fun _ => rfl) (fun _ _ _ _ _ => rfl), goes_of (fun _ => rfl) (fun _ _ _ _ _ => rfl), ?_, ?_⟩,
    fun s t tid th h => tickThread_pauseLeft s t tid h, issueClass_eq_zero⟩
  · exact goes_of (fun s => by rw [exec_yield, execYield]) (fun _ _ _ _ h => by simp only [h]; rfl)
  · exact goes_of (fun s => by rw [exec_yield, execYield]) (fun _ _ _ _ h => by simp only [h]; rfl)

/-! ## The frame of an instruction's end -/

theorem retireAt_eq {s : State} {uid tid : Nat} {t : Team} {th : Thread} (ht : getTeam s uid = some t) (hth : getThread t tid = some th)
    {i : Instr} (hi : isControl i = false) (hg : th.st ≠ .gone) (sg : Sig) (wrote : Bool) (old : Thread) (pc : W64) :
    retireAt s uid tid i sg wrote old pc = setTeam s (setThread t tid (retired i sg wrote old th pc)) := by
  simp only [retireAt, ht, hth, beq_iff_eq, hg, if_false, hi, Bool.false_eq_true, retired]
  rfl

/-- Settles O36: the end is one replaced thread, then the charge of the issue and the turn of the next thread. -/
theorem endFrame : Obligations.EndFrame := by
  intro i sg s s1 uid tid t t1 th th1 pc hi ht hth hg s'
  have hu := getTeam_uid ht
  have hs : s' = popIssue (chargeIssue i t.asid th (setTeam s1 (setThread t1 tid (retired i sg true th th1 pc)))) := by
    rw [← retireAt_eq ht hth hi hg sg true th pc]; rfl
  clear_value s'
  obtain ⟨hc, hd⟩ := chargeIssue_spec i t.asid th (setTeam s1 (setThread t1 tid (retired i sg true th th1 pc)))
  refine ⟨?_, ⟨retired i sg true th th1 pc, ?_, fun h => ?_, fun h => ?_⟩, fun u hne => ?_, hs ▸ hd⟩
  · rw [hs, hc]; rfl
  · rw [hs, getTeam_popCharge]
    exact getTeam_setTeam ht hu
  · rw [retired, h]; rfl
  · rw [retired, h]; rfl
  · rw [hs, getTeam_popCharge]
    exact getTeam_setTeam_other (by show t1.uid ≠ u; omega)

end Sys2Proof.Machine
end

section
/-! Gang instructions (O28): an equation of `runGang` for each answer of `rendezvous`, and a cohort of one, where the writes and the end
are those of one thread. -/

namespace Sys2Proof.Machine

open Sys2Proof

/-- The writes of every participant lie in a register operand that the checks have passed, and write no predicate twice. -/
structure GangWrites (sg : Sig) (f : List Part → Part → Writes) : Prop where
  preds : ∀ ps p, ((f ps p).preds.map (·.1)).Nodup
  regs  : ∀ ps p, (f ps p).regs = [] ∨ ∃ u ∈ sg.regs, u.k = false ∧ Placed u.num u.n (f ps p).regs

/-- The checks passed for a use of v registers: they are there. -/
theorem lt_regs_of_placed {i : Instr} {sg : Sig} {s : State} {t : Team} {th : Thread} (hP : Passes i sg s t th) {u : RegUse}
    (hu : u ∈ sg.regs) (hk : u.k = false) {l : List (Nat × Reg)} (h : Placed u.num u.n l) {q : Nat × Reg} (hq : q ∈ l) :
    q.1 < th.regs.length := by
  have hin := (h.inside q hq).2
  have hall := hP.operands.regs
  simp only [badReg, List.map_eq_nil_iff, List.filter_eq_nil_iff] at hall
  have hu' := hall u hu
  simp [hk] at hu'
  omega

section
variable {i : Instr} {sg : Sig} {f : List Part → Part → Writes} {s : State} {uid tid : Nat} {t : Team} {th : Thread}

theorem runGang_of_passes (hT : Turn s uid tid t th) (hP : Passes i sg s t th) : runGang i sg f s =
    .next (popIssue (chargeIssue i t.asid th (match rendezvous t tid th with
      | none => holdThread s uid tid .gang
      | some mem => gangEffect i sg f s uid t mem))) := by
  obtain ⟨r, hi⟩ := issue_of_turn hT
  have hth : getThread t tid = some th := hT.thread
  simp only [runGang, gangEffect, hi, hT.team, hth, hT.runs, gate_go hP, Bool.not_true, Bool.false_eq_true, if_false] <;> rfl

/-- A cohort of one: its only member takes part. -/
theorem memberGates_one (hP : Passes i sg s t th) :
    memberGates s i sg t [(tid, th)] s.freeCtr = ([(tid, th, .go (curOf s t th) (ctrOf s th))], ctrOf s th) := by
  have hg : gate { s with freeCtr := s.freeCtr } i t th sg = .go (curOf s t th) (ctrOf s th) := gate_go hP
  simp only [memberGates, hg]

theorem gangEffect_one (hP : Passes i sg s t th) :
    let p : Part := { tid := tid, old := th, cur := curOf s t th }
    gangEffect i sg f s uid t [(tid, th)] =
      retireAt (applyWrites { s with freeCtr := ctrOf s th } uid tid (f [p] p)) uid tid i sg true th (nextPc i th) := by
  simp only [gangEffect, memberGates_one hP]
  rfl

theorem gathers_of (hx : ∀ s, exec i s = runGang i sg f s) (hi : isControl i = false) (hw : GangWrites sg f) :
    Gathers i sg f := by
  refine ⟨fun s uid tid t th hT hP hr => ?_, fun s uid tid t th mem hT hP hr => ?_, fun s uid tid t th hT hP hr => ?_⟩
  · rw [hx, runGang_of_passes hT hP, hr]
  · rw [hx, runGang_of_passes hT hP, hr]
  · refine ⟨_, (hx s).trans (runGang_of_passes hT hP), ?_⟩
    simp only [hr, gangEffect_one hP]
    refine wrote_after hT hi sg true _ _ ?_ (fun q hq => ?_) (hw.preds _ _)
    · rcases hw.regs _ _ with h | ⟨u, -, -, h⟩
      · rw [h]; exact List.nodup_nil
      · exact h.once
    · rcases hw.regs _ _ with h | ⟨u, hu, hk, h⟩
      · rw [h] at hq; cases hq
      · exact lt_regs_of_placed hP hu hk h hq

end

/-- One predicate written, of any participant's own. -/
theorem gangWrites_pred (sg : Sig) (n : Nat) (b : List Part → Part → Bool) : GangWrites sg (fun ps p => outP n (b ps p)) :=
  ⟨fun _ _ => by simp [outP], fun _ _ => .inl rfl⟩

/-- The destination registers written. -/
theorem gangWrites_regs {sg : Sig} {d n : Nat} {r : List Part → Part → List (Nat × Reg)}
    (hd : ({ k := false, num := d, n := n, wr := true } : RegUse) ∈ sg.regs) (h : ∀ ps p, Placed d n (r ps p)) :
    GangWrites sg (fun ps p => outR (r ps p)) :=
  ⟨fun _ _ => by simp [outR], fun ps p => .inr ⟨_, hd, rfl, h ps p⟩⟩

theorem exec_vote (o : Long) (s : State) : exec (.vote o) s = execVote o s := rfl

/-- Settles O28: each instruction is `runGang` with the stated writes, which fill its destination. -/
theorem gangInstructions : Obligations.GangInstructions := by
  intro o d pd src red value before
  refine ⟨fun h => ?_, fun h => ?_, fun h => ?_, fun h => ?_, ?_, ?_, ?_, ?_, ?_⟩
  · exact gathers_of (fun s => by rw [exec_vote, execVote, h]; rfl) rfl (gangWrites_pred ..)
  · exact gathers_of (fun s => by rw [exec_vote, execVote, h]; rfl) rfl (gangWrites_pred ..)
  · exact gathers_of (fun s => by rw [exec_vote, execVote, h]; rfl) rfl (gangWrites_pred ..)
  · exact gathers_of (fun s => by rw [exec_vote, execVote, h]; rfl) rfl
      (gangWrites_regs (d := d) (n := 2) (by simp [sigP, useDst]) (fun _ _ => placed_result64 _ _ _ _ (by decide)))
  · exact gathers_of (fun _ => rfl) rfl
      (gangWrites_regs (d := d) (n := 1) (by simp [sigR, useDst]) (fun _ _ => placed_one _ _ _ (by decide)))
  · exact gathers_of (fun _ => rfl) rfl
      (gangWrites_regs (d := d) (n := tyRegs o.sub) (by simp [red, sigR, useDst]) (fun _ _ => placed_resultAs_tyRegs ..))
  · exact gathers_of (fun _ => rfl) rfl
      (gangWrites_regs (d := d) (n := tyRegs o.sub) (by simp [red, sigR, useDst]) (fun _ _ => placed_resultAs_tyRegs ..))
  · exact gathers_of (fun _ => rfl) rfl
      (gangWrites_regs (d := d) (n := 2) (by simp [sigR, useDst]) (fun _ _ => placed_result64 _ _ _ _ (by decide)))
  · exact gathers_of (fun _ => rfl) rfl (gangWrites_pred ..)

end Sys2Proof.Machine
end

section
/-! Convergence and the ends of threads (O34, O35): the live threads of a gang retire one after another, and a thread that has exited
keeps what it holds through the completion of barriers and the retirement of its gang. -/

namespace Sys2Proof.Machine

open Sys2Proof

/-- A team replaced by one with its uid. -/
theorem getTeam_setTeam_same {s : State} {uid : Nat} {t t' : Team} (h : getTeam s uid = some t) (hu : t'.uid = t.uid) :
    getTeam (setTeam s t') uid = some t' := getTeam_setTeam h (hu.trans (getTeam_uid h))

/-! ## The live threads of a gang -/

theorem mem_zip_range {α : Type} (l : List α) (j : Nat) (x : α) : (j, x) ∈ (List.range l.length).zip l ↔ l[j]? = some x := by
  rw [List.mem_iff_getElem?]
  constructor
  · rintro ⟨k, hk⟩
    obtain ⟨hr, hl⟩ := List.getElem?_zip_eq_some.mp hk
    obtain ⟨_, hj⟩ := List.getElem?_eq_some_iff.mp hr
    rw [List.getElem_range] at hj
    rwa [show k = j from hj] at hl
  · intro h
    have hj : j < l.length := (List.getElem?_eq_some_iff.mp h).1
    exact ⟨j, List.getElem?_zip_eq_some.mpr ⟨by simp [hj], h⟩⟩

theorem mem_gangLive {t : Team} {g j : Nat} {x : Thread} :
    (j, x) ∈ gangLive t g ↔ getThread t j = some x ∧ x.gang = g ∧ liveOut x = true := by
  simp only [gangLive, List.mem_filter, mem_zip_range, getThread, Bool.and_eq_true, beq_iff_eq]

theorem nodup_gangLive (t : Team) (g : Nat) : ((gangLive t g).map (·.1)).Nodup := by
  have hsub : ((gangLive t g).map (·.1)).Sublist (((List.range t.threads.length).zip t.threads).map (·.1)) :=
    List.filter_sublist.map _
  rw [List.map_fst_zip (by simp)] at hsub
  exact hsub.nodup List.nodup_range

theorem not_gone_of_liveOut {th : Thread} (h : liveOut th = true) : th.st ≠ .gone := by
  intro e
  simp [liveOut, departed, e] at h

/-- Threads of a team that retire one after another: each is retired, and the rest of the team stays. -/
theorem foldl_retireAt {i : Instr} (hi : isControl i = false) (sg : Sig) (pc : Thread → W64) (uid : Nat) :
    ∀ (l : List (Nat × Thread)) (s : State) (t : Team), getTeam s uid = some t →
      (∀ p ∈ l, getThread t p.1 = some p.2 ∧ p.2.st ≠ .gone) → (l.map (·.1)).Nodup →
      ∃ t', getTeam (l.foldl (fun st p => retireAt st uid p.1 i sg true p.2 (pc p.2)) s) uid = some t' ∧
        t' = { t with threads := t'.threads } ∧
        (∀ p ∈ l, getThread t' p.1 = some (retired i sg true p.2 p.2 (pc p.2))) ∧
        ∀ j, j ∉ l.map (·.1) → getThread t' j = getThread t j
  | [], s, t, ht, _, _ => ⟨t, ht, rfl, by simp, fun _ _ => rfl⟩
  | p :: r, s, t, ht, hl, hn => by
    obtain ⟨⟨hp, hg⟩, hr⟩ := List.forall_mem_cons.mp hl
    obtain ⟨hpr, hnr⟩ := List.nodup_cons.mp hn
    have hne : ∀ q ∈ r, p.1 ≠ q.1 := fun q hq e => hpr (List.mem_map.mpr ⟨q, hq, e.symm⟩)
    have ht1 := getTeam_setTeam_same (t' := setThread t p.1 (retired i sg true p.2 p.2 (pc p.2))) ht rfl
    obtain ⟨t', ht', hf, hin, hout⟩ := foldl_retireAt hi sg pc uid r _ _ ht1
      (fun q hq => by rw [getThread_setThread_other (hne q hq)]; exact hr q hq) hnr
    refine ⟨t', ?_, hf, List.forall_mem_cons.mpr ⟨?_, hin⟩, fun j hj => ?_⟩
    · rwa [List.foldl_cons, retireAt_eq ht hp hi hg]
    · rw [hout _ hpr, getThread_setThread hp]
    · simp only [List.map_cons, List.mem_cons, not_or] at hj
      obtain ⟨hjp, hjr⟩ := hj
      rw [hout _ hjr, getThread_setThread_other (Ne.symm hjp)]

/-! ## `reconv` (R112) -/

theorem viewOf_gang (s : State) (th : Thread) : (viewOf s th).gang = th.gang := by rw [viewOf_frame]

/-- The live threads of gang `g` as one new cohort. -/
def joinGang (g : Nat) (t : Team) : Team :=
  { t with nextCohort := t.nextCohort + 1,
           threads := t.threads.map (fun x =>
             if x.gang == g && liveOut x then { x with cohort := t.nextCohort, path := [] } else x) }

theorem getThread_joinGang {t : Team} {g j : Nat} {x : Thread} (h : getThread t j = some x) : getThread (joinGang g t) j =
    some (if x.gang == g && liveOut x then { x with cohort := t.nextCohort, path := [] } else x) := by
  simp only [getThread] at h
  simp only [getThread, joinGang, List.getElem?_map, h, Option.map_some]

/-- What `reconv` leaves once its wait can complete. -/
def rejoined (o : Short) (s : State) (uid g : Nat) (t : Team) : State :=
  modTeam ((gangLive t g).foldl (fun st p => retireAt st uid p.1 (.reconv o) {} true p.2 (nextPc (.reconv o) p.2)) s) uid (joinGang g)

theorem exec_reconv (o : Short) (s : State) : exec (.reconv o) s = execReconv o s := rfl

/-- Settles O34: the members of the gang retire one after another and then form the next cohort. -/
theorem reconvergence : Obligations.Reconvergence := by
  intro o s uid tid t th hT hP
  have ht : getTeam (issueState s th) uid = some t := hT.team
  refine ⟨fun hr => ?_, fun hr => ?_⟩
  · rw [exec_reconv, execReconv]
    refine run_hold hT hP ?_
    have hr' : reconvReady t tid (curOf s t th).th = false := hr
    simp only [ht, hr']
    rfl
  · have hx : exec (.reconv o) s =
        .next (popIssue (chargeIssue (.reconv o) t.asid th (rejoined o (issueState s th) uid (viewOf s th).gang t))) := by
      rw [exec_reconv, execReconv]
      refine run_left hT hP ?_
      have hr' : reconvReady t tid (curOf s t th).th = true := hr
      simp only [ht, hr']
      rfl
    rw [viewOf_gang] at hx
    obtain ⟨t1, ht1, hf, hin, hout⟩ := foldl_retireAt (i := .reconv o) rfl {} (nextPc (.reconv o)) uid (gangLive t th.gang)
      (issueState s th) t ht (fun p hp => by
        obtain ⟨h, -, hl⟩ := mem_gangLive.mp hp
        exact ⟨h, not_gone_of_liveOut hl⟩) (nodup_gangLive t th.gang)
    have hnc : t1.nextCohort = t.nextCohort := by rw [hf]
    refine ⟨_, joinGang th.gang t1, hx, ?_, congrArg (· + 1) hnc, fun j x hj hg hl => ?_, fun j x hj hg => ?_⟩
    · rw [getTeam_popCharge, rejoined, modTeam]
      simp only [ht1]
      exact getTeam_setTeam_same ht1 rfl
    · have hin' := getThread_joinGang (g := th.gang) (hin (j, x) (mem_gangLive.mpr ⟨hj, hg, hl⟩))
      have hmem : ((retired (.reconv o) {} true x x (nextPc (.reconv o) x)).gang == th.gang &&
          liveOut (retired (.reconv o) {} true x x (nextPc (.reconv o) x))) = true := by
        simpa [retired, advance] using ⟨hg, rfl⟩
      exact ⟨_, hin'.trans (congrArg some (if_pos hmem)), rfl, rfl, hnc, rfl, rfl, rfl⟩
    · have hnot : j ∉ (gangLive t th.gang).map (·.1) := by
        rintro hm
        obtain ⟨⟨k, y⟩, hy, rfl⟩ := List.mem_map.mp hm
        obtain ⟨hk, hgy, -⟩ := mem_gangLive.mp hy
        rw [hj] at hk
        cases hk
        exact hg hgy
      rw [getThread_joinGang ((hout j hnot).trans hj), beq_eq_false_iff_ne.mpr hg]
      rfl

/-! ## Threads through completions and retirements (R113, R177, R241) -/

/-- A team and a thread of it, later, with what a thread that has exited keeps. -/
structure KeepsEnd (t t' : Team) (th th' : Thread) : Prop where
  gangs : t'.gangs = t.gangs
  st    : th'.st = th.st
  gang  : th'.gang = th.gang
  regs  : th'.regs = th.regs
  preds : th'.preds = th.preds
  pc    : th'.pc = th.pc
  stack : th'.stack = th.stack

theorem KeepsEnd.refl (t : Team) (th : Thread) : KeepsEnd t t th th := ⟨rfl, rfl, rfl, rfl, rfl, rfl, rfl⟩

theorem KeepsEnd.trans {t t' t'' : Team} {th th' th'' : Thread} (h : KeepsEnd t t' th th') (k : KeepsEnd t' t'' th' th'') :
    KeepsEnd t t'' th th'' :=
  ⟨k.gangs.trans h.gangs, k.st.trans h.st, k.gang.trans h.gang, k.regs.trans h.regs, k.preds.trans h.preds, k.pc.trans h.pc,
    k.stack.trans h.stack⟩

/-- In state `s` the thread stands in its team with what it had. -/
def EndKept (s : State) (uid tid : Nat) (t : Team) (th : Thread) : Prop :=
  ∃ t' th', getTeam s uid = some t' ∧ getThread t' tid = some th' ∧ KeepsEnd t t' th th'

theorem endKept_self {s : State} {uid tid : Nat} {t : Team} {th : Thread} (ht : getTeam s uid = some t)
    (hth : getThread t tid = some th) : EndKept s uid tid t th := ⟨t, th, ht, hth, .refl t th⟩

@[simp] theorem getTeam_loupePhase (s : State) (uid nb u : Nat) : getTeam (loupePhase s uid nb) u = getTeam s u := by
  unfold loupePhase
  split <;> rfl

/-- A thread after a phase of barrier `nb` has ended (R177). -/
def phaseEnded (nb : Nat) (ph : Bool) (th : Thread) : Thread :=
  { th with marks := clearMark th.marks nb, freed := th.freed || waitsOn nb ph th }

theorem endKept_tryComplete {s : State} {uid tid : Nat} {t : Team} {th : Thread} (h : EndKept s uid tid t th) (nb : Nat) :
    EndKept (tryComplete s uid nb) uid tid t th := by
  obtain ⟨t1, th1, ht, hth, hk⟩ := h
  unfold tryComplete
  simp only [ht]
  split
  case isFalse => exact ⟨t1, th1, ht, hth, hk⟩
  case isTrue =>
    have e : t1.threads[tid]? = some th1 := hth
    exact ⟨_, phaseEnded nb (getBar t1 nb).ph th1, (getTeam_loupePhase ..).trans (getTeam_setTeam_same ht rfl),
      by simp [getThread, setBar, e, phaseEnded], hk.trans ⟨rfl, rfl, rfl, rfl, rfl, rfl, rfl⟩⟩

theorem endKept_tryAll {s : State} {uid tid : Nat} {t : Team} {th : Thread} (h : EndKept s uid tid t th) :
    EndKept (tryAll s uid) uid tid t th := by
  unfold tryAll
  generalize List.range 16 = l
  induction l generalizing s with
  | nil => exact h
  | cons nb r ih => exact ih (endKept_tryComplete h nb)

@[simp] theorem drainHome_uid (t : Team) : (drainHome t).uid = t.uid := by unfold drainHome; split <;> rfl
@[simp] theorem drainHome_gangs (t : Team) : (drainHome t).gangs = t.gangs := by unfold drainHome; split <;> rfl
@[simp] theorem drainHome_threads (t : Team) : (drainHome t).threads = t.threads := by unfold drainHome; split <;> rfl

/-- A thread that has ended: still at its exit, or gone with its gang. -/
def EndsAs (s : State) (uid tid : Nat) (th : Thread) (tail : Bool) : Prop :=
  ∃ t' th', getTeam s uid = some t' ∧ getThread t' tid = some th' ∧
    (th'.st = .exited tail ∨ (th'.st = .gone ∧ (t'.gangs[th.gang]?).any (fun g => g.done) = true)) ∧
    th'.regs = th.regs ∧ th'.preds = th.preds ∧ th'.pc = th.pc ∧ th'.stack = th.stack

theorem endsAs_of_exited {s : State} {uid tid : Nat} {t : Team} {th : Thread} {tail : Bool} (h : EndKept s uid tid t th)
    (he : th.st = .exited tail) : EndsAs s uid tid th tail := by
  obtain ⟨t', th', ht, hth, hk⟩ := h
  exact ⟨t', th', ht, hth, .inl (hk.st.trans he), hk.regs, hk.preds, hk.pc, hk.stack⟩

theorem endsAs_gangRetire {s : State} {uid tid : Nat} {t : Team} {th : Thread} (ht : getTeam s uid = some t)
    (hth : getThread t tid = some th) {g : Gang} (hg : t.gangs[th.gang]? = some g) (tail tracker : Bool) :
    EndsAs (gangRetire s uid th.gang tracker) uid tid th tail := by
  unfold gangRetire
  simp only [modTeam, ht]
  generalize hd : drainHome _ = t1
  have hu : t1.uid = uid := by rw [← hd]; simpa using getTeam_uid ht
  have hgangs : t1.gangs[th.gang]? = some { g with done := true } := by
    have hl : th.gang < t.gangs.length := (List.getElem?_eq_some_iff.mp hg).1
    have hz : ((List.range t.gangs.length).zip t.gangs)[th.gang]? = some (th.gang, g) :=
      List.getElem?_zip_eq_some.mpr ⟨by simp [hl], hg⟩
    rw [← hd]
    simp [hz]
  have hth1 : getThread t1 tid = some { th with st := .gone, pending := [], hazards := [] } := by
    have e : t.threads[tid]? = some th := hth
    rw [← hd]
    simp [getThread, e]
  obtain ⟨t2, th2, ht2, hth2, hk⟩ := endKept_tryAll (endKept_self (getTeam_setTeam ht hu) hth1)
  refine ⟨t2, th2, ht2, hth2, .inr ⟨hk.st, ?_⟩, hk.regs, hk.preds, hk.pc, hk.stack⟩
  rw [hk.gangs, hgangs]; rfl

theorem endsAs_tryRetireGang {s : State} {uid tid : Nat} {t : Team} {th : Thread} {tail : Bool} (ht : getTeam s uid = some t)
    (hth : getThread t tid = some th) (he : th.st = .exited tail) : EndsAs (tryRetireGang s uid th.gang) uid tid th tail := by
  have hstay := endsAs_of_exited (endKept_self ht hth) he
  unfold tryRetireGang
  simp only [ht]
  split
  case isTrue => exact hstay
  case isFalse hgo =>
    obtain ⟨g, hg⟩ : ∃ g, t.gangs[th.gang]? = some g := by
      cases h : t.gangs[th.gang]? with
      | some g => exact ⟨g, rfl⟩
      | none => simp [h] at hgo
    repeat' split
    · exact endsAs_gangRetire ht hth hg tail true
    · unfold refuseEntry
      simp only [modTeam, ht]
      exact ⟨_, th, getTeam_setTeam_same ht rfl, hth, .inl he, rfl, rfl, rfl, rfl⟩
    · exact hstay
    · exact endsAs_gangRetire ht hth hg tail false

/-- The thread that parks at `exit` or `tail`. -/
def exitedThread (s : State) (th : Thread) (tail : Bool) : Thread :=
  { th with st := .exited tail, issued := th.issued + 1, waited := 0, stall := 0, drain := false, begun := none, released := false,
            since := s.cycle }

theorem exitThread_eq {s : State} {uid tid : Nat} {t : Team} {th : Thread} (ht : getTeam s uid = some t)
    (hth : getThread t tid = some th) (tail : Bool) : exitThread s uid tid tail =
      tryRetireGang (tryAll (setTeam s (setThread t tid (exitedThread s th tail))) uid) uid th.gang := by
  have hm : modThread s uid tid (fun th => exitedThread s th tail) = setTeam s (setThread t tid (exitedThread s th tail)) := by
    simp only [modThread, modTeam, ht, hth]
  have hs : (getTeam (setTeam s (setThread t tid (exitedThread s th tail))) uid).bind (fun t => getThread t tid) =
      some (exitedThread s th tail) := by
    rw [getTeam_setTeam_same (t' := setThread t tid (exitedThread s th tail)) ht rfl]
    exact getThread_setThread hth
  have he : exitThread s uid tid tail =
      (let s1 := modThread s uid tid (fun th => exitedThread s th tail)
       match (getTeam s1 uid).bind (fun t => getThread t tid) with
       | none => s1
       | some th => tryRetireGang (tryAll s1 uid) uid th.gang) := rfl
  simp only [he, hm, hs]
  rfl

theorem endsAs_exitThread {s : State} {uid tid : Nat} {t : Team} {th : Thread} (ht : getTeam s uid = some t)
    (hth : getThread t tid = some th) (tail : Bool) : EndsAs (exitThread s uid tid tail) uid tid th tail := by
  rw [exitThread_eq ht hth]
  obtain ⟨t1, th1, ht1, hth1, hk⟩ := endKept_tryAll (endKept_self
    (getTeam_setTeam_same (t' := setThread t tid (exitedThread s th tail)) ht rfl) (getThread_setThread hth))
  have hg : th1.gang = th.gang := hk.gang
  obtain ⟨t2, th2, ht2, hth2, hend, hr, hp, hpc, hs⟩ := endsAs_tryRetireGang ht1 hth1 (tail := tail) hk.st
  rw [hg] at ht2 hend
  exact ⟨t2, th2, ht2, hth2, hend, hr.trans hk.regs, hp.trans hk.preds, hpc.trans hk.pc, hs.trans hk.stack⟩

/-! ## An end that completes nothing -/

/-- With another thread in one place, the departed threads without a mark are at most one more. -/
theorem barDeparted_setThread {t : Team} {tid nb : Nat} {th : Thread} (th' : Thread) (h : getThread t tid = some th)
    (hm : th'.marks = th.marks) : barDeparted (setThread t tid th') nb ≤ barDeparted t nb + if th.marks.getLsbD nb then 0 else 1 := by
  obtain ⟨hl, -⟩ := List.getElem?_eq_some_iff.mp (show t.threads[tid]? = some th from h)
  simp only [barDeparted, setThread, ← List.countP_eq_length_filter, List.countP_set hl, hm]
  cases th.marks.getLsbD nb <;> cases departed th' <;> simp <;> omega

theorem tryComplete_of_short {s : State} {uid nb : Nat} {t : Team} (ht : getTeam s uid = some t)
    (h : (getBar t nb).arv + barDeparted t nb < barNeed t (getBar t nb)) : tryComplete s uid nb = s := by
  have hne : (barArrivals t nb == barNeed t (getBar t nb)) = false := by
    simp only [barArrivals, beq_eq_false_iff_ne]
    omega
  simp only [tryComplete, ht, hne, Bool.false_and, Bool.false_eq_true, if_false]

theorem tryAll_of_short {s : State} {uid : Nat} {t : Team} (ht : getTeam s uid = some t)
    (h : ∀ nb, nb < 16 → (getBar t nb).arv + barDeparted t nb < barNeed t (getBar t nb)) : tryAll s uid = s := by
  have hfold : ∀ l : List Nat, (∀ nb ∈ l, nb < 16) → l.foldl (fun st nb => tryComplete st uid nb) s = s := by
    intro l
    induction l with
    | nil => exact fun _ => rfl
    | cons nb r ih =>
      intro hl
      obtain ⟨hnb, hr⟩ := List.forall_mem_cons.mp hl
      rw [List.foldl_cons, tryComplete_of_short ht (h nb hnb), ih hr]
  exact hfold _ (fun nb => List.mem_range.mp)

theorem tryRetireGang_of_live {s : State} {uid g j : Nat} {t : Team} {x : Thread} (ht : getTeam s uid = some t)
    (hx : getThread t j = some x) (hg : x.gang = g) (hl : liveOut x = true) : tryRetireGang s uid g = s := by
  have hd : departed x = false := by simpa [liveOut] using hl
  have hmem : ((t.threads.filter (fun th => th.gang == g)).all departed) = false := by
    rw [List.all_eq_false]
    exact ⟨x, List.mem_filter.mpr ⟨List.mem_of_getElem? hx, by simpa using hg⟩, by simp [hd]⟩
  simp only [tryRetireGang, ht, hmem, Bool.not_false, Bool.or_true, Bool.true_or, if_true]

theorem leaves_exit (o : Short) : Leaves (.exit o) {} always (fun s uid tid _ => exitThread s uid tid false) :=
  leaves_of (fun _ => rfl) (fun _ _ _ _ _ => rfl)

theorem leaves_tail (o : Short) : Leaves (.tail o) {} always (fun s uid tid _ => exitThread s uid tid true) :=
  leaves_of (fun _ => rfl) (fun _ _ _ _ _ => rfl)

/-- Settles O35: what the thread keeps goes through the completions and the retirement of its gang, and where neither takes place
only the thread itself has changed. -/
theorem threadEnds : Obligations.ThreadEnds := by
  refine fun o => ⟨leaves_exit o, leaves_tail o, ?_, ?_⟩
  · intro s uid tid t th hT ends
    have hend : ∀ i tail, EndsAs (popIssue (chargeIssue i t.asid th (exitThread (issueState s th) uid tid tail))) uid tid th tail := by
      intro i tail
      obtain ⟨t', th', ht, h⟩ := endsAs_exitThread (s := issueState s th) hT.team hT.thread tail
      exact ⟨t', th', (getTeam_popCharge ..).trans ht, h⟩
    refine ⟨fun hP => ?_, fun hP => ?_⟩
    · obtain ⟨t', th', h⟩ := hend (.exit o) false
      exact ⟨_, t', th', leaves_exit o s uid tid t th hT hP trivial, h⟩
    · obtain ⟨t', th', h⟩ := hend (.tail o) true
      exact ⟨_, t', th', leaves_tail o s uid tid t th hT hP trivial, h⟩
  · intro s uid tid tail t th ht hth hbar ⟨j, x, hj, hx, hg, hl⟩
    have hu := getTeam_uid ht
    have ht1 := getTeam_setTeam_same (t' := setThread t tid (exitedThread s th tail)) ht rfl
    have hall := tryAll_of_short ht1 fun nb hnb => by
      have h1 := barDeparted_setThread (nb := nb) (exitedThread s th tail) hth rfl
      have h2 := hbar nb hnb
      have hn : barNeed (setThread t tid (exitedThread s th tail)) (getBar t nb) = barNeed t (getBar t nb) := by
        simp [barNeed]
      show (getBar t nb).arv + _ < barNeed _ (getBar t nb)
      omega
    have hx1 : getThread (setThread t tid (exitedThread s th tail)) j = some x := by
      rw [getThread_setThread_other (Ne.symm hj), hx]
    rw [exitThread_eq ht hth, hall, tryRetireGang_of_live ht1 hx1 hg hl]
    exact ⟨_, ht1, rfl, rfl, rfl, rfl, fun u hne => getTeam_setTeam_other (by show t.uid ≠ u; omega)⟩

end Sys2Proof.Machine
end

section
/-! The checks of an address (O37) and the instructions that access memory (O38, O40, O43, O44): one equation for each answer of
`checkSite`, and the steps of an access in sequence. -/

namespace Sys2Proof.Machine

open Sys2Proof

/-! ## The checks of R144 in order -/

section
variable {s : State} {asid : Nat} {q : Ask}

theorem checkSite_nowhere (hw : isWindow q.ea = false) (hc : isCanonical q.ea = false) :
    checkSite s asid q = (.error (dataFault q 0 false), s) := by simp [checkSite, hw, hc]

theorem checkSite_misaligned (h : isWindow q.ea = true ∨ isCanonical q.ea = true) (ha : q.ea.toNat % q.align ≠ 0) :
    checkSite s asid q = (.error (.trap { cause := .misalignedData, addr := q.ea, aux := q.size % 32 }), s) := by
  have hn : (!isWindow q.ea && !isCanonical q.ea) = false := by rcases h with h | h <;> simp [h]
  simp [checkSite, hn, ha]

/-- An access to a window that scratch bounds forbid (R144, check 3). -/
def outOfBounds (s : State) (asid : Nat) (q : Ask) : Prop :=
  Config.sliceBytes ≤ winOff q.ea ∨ grantHeld s asid (winChip q.ea) (winCore q.ea) (winOff q.ea / 65536) = false ∨
    (winChip q.ea = chipId s ∧ hitsPrivate s (winCore q.ea) (winOff q.ea) q.size = true)

theorem outOfBounds_iff : (decide (winOff q.ea ≥ Config.sliceBytes) ||
    !grantHeld s asid (winChip q.ea) (winCore q.ea) (winOff q.ea / 65536) ||
    (winChip q.ea == chipId s && hitsPrivate s (winCore q.ea) (winOff q.ea) q.size)) = true ↔ outOfBounds s asid q := by
  simp [outOfBounds, or_assoc]

/-- The site of a window address. -/
def windowSite (ea : W64) : Site :=
  { win := true, chip := winChip ea, core := winCore ea, off := winOff ea, key := scratchKey ea, attr := 3, size := 3 }

theorem checkSite_window (hw : isWindow q.ea = true) (ha : q.ea.toNat % q.align = 0) :
    (outOfBounds s asid q → checkSite s asid q = (.error (.trap { cause := .scratchBounds, addr := q.ea }), s)) ∧
    (¬ outOfBounds s asid q → checkSite s asid q = (.ok (windowSite q.ea), s)) := by
  have ha' : (q.ea.toNat % q.align != 0) = false := by simp [ha]
  constructor
  · intro h
    simp only [checkSite, ha', hw, Bool.not_true, Bool.false_and, Bool.false_eq_true, if_false, if_true, outOfBounds_iff.mpr h]
  · intro h
    simp only [checkSite, ha', hw, Bool.not_true, Bool.false_and, Bool.false_eq_true, if_false, if_true,
      Bool.eq_false_iff.mpr (mt outOfBounds_iff.mp h)]
    rfl

/-- The checks that follow a translation. -/
theorem checkSite_page (hw : isWindow q.ea = false) (hc : isCanonical q.ea = true) (ha : q.ea.toNat % q.align = 0) :
    checkSite s asid q =
      match translate s q.shadow asid q.ea with
      | (.error k, s1) => (.error (dataFault q k true), s1)
      | (.ok x, s1) =>
        if !paExists s1 x.pa then (.error (dataFault q 0 false), s1)
        else if (q.rd && !x.attr.getLsbD 0) || (q.wr && !x.attr.getLsbD 1) then (.error (permFault q x.attr false), s1)
        else if q.winOnly || (q.noHost && paHost x.pa) then (.error (permFault q x.attr true), s1)
        else if paHost x.pa && !atsHeld s1 (atsFor s1 asid x.pa) q.rd q.wr then (.error (.ats (atsFor s1 asid x.pa)), s1)
        else (.ok { win := false, chip := paChip x.pa, core := paCore x.home, off := 0, key := x.pa, attr := x.attr, size := x.size }, s1) := by
  simp only [checkSite, hw, hc, ha, Bool.not_false, Bool.not_true, Bool.and_false, Bool.false_eq_true, if_false, bne_self_eq_false] <;> rfl

/-- The page's attributes let the access pass. -/
theorem forbidden_iff (q : Ask) (attr : BitVec 5) : ((q.rd && !attr.getLsbD 0) || (q.wr && !attr.getLsbD 1)) = true ↔
    ¬ ((q.rd = true → attr.getLsbD 0 = true) ∧ (q.wr = true → attr.getLsbD 1 = true)) := by
  cases q.rd <;> cases q.wr <;> cases attr.getLsbD 0 <;> cases attr.getLsbD 1 <;> decide

theorem misplaced_iff (q : Ask) (pa : Nat) : (q.winOnly || (q.noHost && paHost pa)) = true ↔
    (q.winOnly = true ∨ (q.noHost = true ∧ paHost pa = true)) := by simp

end

/-- Settles O37: the branches of `checkSite` in their order. -/
theorem addressChecks : Obligations.AddressChecks := by
  intro s asid q fault perm aligned
  refine ⟨checkSite_nowhere, checkSite_misaligned, fun hw ha => ?_, fun hw hc ha => ?_⟩
  · obtain ⟨hbad, hgood⟩ := checkSite_window (s := s) (asid := asid) hw ha
    refine ⟨hbad, fun ho hg hp => ⟨windowSite q.ea, hgood ?_, rfl, rfl, rfl, rfl⟩⟩
    rintro (h | h | ⟨hc, h⟩)
    · omega
    · rw [hg] at h; cases h
    · rw [hp hc] at h; cases h
  · have hpage := checkSite_page (s := s) (asid := asid) hw hc ha
    refine ⟨fun k s1 ht => by simp only [fault, hpage, ht, dataFault], fun x s1 ht => ?_⟩
    simp only [ht] at hpage
    have hmis := misplaced_iff q x.pa
    have hfor := forbidden_iff q x.attr
    refine ⟨fun he => ?_, fun he hf => ?_, fun he hf hm => ?_, fun he hf hm hh => ⟨⟨false, paChip x.pa, paCore x.home, 0, x.pa, x.attr, x.size⟩, ?_, rfl, rfl, rfl, rfl⟩⟩
    · simp only [fault, hpage, he, dataFault, Bool.not_false, if_true]
    · simp only [perm, hpage, he, hfor.mpr hf, permFault, Bool.not_true, Bool.false_eq_true, if_false, if_true]
    · have hf' := Bool.eq_false_iff.mpr (mt hfor.mp (not_not_intro hf))
      simp only [perm, hpage, he, hf', hmis.mpr hm, permFault, Bool.not_true, Bool.false_eq_true, if_false, if_true]
    · rw [hpage, if_neg (by simp [he]), if_neg (mt hfor.mp (not_not_intro hf)), if_neg (mt hmis.mp hm), if_neg (by simp [hh])]

/-! ## Steps of an access in sequence -/

theorem andThen_of_ok {α : Type} {x : Except Act α} {a : α} (h : x = .ok a) (f : α → Act) : andThen x f = f a := by rw [h]; rfl
theorem andThen_of_error {α : Type} {x : Except Act α} {e : Act} (h : x = .error e) (f : α → Act) : andThen x f = e := by rw [h]; rfl

theorem exec_ld (o : Long) (s : State) : exec (.ld o) s = execLd o s := rfl
theorem exec_st (o : Long) (s : State) : exec (.st o) s = execSt o s := rfl

/-- A misaligned access that the thread's own handler would receive is emulated (R168). -/
theorem emulated_iff (c : Cur) (ea : W64) (n : Nat) : (isMisaligned ea n && (isWindow ea || isCanonical ea) && emulates c) = true ↔
    (ea.toNat % n ≠ 0 ∧ (isWindow ea = true ∨ isCanonical ea = true) ∧ c.team.trm.getLsbD 6 = true ∧ c.th.handler = false) := by
  simp [isMisaligned, emulates, and_assoc]

/-- Settles O38: each branch of `execLd` and `execSt` with the answers of its steps. -/
theorem loadsAndStores : Obligations.LoadsAndStores := by
  intro o n sgL sgS ask bytes emulated
  have hem : ∀ c, _ ↔ emulated c := fun c => emulated_iff c (effAddr c o) n
  refine ⟨fun p q => ?_, fun p s1 => ?_, fun s1 tr => ⟨?_, ?_⟩, fun s1 q => ⟨?_, ?_⟩⟩
  · exact goes_of (fun s => by rw [exec_ld, execLd]; rfl) (fun s uid tid c ⟨he, hp, hq⟩ => by
      exact (if_neg (mt (hem c).mp he)).trans ((andThen_of_ok hp _).trans (andThen_of_ok hq _)))
  · exact goes_of (fun s => by rw [exec_st, execSt]; rfl) (fun s uid tid c ⟨he, hp, hq⟩ => by
      exact (if_neg (mt (hem c).mp he)).trans ((andThen_of_ok hp _).trans (andThen_of_ok hq _)))
  · exact traps_of (fun s => by rw [exec_ld, execLd]; rfl) (fun s uid tid c ⟨he, hp⟩ => by
      exact (if_neg (mt (hem c).mp he)).trans (andThen_of_error hp _))
  · exact traps_of (fun s => by rw [exec_st, execSt]; rfl) (fun s uid tid c ⟨he, hp⟩ => by
      exact (if_neg (mt (hem c).mp he)).trans (andThen_of_error hp _))
  · exact goes_of (fun s => by rw [exec_ld, execLd]; rfl) (fun s uid tid c ⟨he, hr, hq⟩ => by
      exact (if_pos ((hem c).mpr he)).trans ((andThen_of_ok hr _).trans (andThen_of_ok hq _)))
  · exact goes_of (fun s => by rw [exec_st, execSt]; rfl) (fun s uid tid c ⟨he, hr, hq⟩ => by
      exact (if_pos ((hem c).mpr he)).trans ((andThen_of_ok hr _).trans (andThen_of_ok hq _)))

/-! ## Read-modify-writes -/

theorem exec_atom (o : Long) (s : State) : exec (.atom o) s = execAtom o s := rfl
theorem exec_red (o : Long) (s : State) : exec (.red o) s = execRed o s := rfl
theorem exec_cas (o : Long) (s : State) : exec (.cas o) s = execCas o s := rfl
theorem exec_stn4 (o : Long) (s : State) : exec (.stn4 o) s = execStn4 o s := rfl
theorem exec_fatom (o : Long) (s : State) : exec (.fatom o) s = execFatom o s := rfl

/-- Settles O40: each instruction is one `rmwAt`, whose old value goes to DST or nowhere. -/
theorem atomics : Obligations.Atomics := by
  intro o r
  refine ⟨?_, ?_, ?_, fun h => ?_, fun h => ?_, ?_⟩
  · exact goes_of (fun s => by rw [exec_atom, execAtom]; rfl) (fun s uid tid c h => by exact andThen_of_ok h _)
  · exact goes_of (fun s => by rw [exec_red, execRed]; rfl) (fun s uid tid c h => by exact andThen_of_ok h _)
  · exact goes_of (fun s => by rw [exec_cas, execCas]; rfl) (fun s uid tid c h => by exact andThen_of_ok h _)
  · exact goes_of (fun s => by rw [exec_fatom, execFatom, h]; rfl) (fun s uid tid c hr => by exact andThen_of_ok hr _)
  · exact goes_of (fun s => by rw [exec_fatom, execFatom, h]; simp only [if_true, List.append_nil]; rfl) (fun s uid tid c hr => by exact andThen_of_ok hr _)
  · exact goes_of (fun s => by rw [exec_stn4, execStn4]; rfl) (fun s uid tid c h => by exact andThen_of_ok h _)

/-! ## Sync words -/

theorem exec_swarm (o : Long) (s : State) : exec (.swarm o) s = execSwarm o s := rfl
theorem exec_swadd (o : Long) (s : State) : exec (.swadd o) s = execSwadd o s := rfl
theorem exec_swread (o : Long) (s : State) : exec (.swread o) s = execSwread o s := rfl
theorem exec_swwait (o : Long) (s : State) : exec (.swwait o) s = execSwwait o s := rfl

/-- A word of this chip that has not changed: the thread waits at it. -/
theorem swAgain_here {s : State} {site : Site} (h : site.chip = chipId s) (uid tid : Nat) (c : Cur) (ea : W64) (g : Nat) :
    swAgain s uid tid c ea site g =
      .hold (modThread s uid tid (fun th => { th with reply := [] })) (.swwait (siteAddr site) (BitVec.ofNat 32 g)) := by
  simp only [swAgain, h, beq_self_eq_true, if_true]

/-- Settles O43: the writing instructions are one `rmwAt`, and `swwait` decides on the generation it read. -/
theorem syncWordInstructions : Obligations.SyncWordInstructions := by
  intro o r
  refine ⟨?_, ?_, ?_, fun p s1 => ?_, fun p s1 => ?_⟩
  · exact goes_of (fun s => by rw [exec_swarm, execSwarm, syncWrite]; rfl) (fun s uid tid c h => by exact andThen_of_ok h _)
  · exact goes_of (fun s => by rw [exec_swadd, execSwadd, syncWrite]; rfl) (fun s uid tid c h => by exact andThen_of_ok h _)
  · exact goes_of (fun s => by rw [exec_swread, execSwread]; rfl) (fun s uid tid c h => by exact andThen_of_ok h _)
  · refine waits_of (fun s => by rw [exec_swwait, execSwwait]; rfl) (fun s uid tid c ⟨⟨hp, hr, hm⟩, hg, hc⟩ => ?_)
    refine (andThen_of_ok hp _).trans ((andThen_of_ok hr _).trans ?_)
    simp only [hm, hg, beq_self_eq_true, if_true, swAgain_here hc]
  · refine goes_of (fun s => by rw [exec_swwait, execSwwait]; rfl) (fun s uid tid c ⟨⟨hp, hr, hm⟩, hg⟩ => ?_)
    refine (andThen_of_ok hp _).trans ((andThen_of_ok hr _).trans ?_)
    simp only [hm, beq_eq_false_iff_ne.mpr hg, Bool.false_eq_true, if_false]
    rfl

end Sys2Proof.Machine
end

section
/-! Team-uniform loads, prefetch, probes, fences and flushes (O44): the release part with which a thread goes on, the wait for writes that
an instruction starts, and the k registers that `ldk` writes. -/

namespace Sys2Proof.Machine

open Sys2Proof

/-! ## Release parts (R146) -/

section
variable {s : State} {uid tid : Nat} {c : Cur} {order : Nat} {scope : BitVec 2} (after : State → Release → Release)
  (now : State → Except Act State)

/-- The order has a release part at a scope beyond the thread's own. -/
def releases (order : Nat) (scope : BitVec 2) : Prop := hasRelease order = true ∧ scope ≠ 0

theorem goRelease_none (h : ¬ releases order scope) : goRelease s uid tid c order scope after now = now s := by
  have hc : (!hasRelease order || scope == 0) = true := by
    simp only [releases, not_and, ne_eq, Classical.not_not] at h
    cases hr : hasRelease order with
    | false => rfl
    | true => simpa using h hr
  rw [goRelease, if_pos hc]

theorem goRelease_of_releases (h : releases order scope) : goRelease s uid tid c order scope after now =
    if (startRelease s (teamCore c.team) c.team.asid scope).1.isEmpty then now (startRelease s (teamCore c.team) c.team.asid scope).2
    else .ok (modThread (startRelease s (teamCore c.team) c.team.asid scope).2 uid tid (fun th =>
      { th with rel := some (after (startRelease s (teamCore c.team) c.team.asid scope).2
        { pc := th.pc, own := false, ids := (startRelease s (teamCore c.team) c.team.asid scope).1 }) })) := by
  have hc : ¬ (!hasRelease order || scope == 0) = true := by
    rw [Bool.or_eq_true, not_or]
    exact ⟨by simp [h.1], by simpa using h.2⟩
  rw [goRelease, if_neg hc]

theorem goRelease_empty (h : releases order scope) (he : (startRelease s (teamCore c.team) c.team.asid scope).1 = []) :
    goRelease s uid tid c order scope after now = now (startRelease s (teamCore c.team) c.team.asid scope).2 := by
  rw [goRelease_of_releases after now h, if_pos (by rw [he]; rfl)]

theorem goRelease_waits (h : releases order scope) (he : (startRelease s (teamCore c.team) c.team.asid scope).1 ≠ []) :
    goRelease s uid tid c order scope after now =
      .ok (modThread (startRelease s (teamCore c.team) c.team.asid scope).2 uid tid (fun th =>
        { th with rel := some (after (startRelease s (teamCore c.team) c.team.asid scope).2
          { pc := th.pc, own := false, ids := (startRelease s (teamCore c.team) c.team.asid scope).1 }) })) := by
  rw [goRelease_of_releases after now h, if_neg (by simpa using he)]

end

section
variable {s : State} {uid tid core : Nat} {f : State → List Nat × State}

theorem awaitWrites_done (h : threadRel s uid tid = none) (he : (f s).1 = []) : awaitWrites s uid tid core f = .ok (f s).2 := by
  simp only [awaitWrites, h, he, List.isEmpty_nil, if_true]

theorem awaitWrites_starts (h : threadRel s uid tid = none) (he : (f s).1 ≠ []) : awaitWrites s uid tid core f =
    .error (.hold (modThread (f s).2 uid tid
      (fun th => { th with rel := some ({ pc := th.pc, own := true, ids := (f s).1 } : Release) })) .release) := by
  have hc : (f s).1.isEmpty = false := by simpa using he
  simp only [awaitWrites, h, hc, Bool.false_eq_true, if_false]

theorem relLive_iff (r : Release) : relLive s core r = true ↔ ∃ i ∈ r.ids, idLive s core i = true := by simp [relLive]

theorem awaitWrites_ended {r : Release} (h : threadRel s uid tid = some r) (ho : r.own = true)
    (hl : ∀ i ∈ r.ids, idLive s core i = false) : awaitWrites s uid tid core f = .ok s := by
  have hn : relLive s core r = false := by
    rw [Bool.eq_false_iff, ne_eq, relLive_iff]
    rintro ⟨i, hi, hv⟩
    rw [hl i hi] at hv
    cases hv
  simp only [awaitWrites, h, ho, hn, Bool.not_false, Bool.and_self, if_true]

theorem awaitWrites_waits {r : Release} (h : threadRel s uid tid = some r) (hl : ∃ i ∈ r.ids, idLive s core i = true) :
    awaitWrites s uid tid core f = .error (.hold s .release) := by
  simp only [awaitWrites, h, relLive_iff r |>.mpr hl, Bool.not_true, Bool.and_false, Bool.false_eq_true, if_false]

end

/-! ## The k registers (R21, R153) -/

theorem getD_foldl_set (f : Nat) : ∀ (ws : List W32) (i : Nat) (k : List W32) (j : Nat), f + i + ws.length ≤ k.length →
    (((List.range' i ws.length).zip ws).foldl (fun k p => k.set (f + p.1) p.2) k).getD j 0 =
      if f + i ≤ j ∧ j < f + i + ws.length then ws.getD (j - (f + i)) 0 else k.getD j 0
  | [], i, k, j, _ => by
    rw [if_neg (by simp only [List.length_nil]; omega)]
    rfl
  | w :: ws, i, k, j, h => by
    rw [List.length_cons] at h
    rw [List.length_cons, List.range'_succ, List.zip_cons_cons, List.foldl_cons,
      getD_foldl_set f ws (i + 1) (k.set (f + i) w) j (by rw [List.length_set]; omega)]
    by_cases hj : j = f + i
    · subst hj
      have hset : (k.set (f + i) w).getD (f + i) 0 = w := by
        rw [List.getD_eq_getElem?_getD, List.getElem?_set_self (by omega), Option.getD_some]
      rw [if_neg (by omega), if_pos (by omega), hset, Nat.sub_self, List.getD_cons_zero]
    · have hset : (k.set (f + i) w).getD j 0 = k.getD j 0 := by
        rw [List.getD_eq_getElem?_getD, List.getElem?_set_ne (Ne.symm hj), List.getD_eq_getElem?_getD]
      by_cases hin : f + (i + 1) ≤ j ∧ j < f + (i + 1) + ws.length
      · rw [if_pos hin, if_pos (by omega), show j - (f + i) = j - (f + (i + 1)) + 1 by omega, List.getD_cons_succ]
      · rw [if_neg hin, if_neg (by omega), hset]

theorem readK_putK {t : Team} {ws : List W32} {f : Nat} (j : Nat) (h : f + ws.length ≤ t.k.length) :
    readK (putK t f ws) j = if f ≤ j ∧ j < f + ws.length then ws.getD (j - f) 0 else readK t j := by
  rw [readK, putK, List.range_eq_range']
  exact getD_foldl_set f ws 0 t.k j h

/-! ## The instructions -/

theorem exec_ldk (o : Long) (s : State) : exec (.ldk o) s = execLdk o s := rfl
theorem exec_pref (o : Long) (s : State) : exec (.pref o) s = execPref o s := rfl
theorem exec_fence (o : Long) (s : State) : exec (.fence o) s = execFence o s := rfl
theorem exec_flushIcache (o : Long) (s : State) : exec (.flushIcache o) s = execFlushIcache o s := rfl
theorem exec_flushWcb (o : Long) (s : State) : exec (.flushWcb o) s = execFlushWcb o s := rfl

/-- Settles O44: the steps of each instruction in sequence, with the cases of its release part and of its wait. -/
theorem otherMemory : Obligations.OtherMemory := by
  intro o base f n line lines rel free start fenced scope keys
  have hfree : ∀ c : Cur, free c → ¬ c.th.rel.any (fun r => !r.own) = true := fun c h => ne_true_of_eq_false h
  refine ⟨fun s1 p => ?_, fun h => ?_, fun h => ?_, goes_of (fun _ => rfl) (fun _ _ _ _ _ => rfl), ?_, ?_, ?_, ?_,
    fun s uid tid core f => ⟨awaitWrites_done, awaitWrites_starts, fun _ => awaitWrites_ended, fun _ => awaitWrites_waits⟩,
    fun s1 => ?_, goes_of (fun _ => rfl) (fun _ _ _ _ _ => rfl), fun s1 => ?_, fun t ws f j h => readK_putK j h⟩
  · exact goes_of (fun s => by rw [exec_ldk, execLdk]; rfl) (fun s uid tid c ⟨ha, hr, hw⟩ => by
      have hm : ¬ isMisaligned (effAddr c o) 4 = true := by simp [isMisaligned, ha]
      exact (andThen_of_ok hr _).trans ((if_neg hm).trans (andThen_of_ok hw _)))
  · refine goes_of (fun s => by rw [exec_pref, execPref]; rfl) (fun s uid tid c _ => ?_)
    simp only [h, beq_self_eq_true, if_true, lines]
    split
    case h_1 hf => rw [if_pos hf]
    case h_2 hf => rw [if_neg hf]
  · refine goes_of (fun s => by rw [exec_pref, execPref]; rfl) (fun s uid tid c _ => ?_)
    simp only [beq_eq_false_iff_ne.mpr h]
    rfl
  · refine goes_of (fun s => by rw [exec_fence, execFence]) (fun s uid tid c ⟨hf, hr⟩ => ?_)
    refine (if_neg (hfree c hf)).trans ?_
    rw [goRelease_none _ _ hr]
    rfl
  · refine goes_of (fun s => by rw [exec_fence, execFence]) (fun s uid tid c ⟨hf, hr, he⟩ => ?_)
    refine (if_neg (hfree c hf)).trans ?_
    rw [goRelease_empty _ _ hr he]
    rfl
  · refine goes_of (fun s => by rw [exec_fence, execFence]) (fun s uid tid c ⟨hf, hr, he⟩ => ?_)
    refine (if_neg (hfree c hf)).trans ?_
    rw [goRelease_waits _ _ hr he]
    rfl
  · exact waits_of (fun s => by rw [exec_fence, execFence]) (fun s uid tid c hf => by exact if_pos (Bool.of_not_eq_false hf))
  · refine goes_of (fun s => by rw [exec_flushIcache, execFlushIcache]) (fun s uid tid c h => ?_)
    refine (andThen_of_ok h _).trans ?_
    simp only [scope]
    split
    case h_1 hf => rw [if_pos hf]
    case h_2 hf => rw [if_neg hf]
  · exact goes_of (fun s => by rw [exec_flushWcb, execFlushWcb]) (fun s uid tid c h => by exact andThen_of_ok h _)

end Sys2Proof.Machine
end

section
/-! New values of atomics and sync words (O42): minima and maxima by the order of their type, and the fields of a sync word by place
value. -/

namespace Sys2Proof.Machine

open Sys2Proof

/-! ## Integer atomics (R158) -/

/-- The one of two values that comes first in an order given by numbers is the one with the smaller number. -/
theorem apply_ite_le_min (v : Nat → Int) (x y : Nat) : v (if decide (v x ≤ v y) then x else y) = min (v x) (v y) := by
  by_cases h : v x ≤ v y
  · rw [decide_eq_true h, if_pos rfl, Int.min_eq_left h]
  · rw [decide_eq_false h, if_neg Bool.false_ne_true, Int.min_eq_right (by omega)]

theorem apply_ite_le_max (v : Nat → Int) (x y : Nat) : v (if decide (v x ≤ v y) then y else x) = max (v x) (v y) := by
  by_cases h : v x ≤ v y
  · rw [decide_eq_true h, if_pos rfl, Int.max_eq_right h]
  · rw [decide_eq_false h, if_neg Bool.false_ne_true, Int.max_eq_left (by omega)]

theorem cast_ite_le_min (x y : Nat) : ((if decide (x ≤ y) then x else y : Nat) : Int) = min (x : Int) y := by
  rw [← apply_ite_le_min (fun n => (n : Int))]
  simp only [Int.ofNat_le]

theorem cast_ite_le_max (x y : Nat) : ((if decide (x ≤ y) then y else x : Nat) : Int) = max (x : Int) y := by
  rw [← apply_ite_le_max (fun n => (n : Int))]
  simp only [Int.ofNat_le]

theorem ite_zero_or_lt (x y : Nat) : (if (x == 0 || decide (x > y)) = true then y else x - 1) = if x = 0 ∨ y < x then y else x - 1 := by
  simp only [Bool.or_eq_true, beq_iff_eq, decide_eq_true_eq]

theorem atomNew_values {t : Nat} (ht : t < 4) (x y : Nat) :
    let w := 8 * atomSize t
    let v := fun (n : Nat) => if t % 2 = 0 then toSigned w n else (n : Int)
    let r := fun (op : Nat) => atomNew (4 * op + t) x y
    r 0 = (x + y) % 2 ^ w ∧ v (r 1) = min (v x) (v y) ∧ v (r 2) = max (v x) (v y) ∧ r 3 = x &&& y ∧ r 4 = x ||| y ∧
      r 5 = x ^^^ y ∧ r 6 = y ∧ r 7 = (if y ≤ x then 0 else x + 1) ∧ r 8 = (if x = 0 ∨ y < x then y else x - 1) := by
  obtain rfl | rfl | rfl | rfl : t = 0 ∨ t = 1 ∨ t = 2 ∨ t = 3 := by omega
  · exact ⟨rfl, apply_ite_le_min (toSigned 32) x y, apply_ite_le_max (toSigned 32) x y, rfl, rfl, rfl, rfl, rfl, ite_zero_or_lt x y⟩
  · exact ⟨rfl, cast_ite_le_min x y, cast_ite_le_max x y, rfl, rfl, rfl, rfl, rfl, ite_zero_or_lt x y⟩
  · exact ⟨rfl, apply_ite_le_min (toSigned 64) x y, apply_ite_le_max (toSigned 64) x y, rfl, rfl, rfl, rfl, rfl, ite_zero_or_lt x y⟩
  · exact ⟨rfl, cast_ite_le_min x y, cast_ite_le_max x y, rfl, rfl, rfl, rfl, rfl, ite_zero_or_lt x y⟩

/-! ## `cas` and `stn4` (R152, R160) -/

theorem homeOpNew_cas (wide : Bool) (old c n : Nat) : homeOpNew (.cas wide c n) old = if old = c then some n else none := by
  simp only [homeOpNew, beq_iff_eq]

theorem homeOpNew_stn4 {old v : Nat} (hv : v < 16) :
    ∃ lo hi, homeOpNew (.stn4 false v) old = some lo ∧ homeOpNew (.stn4 true v) old = some hi ∧
      lo % 16 = v ∧ lo / 16 = old / 16 ∧ hi % 16 = old % 16 ∧ hi / 16 = v :=
  ⟨old / 16 * 16 + v % 16, old % 16 + v % 16 * 16, rfl, rfl, by omega, by omega, by omega, by omega⟩

/-! ## Sync words (R165, R166) -/

theorem syncArm_zero (w : SyncWord) (auto : Bool) : syncArm w 0 auto =
    { tgt := 0, cnt := 0, gen := (w.gen + 1) % 2 ^ 32, arm := auto, auto := auto, ovr := false } := rfl

theorem syncArm_of_ne {n : Nat} (h : n ≠ 0) (w : SyncWord) (auto : Bool) : syncArm w n auto =
    { tgt := n, cnt := 0, gen := w.gen, arm := true, auto := auto, ovr := false } := by
  simp only [syncArm, beq_eq_false_iff_ne.mpr h, Bool.false_eq_true, if_false]

theorem syncAdd_unarmed {w : SyncWord} (h : w.arm = false) (n : Nat) :
    syncAdd w n = { w with cnt := min (w.cnt + n) (2 ^ 32 - 1), ovr := true } := by
  simp only [syncAdd, h, Bool.not_false, if_true]

theorem syncAdd_armed {w : SyncWord} (h : w.arm = true) (n : Nat) : syncAdd w n =
    if w.cnt + n ≥ w.tgt then syncComplete { w with cnt := w.cnt + n, ovr := w.ovr || decide (w.cnt + n > w.tgt) }
    else { w with cnt := w.cnt + n } := by
  simp only [syncAdd, h, Bool.not_true, Bool.false_eq_true, if_false]

/-- The fields lie beside one another. -/
theorem syncOf_syncNat {w : SyncWord} (ht : w.tgt < 2 ^ 32) (hc : w.cnt < 2 ^ 32) (hg : w.gen < 2 ^ 32) : syncOf (syncNat w) = w := by
  obtain ⟨tgt, cnt, gen, arm, auto, ovr⟩ := w
  have ha : arm.toNat < 2 := Bool.toNat_lt arm
  have hu : auto.toNat < 2 := Bool.toNat_lt auto
  have ho : ovr.toNat < 2 := Bool.toNat_lt ovr
  have hone : ∀ b : Bool, (b.toNat == 1) = b := by decide
  simp only at ht hc hg
  have e1 : bitsAt (syncNat ⟨tgt, cnt, gen, arm, auto, ovr⟩) 31 0 = tgt := by simp only [bitsAt, syncNat]; omega
  have e2 : bitsAt (syncNat ⟨tgt, cnt, gen, arm, auto, ovr⟩) 63 32 = cnt := by simp only [bitsAt, syncNat]; omega
  have e3 : bitsAt (syncNat ⟨tgt, cnt, gen, arm, auto, ovr⟩) 95 64 = gen := by simp only [bitsAt, syncNat]; omega
  have e4 : bitsAt (syncNat ⟨tgt, cnt, gen, arm, auto, ovr⟩) 96 96 = arm.toNat := by simp only [bitsAt, syncNat]; omega
  have e5 : bitsAt (syncNat ⟨tgt, cnt, gen, arm, auto, ovr⟩) 97 97 = auto.toNat := by simp only [bitsAt, syncNat]; omega
  have e6 : bitsAt (syncNat ⟨tgt, cnt, gen, arm, auto, ovr⟩) 98 98 = ovr.toNat := by simp only [bitsAt, syncNat]; omega
  simp only [syncOf, e1, e2, e3, e4, e5, e6, hone]

/-- Settles O42: the values operation by operation. -/
theorem atomicAndSyncValues : Obligations.AtomicAndSyncValues := by
  refine ⟨fun t x y ht _ _ => atomNew_values ht x y, homeOpNew_cas, fun old v _ hv => homeOpNew_stn4 hv,
    fun w n auto => ⟨fun h => syncArm_of_ne h w auto, syncArm_zero w auto, fun h => syncAdd_unarmed h n, fun h hlt => ?_, fun h hle => ?_,
      syncOf_syncNat⟩⟩
  · rw [syncAdd_armed h, if_neg (by omega)]
  · rw [syncAdd_armed h, if_pos hle]; rfl

end Sys2Proof.Machine
end

section
/-! Accesses to the own chip's scratch (O39, O41): with nothing held, carried or watched, every step of a relaxed access but the one at
the home leaves the state as it is. -/

namespace Sys2Proof.Machine

open Sys2Proof Sys2Proof.Laws

/-! ## Bytes of a number -/

theorem natBytes_length : ∀ n v : Nat, (natBytes n v).length = n
  | 0, _ => rfl
  | n + 1, v => congrArg (· + 1) (natBytes_length n (v / 256))

theorem natBytes_getElem? : ∀ (n v j : Nat), j < n → (natBytes n v)[j]? = some (BitVec.ofNat 8 (v / 256 ^ j))
  | n + 1, v, 0, _ => by simp [natBytes]
  | n + 1, v, j + 1, h => by
    rw [natBytes, List.getElem?_cons_succ, natBytes_getElem? n (v / 256) j (by omega), Nat.div_div_eq_div_mul, Nat.pow_succ']

theorem natBytes_getD {n v j : Nat} (h : j < n) : (natBytes n v).getD j unlisted = BitVec.ofNat 8 (v / 256 ^ j) := by
  rw [List.getD_eq_getElem?_getD, natBytes_getElem? n v j h, Option.getD_some]

/-- A cell put once reads back. -/
theorem memGet_memPut_mem {a : Nat} {b : Byte} : ∀ {m : Memory} {ps : List (Nat × Byte)}, m.wf = true → (ps.map (·.1)).Nodup →
    (a, b) ∈ ps → memGet (memPut m ps) a = b
  | m, (k, d) :: r, hw, hn, hm => by
    obtain ⟨hk, hr⟩ := List.nodup_cons.mp hn
    rcases List.mem_cons.mp hm with h | h
    · cases h
      rw [memPut, memGet_memPut_other (memSet_wf m a b hw) (fun p hp e => hk (List.mem_map.mpr ⟨p, hp, e⟩)),
        memGet_memSet m a a b hw, if_pos rfl]
    · rw [memPut]
      exact memGet_memPut_mem (memSet_wf m k d hw) hr h

theorem readKey_homePut_mem {s : State} (h : s.mem.wf = true) (asid : Nat) {a : Nat} {b : Byte} {ps : List (Nat × Byte)}
    (hn : (ps.map (·.1)).Nodup) (hm : (a, b) ∈ ps) : readKey (homePut s asid ps) a 1 = [storedByte s a b] := by
  rw [readKey_one, homePut_mem, storedCells_eq]
  refine congrArg ([·]) (memGet_memPut_mem h ?_ (List.mem_map.mpr ⟨(a, b), hm, rfl⟩))
  rwa [List.map_map]

/-! ## A state that differs in its contexts -/

theorem chargeLines_spec (s : State) (a k n : Nat) : chargeLines s a k n = withCtxs s (chargeLines s a k n).ctxs ∧
    ∀ x, ∃ d, getCtx (chargeLines s a k n) x = (getCtx s x).map (fun (c : Ctx) => { c with due := c.due + d }) := by
  unfold chargeLines
  split
  · refine ⟨rfl, fun x => ⟨0, ?_⟩⟩
    cases getCtx s x <;> rfl
  · exact addDue_spec s a _

/-- Energy charged before an instruction's end is part of what its end may charge. -/
theorem wrote_of_ctxs {i : Instr} {s s' : State} {uid tid : Nat} {t : Team} {th : Thread} {w : Writes} {cs : List Ctx}
    (hc : ∀ a, ∃ d, getCtx (withCtxs s cs) a = (getCtx s a).map (fun c => { c with due := c.due + d }))
    (h : Wrote i (withCtxs s cs) uid tid t th w s') : Wrote i s uid tid t th w s' := by
  refine ⟨h.thread, h.others, fun a => ?_, h.frame⟩
  obtain ⟨d, hd⟩ := h.ctxs a
  obtain ⟨e, he⟩ := hc a
  refine ⟨e + d, ?_⟩
  rw [hd, he, Option.map_map]
  refine congrArg (Option.map · (getCtx s a)) (funext fun c => ?_)
  simp only [Function.comp_apply, Nat.add_assoc]

/-! ## Steps that leave the state as it is -/

section
variable {s : State} {uid tid : Nat} {t : Team} {th : Thread} {c : Cur} {ea : W64} {n : Nat} {site : Site}

theorem flipRead_window (h : site.win = true) (asid : Nat) (scope : BitVec 2) : flipRead s uid tid asid ea site scope = s := by
  simp only [flipRead, h, Bool.true_or, if_true]

/-- The Loupe checks no scratch (R265). -/
theorem admitRace_window (h : site.win = true) (offs : List Nat) (wr marked : Bool) :
    admitRace s uid tid ea site offs wr marked = .ok s := by
  simp [admitRace, threadLoupe, threadAccess, checked, h]

theorem carryRead_nil (scope : BitVec 2) (acq : Bool) : carryRead s uid tid [] scope acq = s := by
  unfold carryRead
  split
  · rfl
  · rfl

theorem carriedAt_nil {core : Nat} (hh : (getCore s core).held = []) (hc : s.carry = []) (asid key n : Nat) :
    carriedAt s core asid key n = [] := by
  simp [carriedAt, hh, hc]

theorem writerSets_nil (ht : getTeam s uid = some t) (hth : getThread t tid = some th) (hf : th.frel = []) (key size : Nat)
    (scope : BitVec 2) : writerSets s uid tid key size scope false = [] := by
  unfold writerSets
  rw [ht]
  simp only [Option.bind_some, hth, Option.map_some, hf]
  split <;> rfl

theorem leaveSets_nil (h : s.carry = []) (data : List (Nat × Byte)) : leaveSets s data [] = s := by
  simp [leaveSets, h]

theorem performThrough_nil {core : Nat} (h : (getCore s core).held = []) (key n : Nat) : performThrough s core key n = s := by
  simp [performThrough, h]

theorem nearPut_nil {core : Nat} (h : (getCore s core).near = []) (asid : Nat) (data : List (Nat × Byte)) (sets : List Carried) :
    nearPut s core asid data sets = s := by
  simp [nearPut, h]

end

/-! ## A relaxed order (R146) -/

theorem orStop_of_ok {α β : Type} {x : Except Act α} {a : α} (h : x = .ok a) (f : α → Except Act β) : orStop x f = f a := by rw [h]; rfl

theorem orStop_ok {α β : Type} (a : α) (f : α → Except Act β) : orStop (.ok a) f = f a := rfl

section
variable (s : State) (uid tid : Nat) (c : Cur) (scope : BitVec 2)

theorem doRelease_relaxed : doRelease s uid tid c 0 scope = .ok s := rfl
theorem releaseEpoch_relaxed : releaseEpoch s uid c 0 = s := rfl
theorem doAcquire_relaxed : doAcquire s c 0 scope = s := rfl
theorem goRelease_relaxed (after : State → Release → Release) (now : State → Except Act State) :
    goRelease s uid tid c 0 scope after now = now s := rfl

end

/-! ## The access itself -/

section
variable {s : State} {uid tid : Nat} {t : Team} {th : Thread} {ea : W64} {n : Nat}

theorem windowSite_nearable (ea : W64) : nearable (windowSite ea) = false := rfl
theorem windowSite_key (ea : W64) : (windowSite ea).key = scratchKey ea := rfl

/-- The checks of R144 let the access pass. -/
theorem letPass_own (h : OwnScratch s t th ea n) {q : Ask} (he : q.ea = ea) (hn : q.size = n) (ha : q.ea.toNat % q.align = 0) :
    letPass (issueState s th) uid tid (curOf s t th) q = .ok (windowSite ea, issueState s th) := by
  subst he hn
  have hv := viewOf_frame s th
  have hrel : (viewOf s th).rel = th.rel := by rw [hv]
  have hpass : (viewOf s th).pass = th.pass := by rw [hv]
  have hwatch : watchHit (issueState s th) t (viewOf s th) q = none := by
    unfold watchHit
    rcases h.watch with hp | hr
    · rw [hpass, hp]; rfl
    · rw [show (getCore (issueState s th) (teamCore t)).retic = [] from hr]
      split <;> rfl
  have hsite : checkSite (issueState s th) t.asid q = (.ok (windowSite q.ea), issueState s th) := by
    refine (checkSite_window h.window ha).2 ?_
    rintro (hb | hb | ⟨-, hb⟩)
    · exact absurd h.inside (by omega)
    · exact Bool.false_ne_true (hb.symm.trans h.granted)
    · exact Bool.false_ne_true (h.apart.symm.trans hb)
  simp only [letPass, curOf, hrel, h.behind, Bool.false_eq_true, if_false, hwatch, hsite]

theorem localLoad_own (h : OwnScratch s t th ea n) (asid : Nat) : localLoad (issueState s th) (teamCore t) asid (scratchKey ea) n false false =
    ((readKey s (scratchKey ea) n, []), chargeLines (issueState s th) asid (scratchKey ea) n) := by
  have hheld : (getCore (issueState s th) (teamCore t)).held = [] := h.quiet.1
  have hnear : (getCore (issueState s th) (teamCore t)).near = [] := h.quiet.2
  have hcarry : (issueState s th).carry = [] := h.loupe.1
  unfold localLoad
  simp only [hheld, carriedAt_nil hheld hcarry, nearPut_nil hnear, Bool.false_eq_true, if_false]
  rfl

/-- A relaxed load of scratch is its read alone. -/
theorem loadSite_of_read {s s' : State} {c : Cur} {site : Site} {bs : List Byte} {scope : BitVec 2} {strm : Bool} (hw : site.win = true)
    (hr : readSite s uid tid c ea site n true (!strm) = .ok ((bs, []), s')) :
    loadSite s uid tid c ea site n 0 scope strm = .ok (bs, s') := by
  have hread : readSite s uid tid c ea site n (!(0 != 0)) (!strm) = .ok ((bs, []), s') := hr
  simp only [loadSite, doRelease_relaxed, orStop_ok, flipRead_window hw, admitRace_window hw, hread, carryRead_nil, releaseEpoch_relaxed,
    doAcquire_relaxed]

/-- A relaxed load reads the bytes that stand at the home. -/
theorem loadSite_own (h : OwnScratch s t th ea n) (strm : Bool) (scope : BitVec 2) :
    loadSite (issueState s th) uid tid (curOf s t th) ea (windowSite ea) n 0 scope strm =
      .ok (readKey s (scratchKey ea) n, chargeLines (issueState s th) t.asid (scratchKey ea) n) := by
  have hchip : ((windowSite ea).chip == chipId (issueState s th)) = true := 
    beq_iff_eq.mpr (show (windowSite ea).chip = chipId (issueState s th) from h.chip)
  have hclean : poisoned (issueState s th) (scratchKey ea) n = false := h.clean
  have hread : readSite (issueState s th) uid tid (curOf s t th) ea (windowSite ea) n true (!strm) =
      .ok ((readKey s (scratchKey ea) n, []), chargeLines (issueState s th) t.asid (scratchKey ea) n) := by
    have hwin : (windowSite ea).win = true := rfl
    simp only [readSite, hchip, hclean, hwin, windowSite_nearable, windowSite_key, if_true, Bool.false_eq_true, if_false, Bool.and_false,
      Bool.false_and, Bool.not_true, show (curOf s t th).team = t from rfl, localLoad_own h]
  exact loadSite_of_read rfl hread

/-- A relaxed store performs its bytes at the home. -/
theorem storeSite_own (hT : Turn s uid tid t th) (h : OwnScratch s t th ea n) (scope : BitVec 2) (data : List (Nat × Byte)) :
    storeSite (issueState s th) uid tid (curOf s t th) ea (windowSite ea) n 0 scope data =
      .ok (homePut (issueState s th) t.asid (data.map (fun p => (scratchKey ea + p.1, p.2)))) := by
  have ht : getTeam (issueState s th) uid = some t := hT.team
  have hchip : ((windowSite ea).chip == chipId (issueState s th)) = true :=
    beq_iff_eq.mpr (show (windowSite ea).chip = chipId (issueState s th) from h.chip)
  have hsets : ∀ key, storeSets (issueState s th) uid tid key n scope false (data.map (·.1)) = [] := fun key => by
    simp [storeSets, writerSets_nil ht hT.thread h.loupe.2]
  have hrace : admitRace (flipRead (issueState s th) uid tid t.asid ea (windowSite ea) scope) uid tid ea (windowSite ea)
      (data.map (·.1)) true false = .ok (issueState s th) := by
    rw [flipRead_window rfl, admitRace_window rfl]
  have hcarry : ∀ ps, (homePut (issueState s th) t.asid ps).carry = [] := fun ps => by
    rw [homePut_same (issueState s th) t.asid ps]
    exact h.loupe.1
  have hwrite : writeSite (issueState s th) uid tid (curOf s t th) ea (windowSite ea) data .plain [] =
      .ok (homePut (issueState s th) t.asid (data.map (fun p => (scratchKey ea + p.1, p.2)))) := by
    have hheld : (getCore (issueState s th) (teamCore t)).held = [] := h.quiet.1
    simp only [writeSite, hchip, windowSite_nearable, if_true, Bool.false_eq_true, if_false, Bool.false_and,
      show (curOf s t th).team = t from rfl, performThrough_nil hheld, leaveSets_nil (hcarry _)]
    rfl
  have hgo : storeSite (issueState s th) uid tid (curOf s t th) ea (windowSite ea) n 0 scope data =
      orStop (if data.isEmpty then .ok (issueState s th)
        else orStop (admitRace (flipRead (issueState s th) uid tid t.asid ea (windowSite ea) scope) uid tid ea (windowSite ea)
          (data.map (·.1)) true false) (fun s2 => writeSite s2 uid tid (curOf s t th) ea (windowSite ea) data .plain
            (storeSets s2 uid tid (carryKey s2 (windowSite ea)) n scope false (data.map (·.1))))) (fun s1 => .ok s1) := rfl
  rw [hgo]
  split
  case isTrue he =>
    rw [List.isEmpty_iff.mp he]
    simp [orStop, homePut, storedCells_eq]
  case isFalse =>
    refine orStop_of_ok ((orStop_of_ok hrace _).trans ?_) _
    rw [hsets, hwrite]

/-- A relaxed read-modify-write acts at the home. -/
theorem rmwSite_own (h : OwnScratch s t th ea n) {op : HomeOp} (hn : n = homeOpSize op) :
    rmwSite (issueState s th) uid tid (curOf s t th) ea (windowSite ea) op = .ok (applyHome (issueState s th) t.asid (scratchKey ea) op) := by
  subst hn
  have hchip : ((windowSite ea).chip == chipId (issueState s th)) = true :=
    beq_iff_eq.mpr (show (windowSite ea).chip = chipId (issueState s th) from h.chip)
  have hheld : (getCore (issueState s th) (teamCore t)).held = [] := h.quiet.1
  have hclean : poisoned (issueState s th) (windowSite ea).key (homeOpSize op) = false := h.clean
  simp only [rmwSite, hchip, hclean, windowSite_nearable, if_true, Bool.false_eq_true, if_false, show (curOf s t th).team = t from rfl,
    performThrough_nil hheld]
  rfl

end

/-! ## Loads -/

theorem placed_zip_range {α : Type} (d : Nat) (l : List α) (f : Nat × α → Reg) :
    Placed d l.length (((List.range l.length).zip l).map (fun p => (d + p.1, f p))) := by
  refine ⟨?_, fun q hq => ?_⟩
  · rw [List.map_map, show ((·.1) ∘ fun p : Nat × α => (d + p.1, f p)) = (fun k => d + k) ∘ (·.1) from rfl, ← List.map_map,
      List.map_fst_zip (by simp)]
    exact List.Pairwise.map _ (fun a b h he => h (Nat.add_left_cancel he)) List.nodup_range
  · obtain ⟨⟨j, x⟩, hj, rfl⟩ := List.mem_map.mp hq
    have hj' := List.mem_range.mp (List.of_mem_zip hj).1
    exact ⟨Nat.le_add_right .., Nat.add_lt_add_left hj' d⟩

theorem tyTags_length : ∀ t : BitVec 6, (tyTags t).length = memRegs t := by decide

theorem memRegs_pos (t : BitVec 6) : 0 < memRegs t := by
  unfold memRegs
  repeat' split
  all_goals decide

theorem placed_loadRegs (t : BitVec 6) (d v : Nat) : Placed d (memRegs t) (loadRegs t d v) := by
  unfold loadRegs
  split
  · exact placed_result32 _ _ _ _ (memRegs_pos t)
  · rw [← tyTags_length]
    exact placed_zip_range d (tyTags t) _

/-- What an instruction leaves that has charged energy to contexts, made its writes, and goes on. -/
theorem wrote_after_charge {i : Instr} {s s1 : State} {uid tid : Nat} {t : Team} {th : Thread} {w : Writes} {ctr : Nat}
    (hT : Turn s uid tid t th) (hi : isControl i = false) (sg : Sig) (cs : List Ctx)
    (hc : ∀ a, ∃ d, getCtx (withCtxs s cs) a = (getCtx s a).map (fun c => { c with due := c.due + d }))
    (hs : s1 = { withCtxs s cs with freeCtr := ctr }) (hr : (w.regs.map (·.1)).Nodup) (hb : ∀ q ∈ w.regs, q.1 < th.regs.length)
    (hp : (w.preds.map (·.1)).Nodup) :
    Wrote i s uid tid t th w (popIssue (chargeIssue i t.asid th (retireAt (applyWrites s1 uid tid w) uid tid i sg true th (nextPc i th)))) := by
  subst hs
  exact wrote_of_ctxs hc (wrote_after (s := withCtxs s cs) ⟨hT.head, hT.team, hT.thread, hT.runs⟩ hi sg true ctr w hr hb hp)

theorem scratch_load {o : Long} {s : State} {uid tid : Nat} {t : Team} {th : Thread} (hT : Turn s uid tid t th)
    (hP : Passes (.ld o) (sigR (useRaw 2 (srcA o) ++ useDst o.dst.toNat (memRegs o.sub))) s t th) (ho : o.order = 0)
    (h : OwnScratch s t th (effAddr (curOf s t th) o) (memSize o.sub)) :
    ∃ s', exec (.ld o) s = .next s' ∧ Wrote (.ld o) s uid tid t th (outR (loadRegs o.sub o.dst.toNat
      (bytesNat (readKey s (scratchKey (effAddr (curOf s t th) o)) (memSize o.sub))))) s' := by
  have hgo := (loadsAndStores o).1 (windowSite (effAddr (curOf s t th) o), issueState s th)
    (readKey s (scratchKey (effAddr (curOf s t th) o)) (memSize o.sub),
      chargeLines (issueState s th) t.asid (scratchKey (effAddr (curOf s t th) o)) (memSize o.sub)) s uid tid t th hT hP
    ⟨fun he => he.1 h.aligned, letPass_own h rfl rfl h.aligned, by rw [ho]; exact loadSite_own h o.flag o.scope⟩
  obtain ⟨hc, hd⟩ := chargeLines_spec (issueState s th) t.asid (scratchKey (effAddr (curOf s t th) o)) (memSize o.sub)
  generalize chargeLines (issueState s th) t.asid (scratchKey (effAddr (curOf s t th) o)) (memSize o.sub) = s1 at *
  have hreg : ∀ q ∈ (outR (loadRegs o.sub o.dst.toNat (bytesNat (readKey s (scratchKey (effAddr (curOf s t th) o))
      (memSize o.sub))))).regs, q.1 < th.regs.length := fun q hq =>
    lt_regs_of_placed hP (u := ⟨false, o.dst.toNat, memRegs o.sub, true, []⟩) (by simp [sigR, useDst]) rfl (placed_loadRegs ..) hq
  have hcs : ∀ a, ∃ d, getCtx (withCtxs s s1.ctxs) a = (getCtx s a).map (fun c => { c with due := c.due + d }) := fun a => by
    obtain ⟨d, hd⟩ := hd a
    exact ⟨d, hd⟩
  exact ⟨_, hgo, wrote_after_charge hT rfl _ s1.ctxs hcs hc (placed_loadRegs ..).once hreg List.nodup_nil⟩

/-! ## Stores -/

/-- The enabled bytes of a store, each at its offset. -/
theorem mem_enabledBytes {o : Long} {c : Cur} {n v : Nat} {p : Nat × Byte} : p ∈ enabledBytes o c n (natBytes n v) ↔
    p.1 < n ∧ (o.flag = false ∨ (opd32 c (regOpd o.kb o.sb)).getLsbD p.1 = true) ∧ p.2 = BitVec.ofNat 8 (v / 256 ^ p.1) := by
  have hl := natBytes_length n v
  have hz : p ∈ (List.range n).zip (natBytes n v) ↔ p.1 < n ∧ p.2 = BitVec.ofNat 8 (v / 256 ^ p.1) := by
    have hm := mem_zip_range (natBytes n v) p.1 p.2
    rw [hl] at hm
    rw [hm]
    constructor
    · intro h
      have hlt : p.1 < n := by rw [← hl]; exact (List.getElem?_eq_some_iff.mp h).1
      rw [natBytes_getElem? n v p.1 hlt, Option.some_inj] at h
      exact ⟨hlt, h.symm⟩
    · rintro ⟨hlt, h⟩
      rw [natBytes_getElem? n v p.1 hlt, h]
  simp only [enabledBytes, List.mem_filter, hz, Bool.or_eq_true, Bool.not_eq_true']
  exact ⟨fun ⟨⟨hlt, hv⟩, hon⟩ => ⟨hlt, hon, hv⟩, fun ⟨hlt, hon, hv⟩ => ⟨⟨hlt, hv⟩, hon⟩⟩

theorem enabledBytes_nodup (o : Long) (c : Cur) (n v : Nat) : ((enabledBytes o c n (natBytes n v)).map (·.1)).Nodup := by
  refine List.Nodup.sublist (List.Sublist.map _ List.filter_sublist) ?_
  rw [List.map_fst_zip (Nat.le_of_eq (by rw [natBytes_length, List.length_range]))]
  exact List.nodup_range

/-- An instruction that writes nothing leaves its thread so. -/
theorem wroteThread_retired {i : Instr} {sg : Sig} {th : Thread} : WroteThread i th {} (retired i sg true th th (nextPc i th)) where
  pc := rfl
  regs := fun _ _ h => absurd h List.not_mem_nil
  kept := fun _ _ => rfl
  preds := fun _ _ h => absurd h List.not_mem_nil
  keptP := fun _ _ _ => rfl
  seed := rfl
  ready := rfl
  frame := rfl

theorem scratch_store {o : Long} {s : State} {uid tid : Nat} {t : Team} {th : Thread} (hT : Turn s uid tid t th)
    (hP : Passes (.st o) (sigR (useRaw 2 (srcA o) ++ (if o.flag then useRaw 1 (regOpd o.kb o.sb) else [])
      ++ (if bitType o.sub then useRaw (memRegs o.sub) (.v o.dst.toNat) else useTyped o.sub (.v o.dst.toNat)))) s t th)
    (ho : o.order = 0) (h : OwnScratch s t th (effAddr (curOf s t th) o) (memSize o.sub)) :
    ∃ sg, exec (.st o) s = .next (ended (.st o) sg s uid tid t th (homePut (issueState s th) t.asid
      ((enabledBytes o (curOf s t th) (memSize o.sub) (natBytes (memSize o.sub) (storeNat (curOf s t th) o.sub o.dst.toNat))).map
        (fun p => (scratchKey (effAddr (curOf s t th) o) + p.1, p.2)))) (nextPc (.st o) th)) :=
  ⟨_, (loadsAndStores o).2.1 (windowSite (effAddr (curOf s t th) o), issueState s th) _ s uid tid t th hT hP
    ⟨fun he => he.1 h.aligned, letPass_own h rfl rfl h.aligned, by rw [ho]; exact storeSite_own hT h o.scope _⟩⟩

/-- The end of an instruction whose effect is bytes performed at a home. -/
theorem ended_homePut {i : Instr} {s : State} {uid tid : Nat} {t : Team} {th : Thread} (hT : Turn s uid tid t th) (hi : isControl i = false)
    (sg : Sig) (ps : List (Nat × Byte)) :
    let s' := ended i sg s uid tid t th (homePut (issueState s th) t.asid ps) (nextPc i th)
    s'.mem = (homePut s t.asid ps).mem ∧ getTeam s' uid = some (setThread t tid (retired i sg true th th (nextPc i th))) ∧
      ∀ u, u ≠ uid → getTeam s' u = getTeam s u := by
  have hteams : ∀ u, getTeam (homePut (issueState s th) t.asid ps) u = getTeam s u := fun u => same_getTeam (homePut_same ..) u
  have hend := retireAt_eq ((hteams uid).trans hT.team) hT.thread hi (canRun_not_gone hT.runs) sg true th (nextPc i th)
  refine ⟨?_, ?_, fun u hu => ?_⟩
  · rw [ended, mem_popCharge, hend]
    refine (homePut_mem ..).trans ((homePut_mem ..).trans ?_).symm
    rfl
  · rw [ended, getTeam_popCharge, hend]
    exact getTeam_setTeam_same ((hteams uid).trans hT.team) rfl
  · rw [ended, getTeam_popCharge, hend, getTeam_setTeam_other, hteams]
    exact fun hu' => hu (hu'.symm.trans (getTeam_uid (s := s) (t := t) hT.team))

/-- What the enabled bytes of a store leave at the home. -/
theorem stored_bytes {s : State} (hw : s.mem.wf = true) (asid key : Nat) (o : Long) (c : Cur) (n v : Nat) :
    let mask := fun (j : Nat) => o.flag = false ∨ (opd32 c (regOpd o.kb o.sb)).getLsbD j = true
    let s' := homePut s asid ((enabledBytes o c n (natBytes n v)).map (fun p => (key + p.1, p.2)))
    (∀ j, j < n → mask j → readKey s' (key + j) 1 = [storedByte s (key + j) (BitVec.ofNat 8 (v / 256 ^ j))]) ∧
    (∀ a, (∀ j, j < n → mask j → a ≠ key + j) → readKey s' a 1 = readKey s a 1) := by
  refine ⟨fun j hj hm => readKey_homePut_mem hw asid ?_ (List.mem_map.mpr ⟨(j, _), mem_enabledBytes.mpr ⟨hj, hm, rfl⟩, rfl⟩),
    fun a ha => readKey_homePut_other hw asid (List.forall_mem_map.mpr fun p hp he => ?_)⟩
  · have hnd := List.Pairwise.map (S := (· ≠ ·)) (fun k => key + k) (fun a b h he => h (Nat.add_left_cancel he)) (enabledBytes_nodup o c n v)
    rw [List.map_map] at hnd ⊢
    exact hnd
  · obtain ⟨hj, hm, -⟩ := mem_enabledBytes.mp hp
    exact ha p.1 hj hm he.symm

/-- Settles O39: the aligned access passes R144 to its home, where `loadSite_own` reads and `storeSite_own` performs the bytes. -/
theorem scratchAccesses : Obligations.ScratchAccesses := by
  refine ⟨fun o s uid tid t th hT hP ho h => scratch_load hT hP ho h, fun o s uid tid t th hT hP ho hw h => ?_⟩
  obtain ⟨sg, hgo⟩ := scratch_store hT hP ho h
  obtain ⟨hmem, hteam, hothers⟩ := ended_homePut hT (i := .st o) rfl sg ((enabledBytes o (curOf s t th) (memSize o.sub)
    (natBytes (memSize o.sub) (storeNat (curOf s t th) o.sub o.dst.toNat))).map
      (fun p => (scratchKey (effAddr (curOf s t th) o) + p.1, p.2)))
  have hbytes := stored_bytes hw t.asid (scratchKey (effAddr (curOf s t th) o)) o (curOf s t th) (memSize o.sub)
    (storeNat (curOf s t th) o.sub o.dst.toNat)
  refine ⟨_, _, hgo, hteam, wroteThread_retired, hothers, ?_, ?_⟩
  · rw [hmem]
    exact homePut_wf hw _ _
  · simp only [readKey_one, hmem] at hbytes ⊢
    exact hbytes

/-! ## Read-modify-writes -/

theorem modCtx_mem (s : State) (asid : Nat) (f : Ctx → Ctx) : (modCtx s asid f).mem = s.mem := by
  unfold modCtx
  split
  · rfl
  · rfl

theorem storeCarried_mem (s : State) (c : Carried) : (storeCarried s c).mem = s.mem := by
  simp only [storeCarried, keepSet]
  split
  · exact modCtx_mem s c.asid _
  · rfl

theorem carryWrite_mem (s : State) (uid tid key size : Nat) (scope : BitVec 2) (rel keep : Bool) :
    (carryWrite s uid tid key size scope rel keep).mem = s.mem := by
  have hfold : ∀ (cs : List Carried) (s : State), (cs.foldl storeCarried s).mem = s.mem := by
    intro cs
    induction cs with
    | nil => exact fun _ => rfl
    | cons c r ih => exact fun s => (ih _).trans (storeCarried_mem s c)
  rw [carryWrite, hfold]
  split
  · rw [touchCarried]
    split
    · rfl
    · rfl
  · rfl

theorem siteSets_own {s : State} {t : Team} {th : Thread} {ea : W64} {n : Nat} (h : OwnScratch s t th ea n) (asid k : Nat) :
    siteSets (issueState s th) (teamCore t) asid (windowSite ea) k = [] := by
  have hheld : (getCore (issueState s th) (teamCore t)).held = [] := h.quiet.1
  have hcarry : (issueState s th).carry = [] := h.loupe.1
  rw [siteSets, carriedAt_nil hheld hcarry, hcarry, List.filter_nil, ite_self]

/-- A relaxed read-modify-write in scratch is its act at the site, after which a write leaves the thread's sets there. -/
theorem rmwAt_of_site {s : State} {uid tid : Nat} {c : Cur} {q : Ask} {scope : BitVec 2} {op : HomeOp} {site : Site} {r : Nat × State}
    (hp : letPass s uid tid c q = .ok (site, s)) (hw : site.win = true)
    (hs : siteSets s (teamCore c.team) c.team.asid site q.size = []) (hr : rmwSite s uid tid c q.ea site op = .ok r) :
    ∃ s', rmwAt s uid tid c q 0 scope op = .ok (r.1, s') ∧ s'.mem = r.2.mem := by
  simp only [rmwAt, hp, orStop_ok, doRelease_relaxed, flipRead_window hw, admitRace_window hw, hs, carryRead_nil, hr, releaseEpoch_relaxed,
    doAcquire_relaxed]
  refine ⟨_, rfl, ?_⟩
  split
  · exact carryWrite_mem ..
  · rfl

theorem applyHome_some {s : State} {asid key v : Nat} {op : HomeOp} (h : homeOpNew op (bytesNat (readKey s key (homeOpSize op))) = some v) :
    applyHome s asid key op = (bytesNat (readKey s key (homeOpSize op)), homeWrite s asid key (natBytes (homeOpSize op) v)) := by
  simp only [applyHome, h]

theorem applyHome_none {s : State} {asid key : Nat} {op : HomeOp} (h : homeOpNew op (bytesNat (readKey s key (homeOpSize op))) = none) :
    applyHome s asid key op = (bytesNat (readKey s key (homeOpSize op)), chargeLines s asid key (homeOpSize op)) := by
  simp only [applyHome, h]

/-- An operation at a home: the old value, and exactly the bytes it writes. -/
theorem applyHome_spec {s : State} (hw : s.mem.wf = true) (asid key : Nat) (op : HomeOp) :
    let n := homeOpSize op
    let old := bytesNat (readKey s key n)
    let r := applyHome s asid key op
    r.1 = old ∧ r.2.mem.wf = true ∧
      (∀ v, homeOpNew op old = some v → ∀ j, j < n → readKey r.2 (key + j) 1 = [storedByte s (key + j) (BitVec.ofNat 8 (v / 256 ^ j))]) ∧
      (∀ a, homeOpNew op old = none ∨ a < key ∨ key + n ≤ a → readKey r.2 a 1 = readKey s a 1) := by
  intro n old r
  cases hv : homeOpNew op old with
  | some v =>
    have hr : r = (old, homeWrite s asid key (natBytes n v)) := applyHome_some hv
    have hread := fun a => readKey_homeWrite hw asid key a (natBytes n v)
    rw [hr]
    refine ⟨rfl, homeWrite_wf hw .., fun v' hv' j hj => ?_, fun a ha => ?_⟩
    · cases hv'
      rw [hread, natBytes_length, if_pos ⟨by omega, by omega⟩, Nat.add_sub_cancel_left, natBytes_getD hj]
    · rw [hread, natBytes_length]
      refine if_neg ?_
      rcases ha with ha | ha | ha
      · cases ha
      · omega
      · omega
  | none =>
    have hr : r = (old, chargeLines s asid key n) := applyHome_none hv
    rw [hr]
    refine ⟨rfl, ?_, fun v (hv' : none = some v) => (nomatch hv'), fun a _ => ?_⟩
    · rw [chargeLines_mem]; exact hw
    · rw [readKey_one, chargeLines_mem, readKey_one]

theorem readKey_of_mem {s s' : State} (h : s'.mem = s.mem) (a n : Nat) : readKey s' a n = readKey s a n := by simp only [readKey, h]

theorem storedByte_congr {s s' : State} (hm : s'.mem = s.mem) (ht : s'.teams = s.teams) (a : Nat) (b : Byte) :
    storedByte s' a b = storedByte s a b := by
  simp only [storedByte, frameByteAt, readKey, hm, ht]

/-- Settles O41: the operation at the home is `applyHome`, and what follows it touches no byte. -/
theorem scratchReadModifyWrite : Obligations.ScratchReadModifyWrite := by
  intro s uid tid t th q scope op hT hn hpos h hal hw key old
  obtain ⟨s', hrun, hmem⟩ := rmwAt_of_site (scope := scope) (letPass_own h rfl rfl hal) rfl (siteSets_own h t.asid q.size)
    (rmwSite_own (uid := uid) (tid := tid) h (op := op) hn)
  obtain ⟨hold, hwf, hnew, hother⟩ := applyHome_spec (s := issueState s th) hw t.asid (scratchKey q.ea) op
  rw [← hn, readKey_of_mem (s := s) (s' := issueState s th) rfl] at hold hnew hother
  refine ⟨_, hrun, hold, ?_, fun v hv j hj => ?_, fun a ha => ?_⟩
  · rw [hmem]
    exact hwf
  · rw [readKey_of_mem hmem, hnew v hv j hj, storedByte_congr (s := s) (s' := issueState s th) rfl rfl]
  · rw [readKey_of_mem hmem]
    exact (hother a ha).trans (readKey_of_mem (s := s) (s' := issueState s th) rfl a 1)

end Sys2Proof.Machine
end

section
/-! The barrier instructions (O45). -/

namespace Sys2Proof.Machine

open Sys2Proof Sys2Proof.Laws

theorem exec_barInit (o : Long) (s : State) : exec (.barInit o) s = execBarInit o s := rfl
theorem exec_barExp (o : Long) (s : State) : exec (.barExp o) s = execBarExp o s := rfl
theorem exec_barWait (o : Long) (s : State) : exec (.barWait o) s = execBarWait o s := rfl
theorem exec_barSync (o : Long) (s : State) : exec (.barSync o) s = execBarSync o s := rfl
theorem exec_barTest (o : Long) (s : State) : exec (.barTest o) s = execBarTest o s := rfl

/-- The operand x: the immediate in form BI. -/
theorem barX_eq (o : Long) (c : Cur) : barX o c = if o.form = .bi then o.imm.setWidth 32 else opd32 c (regOpd o.kb o.sb) := by
  unfold barX
  split
  case h_1 hf => rw [if_pos hf]
  case h_2 hf => rw [if_neg hf]

/-- The thread's wait at a barrier is over: it was freed, or the phase is no longer the one it waits for. -/
theorem barOver_iff (s : State) (uid tid nb : Nat) (p : Bool) :
    (isFreed s uid tid || phaseOf s uid nb != p) = true ↔ (isFreed s uid tid = true ∨ phaseOf s uid nb ≠ p) := by
  rw [Bool.or_eq_true, bne_iff_ne]

/-- Settles O45: each instruction's effect by its own branch, `bar.sync`'s with its arrival made or still to make. -/
theorem barriers : Obligations.Barriers := by
  intro o nb x use pd parity over_ after phase
  have hx : ∀ c, barX o c = x c := barX_eq o
  refine ⟨?_, ?_, ?_, goes_of (fun _ => rfl) (fun _ _ _ _ _ => rfl), ?_, ?_, ?_, ?_, ?_⟩
  · refine goes_of (fun s => by rw [exec_barInit, execBarInit]) (fun s uid tid c h => ?_)
    simp only [hx]
    exact if_neg (by simp; omega)
  · refine traps_of (fun s => by rw [exec_barInit, execBarInit]) (fun s uid tid c h => ?_)
    simp only [hx]
    exact if_pos (by simp; omega)
  · refine goes_of (fun s => by rw [exec_barExp, execBarExp]) (fun s uid tid c _ => ?_)
    simp only [hx]
    rfl
  · refine goes_of (fun s => by rw [exec_barWait, execBarWait]) (fun s uid tid c h => ?_)
    simp only [hx]
    exact if_pos ((barOver_iff ..).mpr h)
  · refine waits_of (fun s => by rw [exec_barWait, execBarWait]) (fun s uid tid c h => ?_)
    simp only [hx]
    exact if_neg (mt (barOver_iff ..).mp h)
  · refine goes_of (fun s => by rw [exec_barSync, execBarSync]) (fun s uid tid c h => ?_)
    simp only [after, phase, over_] at h ⊢
    cases hs : c.th.syncing with
    | none => rw [hs] at h; exact if_pos ((barOver_iff ..).mpr h)
    | some q => rw [hs] at h; exact if_pos ((barOver_iff ..).mpr h)
  · refine waits_of (fun s => by rw [exec_barSync, execBarSync]) (fun s uid tid c h => ?_)
    simp only [after, phase, over_] at h ⊢
    cases hs : c.th.syncing with
    | none => rw [hs] at h; exact if_neg (mt (barOver_iff ..).mp h)
    | some q => rw [hs] at h; exact if_neg (mt (barOver_iff ..).mp h)
  · refine goes_of (fun s => by rw [exec_barTest, execBarTest]) (fun s uid tid c _ => ?_)
    simp only [hx]
    by_cases h : phaseOf s uid nb = parity c
    · have hn : (phaseOf s uid nb != (x c).getLsbD 0) = false := bne_eq_false_iff_eq.mpr h
      have hd : decide (phaseOf s uid nb ≠ parity c) = false := decide_eq_false (not_not_intro h)
      rw [if_pos h, hd]
      exact congrArg (fun b => Act.done (applyWrites (if b = true then loupeReturn s uid tid nb else s) uid tid (outP pd b))) hn
    · have hn : (phaseOf s uid nb != (x c).getLsbD 0) = true := bne_iff_ne.mpr h
      have hd : decide (phaseOf s uid nb ≠ parity c) = true := decide_eq_true h
      rw [if_neg h, hd]
      exact congrArg (fun b => Act.done (applyWrites (if b = true then loupeReturn s uid tid nb else s) uid tid (outP pd b))) hn

end Sys2Proof.Machine
end

section
/-! Matrix operations (O46). -/

namespace Sys2Proof.Machine

open Sys2Proof Sys2Proof.Laws

theorem exec_mma (o : Long) (s : State) : exec (.mma o) s = execMma o s := rfl
theorem exec_mmac (o : Long) (s : State) : exec (.mmac o) s = execMmac o s := rfl

/-- A condition that holds is not refused by its negation. -/
theorem not_pos {b : Bool} (h : b = true) : ¬ (!b) = true := by rw [h]; decide

theorem not_neg {b : Bool} (h : b = false) : (!b) = true := by rw [h]; rfl

/-- A split token and its continuation name each other (R183, R297). -/
theorem linkCont_found {s : State} {asid : Nat} {og nw : Nat × Token} {new : W32}
    (h : findToken (modToken s og.1 og.2.slot (fun tk => { tk with cont := some new })) asid new = some nw) :
    linkCont s asid (some og) new =
      modToken (modToken s og.1 og.2.slot (fun tk => { tk with cont := some new })) nw.1 nw.2.slot (fun tk => { tk with
        orig := some (tokenHandle (modToken s og.1 og.2.slot (fun tk => { tk with cont := some new })) og.1 og.2)
        seat := if inOrder og.2 = true then some ((orderKey og.2).1, (orderKey og.2).2, placeOf og.2) else none }) := by
  simp only [linkCont, h]

/-- Settles O46: room, the block, its rules, the index vector and the new token in the order of `execMma` and `execMmac`. -/
theorem matrixInstructions : Obligations.MatrixInstructions := by
  intro o p sg ea block h
  refine ⟨fun q r => ?_, fun off => ?_, ?_, ?_, fun k => ?_, fun q r => ?_, fun s asid og nw new hf => linkCont_found hf⟩
  · refine goes_of (fun s => by rw [exec_mma, execMma]) (fun s uid tid c ⟨⟨hroom, hb⟩, hr, hi, hc⟩ => ?_)
    refine (if_neg (not_pos hroom)).trans ((andThen_of_ok hb _).trans ?_)
    simp only [hr]
    exact (andThen_of_ok hi _).trans (andThen_of_ok hc _)
  · refine traps_of (fun s => by rw [exec_mma, execMma]) (fun s uid tid c ⟨⟨hroom, hb⟩, hr⟩ => ?_)
    refine (if_neg (not_pos hroom)).trans ((andThen_of_ok hb _).trans ?_)
    simp only [hr]
    rfl
  · exact waits_of (fun s => by rw [exec_mma, execMma]) (fun s uid tid c hroom => by exact if_pos (not_neg hroom))
  · exact waits_of (fun s => by rw [exec_mmac, execMmac]) (fun s uid tid c hroom => by exact if_pos (not_neg hroom))
  · refine traps_of (fun s => by rw [exec_mmac, execMmac]) (fun s uid tid c ⟨⟨hroom, hb⟩, hm⟩ => ?_)
    refine (if_neg (not_pos hroom)).trans ((andThen_of_ok hb _).trans ?_)
    simp only [hm]
    rfl
  · refine goes_of (fun s => by rw [exec_mmac, execMmac]) (fun s uid tid c ⟨⟨hroom, hb⟩, hm, ht, hi, hc⟩ => ?_)
    refine (if_neg (not_pos hroom)).trans ((andThen_of_ok hb _).trans ?_)
    simp only [hm]
    exact (if_neg (not_pos ht)).trans ((andThen_of_ok hi _).trans (andThen_of_ok hc _))

end Sys2Proof.Machine
end

section
/-! The accumulators (O47). -/

namespace Sys2Proof.Machine

open Sys2Proof Sys2Proof.Laws

theorem exec_accrd (o : Long) (s : State) : exec (.accrd o) s = execAccrd o s := rfl
theorem exec_accwr (o : Long) (s : State) : exec (.accwr o) s = execAccwr o s := rfl
theorem exec_accclr (o : Long) (s : State) : exec (.accclr o) s = execAccclr o s := rfl
theorem exec_accst (o : Long) (s : State) : exec (.accst o) s = execAccst o s := rfl

/-! ## Entry indices (R185) -/

section
variable {s : State} {c : Cur} {e : Nat} (f : Nat → Nat → Act)

theorem accIndex_outside (h : 196608 ≤ e) : accIndex s c e f = .trap s (trapOf .reservedField) := by
  have h' : e ≥ 2 * accEntries := h
  simp only [accIndex, h', if_true]

theorem accIndex_inside (h : e < 196608) : accIndex s c e f =
    if !holdsTile c.team (e / 98304) then .trap s (trapOf .permission)
    else if tileBusy s c.team (e / 98304) then .hold s .tile
    else f (e / 98304) (e % 98304) := by
  have h' : ¬ e ≥ 2 * accEntries := Nat.not_le.mpr h
  rw [accIndex, if_neg h']
  rfl

theorem accIndex_good (h : e < 196608) (ht : holdsTile c.team (e / 98304) = true) (hb : tileBusy s c.team (e / 98304) = false) :
    accIndex s c e f = f (e / 98304) (e % 98304) := by
  rw [accIndex_inside f h, ht, hb]; rfl

end

theorem accE_eq (o : Long) (c : Cur) : accE o c = (opd32 c (srcA o)).toNat + if o.form = .c then o.imm.toNat else 0 := by
  unfold accE
  split
  case h_1 hf => rw [if_pos hf]
  case h_2 hf => rw [if_neg hf]

theorem accTag_eq (o : Long) : accTag o = if o.sub = 0x10 then .f32 else .b32 := by simp only [accTag, beq_iff_eq]

/-! ## Clearing rows (R185) -/

/-- The rows of an `accclr`, in form BI all of a tile. -/
def clearRows (o : Long) (c : Cur) : Option (Nat × Nat × Nat) :=
  if o.form = .bi then some (0, 384, o.imm.toNat % 2) else accRows (opd32 c (srcA o))

def clearFill (o : Long) (c : Cur) : W32 := if o.form = .c then opd32 c (regOpd o.kb o.sb) else 0

def clearSig (o : Long) : Sig :=
  sigR ((if o.form = .bi then [] else useTyped 0x01 (srcA o)) ++ (if o.form = .c then useRaw 1 (regOpd o.kb o.sb) else []))

/-- Rows filled with a value, +0 as entries that are not listed. -/
def clearTile (r n k : Nat) (fill : W32) (t : Team) : Team :=
  setTile t k ((if fill == 0 then [] else (List.range (n * 256)).map (fun i => (r * 256 + i, fill)))
    ++ (getTile t k).filter (fun p => decide (p.1 < r * 256 ∨ (r + n) * 256 ≤ p.1)))

/-- The checks of rows of a tile (R185, R187). -/
def onRows (s : State) (c : Cur) (rows : Option (Nat × Nat × Nat)) (f : Nat → Nat → Nat → Act) : Act :=
  match rows with
  | none => .trap s (trapOf .reservedField)
  | some (r, n, k) =>
    if !holdsTile c.team k then .trap s (trapOf .permission)
    else if tileBusy s c.team k then .hold s .tile
    else f r n k

theorem execAccclr_eq (o : Long) (s : State) : execAccclr o s = run (.accclr o) (clearSig o) (fun s uid _ c =>
    onRows s c (clearRows o c) (fun r n k => .done (modTeam s uid (clearTile r n k (clearFill o c))))) s := by
  rw [execAccclr, clearSig]
  unfold clearRows clearFill
  cases o.form <;> rfl

theorem execAccst_eq (o : Long) (s : State) : execAccst o s =
    run (.accst o) (sigR (useRaw 2 (srcA o) ++ useTyped 0x01 (regOpd o.kb o.sb))) (fun s uid tid c =>
      onRows s c (accRows (opd32 c (regOpd o.kb o.sb))) (fun r n k =>
        andThen (accStore uid tid c o (getTile c.team k) r (List.range (n * 256)) s) (fun s1 =>
          .done (if o.rnd == 4 then modThread s1 uid tid (fun th => { th with seed := c.th.seed + 1 }) else s1)))) s := rfl

section
variable {s : State} {c : Cur} {rows : Option (Nat × Nat × Nat)} {r n k : Nat} (f : Nat → Nat → Nat → Act)

theorem onRows_none (h : rows = none) : onRows s c rows f = .trap s (trapOf .reservedField) := by rw [h]; rfl

theorem onRows_good (h : rows = some (r, n, k)) (ht : holdsTile c.team k = true) (hb : tileBusy s c.team k = false) :
    onRows s c rows f = f r n k := by
  simp only [onRows, h, ht, hb, Bool.not_true, Bool.false_eq_true, if_false]

theorem onRows_notHeld (h : ∃ r n k, rows = some (r, n, k) ∧ holdsTile c.team k = false) :
    onRows s c rows f = .trap s (trapOf .permission) := by
  obtain ⟨r, n, k, h, ht⟩ := h
  simp only [onRows, h, ht, Bool.not_false, if_true]

theorem onRows_busy (h : ∃ r n k, rows = some (r, n, k) ∧ holdsTile c.team k = true ∧ tileBusy s c.team k = true) :
    onRows s c rows f = .hold s .tile := by
  obtain ⟨r, n, k, h, ht, hb⟩ := h
  simp only [onRows, h, ht, hb, Bool.not_true, Bool.false_eq_true, if_false, if_true]

end

/-! ## Entries of a tile -/

theorem getKey_without {β : Type} (i j : Nat) : ∀ l : List (Nat × β),
    getKey (l.filter (fun p => p.1 != i)) j = if j = i then none else getKey l j
  | [] => by simp [getKey]
  | (a, b) :: r => by
    have ih := getKey_without i j r
    by_cases ha : a = i
    · subst ha
      rw [List.filter_cons_of_neg (by simp), ih]
      by_cases hj : j = a
      · rw [if_pos hj, if_pos hj]
      · rw [if_neg hj, if_neg hj, getKey, if_neg (Ne.symm hj)]
    · rw [List.filter_cons_of_pos (by simpa using ha), getKey, ih, getKey]
      by_cases hj : j = i
      · rw [if_pos hj, if_neg (fun h => ha (h.trans hj)), if_pos hj]
      · rw [if_neg hj, if_neg hj]

theorem getKey_putKey {β : Type} (l : List (Nat × β)) (i j : Nat) (v : β) :
    getKey (putKey l i v) j = if j = i then some v else getKey l j := by
  rw [putKey, getKey, getKey_without]
  by_cases h : j = i
  · rw [if_pos h.symm, if_pos h]
  · rw [if_neg (Ne.symm h), if_neg h, if_neg h]

theorem tileGet_tilePut (tile : List (Nat × W32)) (i j : Nat) (v : W32) :
    tileGet (tilePut tile i v) j = if j = i then v else tileGet tile j := by
  unfold tileGet tilePut
  split
  case isTrue hv =>
    rw [getKey_without, beq_iff_eq.mp hv]
    by_cases h : j = i
    · rw [if_pos h, if_pos h, Option.getD_none]
    · rw [if_neg h, if_neg h]
  case isFalse =>
    rw [getKey_putKey]
    by_cases h : j = i
    · rw [if_pos h, if_pos h, Option.getD_some]
    · rw [if_neg h, if_neg h]

/-- Settles O47: `accIndex` and `onRows` give the checks of entries and of rows, and a tile is a list of keys. -/
theorem accumulators : Obligations.Accumulators := by
  refine ⟨fun o => ?_, tileGet_tilePut⟩
  intro idx free good b sgR sgW sgC rows fill sgS busy notHeld sb
  have hidx : ∀ c, accE o c = idx c := accE_eq o
  refine ⟨?_, ?_, ?_, ?_, ?_, fun r n k => ?_, ?_, ?_, ?_, fun r n k s1 => ?_, ?_, ?_, ?_⟩
  · refine goes_of (fun s => by rw [exec_accrd, execAccrd]) (fun s uid tid c ⟨hi, ht, hb⟩ => ?_)
    simp only [hidx, accIndex_good _ hi ht hb, accTag_eq]
    rfl
  · refine goes_of (fun s => by rw [exec_accwr, execAccwr]) (fun s uid tid c ⟨hi, ht, hb⟩ => ?_)
    simp only [hidx, accIndex_good _ hi ht hb]
    rfl
  · refine traps_of (fun s => by rw [exec_accrd, execAccrd]) (fun s uid tid c hi => ?_)
    simp only [hidx, accIndex_outside _ hi]
    rfl
  · refine traps_of (fun s => by rw [exec_accrd, execAccrd]) (fun s uid tid c ⟨hi, ht⟩ => ?_)
    simp only [hidx, accIndex_inside _ hi, ht]
    rfl
  · refine waits_of (fun s => by rw [exec_accrd, execAccrd]) (fun s uid tid c ⟨hi, ht, hb⟩ => ?_)
    simp only [hidx, accIndex_inside _ hi, ht, hb]
    rfl
  · exact goes_of (fun s => by rw [exec_accclr, execAccclr_eq]; rfl) (fun s uid tid c ⟨hr, ht, hb⟩ => by exact onRows_good _ hr ht hb)
  · exact traps_of (fun s => by rw [exec_accclr, execAccclr_eq]; rfl) (fun s uid tid c h => by exact onRows_none _ h)
  · exact traps_of (fun s => by rw [exec_accclr, execAccclr_eq]; rfl) (fun s uid tid c h => by exact onRows_notHeld _ h)
  · exact waits_of (fun s => by rw [exec_accclr, execAccclr_eq]; rfl) (fun s uid tid c h => by exact onRows_busy _ h)
  · refine goes_of (fun s => by rw [exec_accst, execAccst_eq]) (fun s uid tid c ⟨hr, ⟨ht, hb⟩, hst⟩ => ?_)
    rw [onRows_good _ hr ht hb]
    refine (andThen_of_ok hst _).trans ?_
    simp only [beq_iff_eq]
  · exact traps_of (fun s => by rw [exec_accst, execAccst_eq]) (fun s uid tid c h => by exact onRows_none _ h)
  · exact traps_of (fun s => by rw [exec_accst, execAccst_eq]) (fun s uid tid c h => by exact onRows_notHeld _ h)
  · exact waits_of (fun s => by rw [exec_accst, execAccst_eq]) (fun s uid tid c h => by exact onRows_busy _ h)

end Sys2Proof.Machine
end

section
/-! Team copies (O48): what `runTeam` makes of the answer of its lead participant. -/

namespace Sys2Proof.Machine

open Sys2Proof Sys2Proof.Laws

/-- What becomes of a team's copy by the answer of its lead participant. -/
def teamEnd (i : Instr) (sg : Sig) (uid tid : Nat) (gs : List (Nat × Thread × Gate)) : Act → State
  | .done s1 => allPass i sg s1 uid gs
  | .jump s1 _ => allPass i sg s1 uid gs
  | .trap s1 tr => takeTrap s1 uid tid tr
  | .hold s1 w => holdThread s1 uid tid w
  | .left s1 => s1

theorem runTeam_of_leads {i : Instr} {sg : Sig} {s s0 : State} {uid tid : Nat} {t : Team} {th : Thread} {mem : List (Nat × Thread)}
    {ps : List Part} {p : Part} {eff : State → Nat → List Part → Part → Act} {act : Act} (h : Leads i sg s uid tid t th mem ps p s0)
    (he : eff s0 uid ps p = act) : runTeam i sg eff s =
      .next (popIssue (chargeIssue i t.asid th (teamEnd i sg uid tid (memberGates s i sg t mem s.freeCtr).1 act))) := by
  obtain ⟨hT, hP, hmeet, rfl, hlead, hmine, rfl⟩ := h
  subst he
  obtain ⟨r, hi⟩ := issue_of_turn hT
  have hth : getThread t tid = some th := hT.thread
  simp only [runTeam, hi, hT.team, hth, hT.runs, gate_go hP, Bool.not_true, Bool.false_eq_true, if_false, hmeet, hlead, hmine,
    bne_self_eq_false, teamEnd, allPass] <;> rfl

theorem exec_copy (o : Long) (s : State) : exec (.copy o) s = execCopy o s := rfl
theorem exec_copyt (o : Long) (s : State) : exec (.copyt o) s = execCopyt o s := rfl

/-- Settles O48: the lead participant's checks in their order, then the slice that joins. -/
theorem teamCopies : Obligations.TeamCopies := by
  intro o s s0 s1 uid tid t th mem ps p sgC sgT a count word done gs
  refine ⟨fun h hroom harr hj => ?_, fun h hroom harr => ?_, fun h hroom => ?_, fun q h hroom hb => ?_⟩
  · simp only [done]
    rw [exec_copy, execCopy, runTeam_of_leads (act := .done s1) h]
    · rfl
    · exact (if_neg (not_pos hroom)).trans ((if_neg (not_pos harr)).trans hj)
  · simp only [done]
    rw [exec_copy, execCopy, runTeam_of_leads (act := .trap s0 { cause := .reservedField }) h]
    · rfl
    · exact (if_neg (not_pos hroom)).trans (if_pos (not_neg harr))
  · simp only [done]
    rw [exec_copy, execCopy, runTeam_of_leads (act := .hold s0 .room) h]
    · rfl
    · exact if_pos (not_neg hroom)
  · rw [← h.mine] at hb
    refine ⟨fun hr hj => ?_, fun off hr => ?_⟩
    · simp only [done]
      rw [exec_copyt, execCopyt, runTeam_of_leads (act := .done s1) h]
      · rfl
      · refine (if_neg (not_pos hroom)).trans ((andThen_of_ok hb _).trans ?_)
        simp only [hr]
        exact hj
    · simp only [done]
      rw [exec_copyt, execCopyt, runTeam_of_leads (act := .trap q.2 (blockTrap a off)) h]
      · rfl
      · refine (if_neg (not_pos hroom)).trans ((andThen_of_ok hb _).trans ?_)
        simp only [hr]
        rfl

end Sys2Proof.Machine
end

section
/-! Collectives and side information (O49). -/

namespace Sys2Proof.Machine

open Sys2Proof Sys2Proof.Laws

theorem exec_coll (o : Long) (s : State) : exec (.coll o) s = execColl o s := rfl
theorem exec_sireg (o : Long) (s : State) : exec (.sireg o) s = execSireg o s := rfl

/-- The rules of a `sireg` (R200), the id within 48 bits. -/
theorem sideRegOk_iff (ok : Bool) (len id : Nat) :
    (!isPow2 len || len < 64 || len > 65536 || !ok || id / 2 ^ 48 != 0) = true ↔
      ¬ (isPow2 len = true ∧ 64 ≤ len ∧ len ≤ 65536 ∧ ok = true ∧ id < 2 ^ 48) := by
  have hid : id / 2 ^ 48 = 0 ↔ id < 2 ^ 48 := by omega
  simp only [Bool.or_eq_true, Bool.not_eq_true', decide_eq_true_eq, bne_iff_ne, ne_eq, hid, ← Bool.not_eq_true, ← Nat.not_le, ← Classical.not_and_iff_not_or_not,
    and_assoc]

/-- Settles O49: the steps of each instruction in sequence. -/
theorem collectivesAndSideInformation : Obligations.CollectivesAndSideInformation := by
  intro o sg ea core b word a id len fits sgI
  have hfits : ∀ s c, _ ↔ ¬ fits s c := fun s c => sideRegOk_iff (blockOk s c.team (a c) (len c)) (len c) (id c)
  refine ⟨?_, fun p r hk => ?_, fun p q s0 r hk => ?_, ?_, ?_, goes_of (fun _ => rfl) (fun _ _ _ _ _ => rfl),
    goes_of (fun _ => rfl) (fun _ _ _ _ _ => rfl)⟩
  · exact waits_of (fun s => by rw [exec_coll, execColl]) (fun s uid tid c h => by exact if_pos (not_neg h))
  · exact goes_of (fun s => by rw [exec_coll, execColl]) (fun s uid tid c ⟨hroom, hb, hc⟩ => by
      exact (if_neg (not_pos hroom)).trans ((andThen_of_ok hb _).trans ((if_pos (bne_iff_ne.mpr hk)).trans (andThen_of_ok hc _))))
  · refine goes_of (fun s => by rw [exec_coll, execColl]) (fun s uid tid c ⟨hroom, hb, hd, hr, hc⟩ => ?_)
    have hk' : ¬ (p.1.kind != 6) = true := by rw [hk]; decide
    exact (if_neg (not_pos hroom)).trans ((andThen_of_ok hb _).trans ((if_neg hk').trans
      ((andThen_of_ok hd _).trans ((andThen_of_ok hr _).trans (andThen_of_ok hc _)))))
  · exact goes_of (fun s => by rw [exec_sireg, execSireg]) (fun s uid tid c h => by exact if_neg (fun hn => (hfits s c).mp hn h))
  · exact traps_of (fun s => by rw [exec_sireg, execSireg]) (fun s uid tid c h => by exact if_pos ((hfits s c).mpr h))

end Sys2Proof.Machine
end

section
/-! The token instructions (O50): each change of a token is refused or made, and answers the result word of R202. -/

namespace Sys2Proof.Machine

open Sys2Proof Sys2Proof.Laws

/-! ## A change of a token -/

/-- A change of the token of a handle: GONE where there is none, refused where `bad`, else made by `g`. -/
def tokenAct (s : State) (c : Cur) (h : W32) (bad : Nat × Token → Bool) (g : Nat × Token → State) : W32 × State :=
  match findToken s c.team.asid h with
  | none => (goneWord true, s)
  | some p => if bad p then (tokenWord p.2 true, s) else (wordNow (g p) c.team.asid h false, g p)

/-- A change that acts on the accepted continuation (R203, R297). -/
theorem tokenChange_eq (s : State) (c : Cur) (h : W32) (f : Nat × Token → Option State) : tokenChange s c h f =
    tokenAct s c h (fun p => !mayChange c.team p.2 || (f (changeTarget s c.team.asid 512 p)).isNone)
      (fun p => (f (changeTarget s c.team.asid 512 p)).getD s) := by
  cases hp : findToken s c.team.asid h with
  | none => simp only [tokenChange, tokenAct, hp]
  | some p =>
    cases hm : mayChange c.team p.2 with
    | false => simp only [tokenChange, tokenAct, hp, hm, Bool.not_false, Bool.true_or, if_true]
    | true =>
      cases hf : f (changeTarget s c.team.asid 512 p) with
      | none =>
        simp only [tokenChange, tokenAct, hp, hm, hf, Bool.not_true, Bool.false_or, Option.isNone_none, Bool.false_eq_true, if_false,
          if_true]
      | some s1 =>
        simp only [tokenChange, tokenAct, hp, hm, hf, Bool.not_true, Bool.false_or, Option.isNone_some, Bool.false_eq_true, if_false,
          Option.getD_some]

theorem tokenChange_cond (s : State) (c : Cur) (h : W32) (bad : Nat × Token → Bool) (g : Nat × Token → State) :
    tokenChange s c h (fun p => if bad p then none else some (g p)) =
      tokenAct s c h (fun p => !mayChange c.team p.2 || bad (changeTarget s c.team.asid 512 p))
        (fun p => g (changeTarget s c.team.asid 512 p)) := by
  rw [tokenChange_eq]
  cases hp : findToken s c.team.asid h with
  | none => simp only [tokenAct, hp]
  | some p =>
    cases hb : bad (changeTarget s c.team.asid 512 p) with
    | true => simp only [tokenAct, hp, hb, if_true, Option.isNone_none, Bool.or_true]
    | false => simp only [tokenAct, hp, hb, Bool.false_eq_true, if_false, Option.isNone_some, Option.getD_some]

/-- The result word in DST. -/
def wordIn (o : Long) (uid tid : Nat) (r : W32 × State) : State := applyWrites r.2 uid tid (outR (result32 o.dst.toNat r.1 .b32))

/-- A change of a token by an instruction, wherever its other operands are as they must be. -/
def ChangesToken (i : Instr) (o : Long) (sg : Sig) (ok : Cur → Prop) (bad : State → Cur → Nat × Token → Bool)
    (g : State → Cur → Nat × Token → State) : Prop :=
  Goes i sg (fun _ _ _ c => ok c) (fun s uid tid c => wordIn o uid tid (tokenAct s c (opd32 c (srcA o)) (bad s c) (g s c)))

theorem goes_imp {i : Instr} {sg : Sig} {pre pre' : State → Nat → Nat → Cur → Prop} {eff eff' : State → Nat → Nat → Cur → State}
    (h : Goes i sg pre eff) (hp : ∀ s uid tid c, pre' s uid tid c → pre s uid tid c ∧ eff s uid tid c = eff' s uid tid c) :
    Goes i sg pre' eff' := fun s uid tid t th hT hP hp' => by
  obtain ⟨h1, h2⟩ := hp _ _ _ _ hp'
  rw [← h2]
  exact h s uid tid t th hT hP h1

section
variable {i : Instr} {o : Long} {sg : Sig} {ok : Cur → Prop} {bad : State → Cur → Nat × Token → Bool} {g : State → Cur → Nat × Token → State}
  (h : ChangesToken i o sg ok bad g)
include h

theorem changesToken_gone : Goes i sg (fun s _ _ c => findToken s c.team.asid (opd32 c (srcA o)) = none ∧ ok c)
    (fun s uid tid _ => wordIn o uid tid (0x80000007, s)) :=
  goes_imp h fun s uid tid c ⟨hn, hk⟩ => ⟨hk, by rw [tokenAct, hn]; rfl⟩

theorem changesToken_refused {why : State → Cur → Nat × Token → Prop} (hw : ∀ s c p, why s c p → ok c ∧ bad s c p = true)
    (p : Nat × Token) : Goes i sg (fun s _ _ c => findToken s c.team.asid (opd32 c (srcA o)) = some p ∧ why s c p)
      (fun s uid tid _ => wordIn o uid tid (tokenWord p.2 true, s)) :=
  goes_imp h fun s uid tid c ⟨hn, hk⟩ => ⟨(hw s c p hk).1, by
    simp only [tokenAct, hn, (hw s c p hk).2, if_true]⟩

theorem changesToken_made {why : State → Cur → Nat × Token → Prop} {f : State → Cur → Nat × Token → State}
    (hw : ∀ s c p, why s c p → ok c ∧ bad s c p = false ∧ g s c p = f s c p) (p : Nat × Token) :
    Goes i sg (fun s _ _ c => findToken s c.team.asid (opd32 c (srcA o)) = some p ∧ why s c p)
      (fun s uid tid c => wordIn o uid tid (wordNow (f s c p) c.team.asid (opd32 c (srcA o)) false, f s c p)) :=
  goes_imp h fun s uid tid c ⟨hn, hk⟩ => ⟨(hw s c p hk).1, by
    simp only [tokenAct, hn, (hw s c p hk).2.1, (hw s c p hk).2.2, Bool.false_eq_true, if_false]⟩

end

/-- A token instruction that is one change. -/
theorem changesToken_of {i : Instr} {o : Long} {more : List RegUse} {f : State → Cur → W32 → W32 × State}
    {bad : State → Cur → Nat × Token → Bool} {g : State → Cur → Nat × Token → State} (hx : ∀ s, exec i s = runToken i o more f s)
    (hf : ∀ s c, f s c (opd32 c (srcA o)) = tokenAct s c (opd32 c (srcA o)) (bad s c) (g s c)) :
    ChangesToken i o (sigR (useTyped 0x01 (srcA o) ++ more ++ useDst o.dst.toNat 1)) (fun _ => True) bad g :=
  goes_of hx fun s uid tid c _ => by simp only [hf, wordIn]

/-! ## The instructions -/

theorem exec_tkwait (o : Long) (s : State) : exec (.tkwait o) s = execTkwait o s := rfl
theorem exec_tktest (o : Long) (s : State) : exec (.tktest o) s = execTktest o s := rfl
theorem exec_tkcancel (o : Long) (s : State) : exec (.tkcancel o) s = execTkcancel o s := rfl
theorem exec_tkdetach (o : Long) (s : State) : exec (.tkdetach o) s = execTkdetach o s := rfl
theorem exec_tkadopt (o : Long) (s : State) : exec (.tkadopt o) s = execTkadopt o s := rfl
theorem exec_tkprio (o : Long) (s : State) : exec (.tkprio o) s = execTkprio o s := rfl
theorem exec_tkdepAdd (o : Long) (s : State) : exec (.tkdepAdd o) s = execTkdepAdd o s := rfl
theorem exec_tkdepRel (o : Long) (s : State) : exec (.tkdepRel o) s = execTkdepRel o s := rfl
theorem exec_mflip (o : Long) (s : State) : exec (.mflip o) s = execMflip o s := rfl

theorem more_nil (o : Long) : sigR (useTyped 0x01 (srcA o) ++ [] ++ useDst o.dst.toNat 1) = sigR (useTyped 0x01 (srcA o) ++ useDst o.dst.toNat 1) := by
  rw [List.append_nil]

theorem tkcancel_changes (o : Long) : ChangesToken (.tkcancel o) o (sigR (useTyped 0x01 (srcA o) ++ useDst o.dst.toNat 1)) (fun _ => True)
    (fun s c p => !mayChange c.team p.2 || (cancelToken s (changeTarget s c.team.asid 512 p)).isNone)
    (fun s c p => (cancelToken s (changeTarget s c.team.asid 512 p)).getD s) :=
  more_nil o ▸ changesToken_of (exec_tkcancel o) fun s c => tokenChange_eq s c _ _

theorem tkdetach_changes (o : Long) : ChangesToken (.tkdetach o) o (sigR (useTyped 0x01 (srcA o) ++ useDst o.dst.toNat 1)) (fun _ => True)
    (fun _ c p => !mayChange c.team p.2 || !isAttached p.2)
    (fun s c p => modToken s p.1 p.2.slot (fun tk => { tk with holder := .grid c.team.grid })) :=
  more_nil o ▸ changesToken_of (exec_tkdetach o) fun _ _ => rfl

/-- The token is held by a grid at or under the team's. -/
def heldUnder (s : State) (c : Cur) (tk : Token) : Bool :=
  match tk.holder with
  | .grid g => gridUnder s c.team.grid 64 g
  | _ => false

theorem tkadopt_changes (o : Long) : ChangesToken (.tkadopt o) o (sigR (useTyped 0x01 (srcA o) ++ useDst o.dst.toNat 1)) (fun _ => True)
    (fun s c p => !heldUnder s c p.2 || terminal p.2 || attachedCount s c.team.uid ≥ 64)
    (fun s c p => modToken s p.1 p.2.slot (fun tk => { tk with holder := .team c.team.uid })) :=
  more_nil o ▸ changesToken_of (exec_tkadopt o) fun _ _ => rfl

theorem tkdepRel_changes (o : Long) : ChangesToken (.tkdepRel o) o (sigR (useTyped 0x01 (srcA o) ++ useDst o.dst.toNat 1)) (fun _ => True)
    (fun s c p => !mayChange c.team p.2 || !(changeTarget s c.team.asid 512 p).2.hold)
    (fun s c p => failDeps (modToken s (changeTarget s c.team.asid 512 p).1 (changeTarget s c.team.asid 512 p).2.slot
      (fun tk => { tk with hold := false })) (changeTarget s c.team.asid 512 p).1 (changeTarget s c.team.asid 512 p).2.slot) :=
  more_nil o ▸ changesToken_of (exec_tkdepRel o) fun s c => by
    rw [tokenChange_cond s c _ (fun p => !p.2.hold)]

/-- The token of a handle has HOLD set. -/
def tokenHeldNow (s : State) (asid : Nat) (h : W32) : Bool :=
  match findToken s asid h with
  | some q => q.2.hold
  | none => false

/-- What an ended token leaves to one that depends on it (R266). -/
def endedSet (s : State) (asid : Nat) (h : W32) : List LEntry :=
  match findToken s asid h with
  | some q => if terminal q.2 then tokenSet s q.2 else []
  | none => []

theorem tkdepAdd_changes (o : Long) : ChangesToken (.tkdepAdd o) o
    (sigR (useTyped 0x01 (srcA o) ++ useTyped 0x01 (regOpd o.kb o.sb) ++ useDst o.dst.toNat 1)) (fun _ => True)
    (fun s c p => !mayChange c.team p.2 || !p.2.hold || p.2.deps.length ≥ 4 || tokenHeldNow s c.team.asid (opd32 c (regOpd o.kb o.sb)))
    (fun s c p => modToken s p.1 p.2.slot (fun tk => { tk with
      deps := tk.deps ++ [opd32 c (regOpd o.kb o.sb)]
      hb := if loupeOn s tk.asid then addEntries tk.hb (endedSet s c.team.asid (opd32 c (regOpd o.kb o.sb))) else tk.hb })) :=
  changesToken_of (fun s => by rw [exec_tkdepAdd, execTkdepAdd]) fun s c => by
    cases hp : findToken s c.team.asid (opd32 c (srcA o)) with
    | none => simp only [tokenAct, hp]
    | some p => simp only [tokenAct, hp, tokenHeldNow, endedSet] <;> rfl

theorem tkprio_changes (o : Long) : ChangesToken (.tkprio o) o
    (sigR (useTyped 0x01 (srcA o) ++ useTyped 0x01 (srcB o 0x01) ++ useDst o.dst.toNat 1)) (fun c => (opd32 c (srcB o 0x01)).toNat ≤ 3)
    (fun s c p => !mayChange c.team p.2 || terminal (changeTarget s c.team.asid 512 p).2)
    (fun s c p => modToken s (changeTarget s c.team.asid 512 p).1 (changeTarget s c.team.asid 512 p).2.slot
      (fun tk => { tk with pri := BitVec.ofNat 2 (opd32 c (srcB o 0x01)).toNat })) := by
  refine goes_of (fun s => by rw [exec_tkprio, execTkprio]) (fun s uid tid c h => ?_)
  refine (if_neg (by omega)).trans ?_
  simp only [tokenChange_cond s c _ (fun p => terminal p.2), wordIn]

theorem execTkprio_large (o : Long) : Traps (.tkprio o) (sigR (useTyped 0x01 (srcA o) ++ useTyped 0x01 (srcB o 0x01) ++ useDst o.dst.toNat 1))
    (fun _ _ _ c => ¬ (opd32 c (srcB o 0x01)).toNat ≤ 3) same (fun _ _ _ _ => { cause := .reservedField }) := by
  exact traps_of (fun s => by rw [exec_tkprio, execTkprio]) (fun s uid tid c h => by exact if_pos (by omega))

/-- A grid at or under the team's own holds the token. -/
theorem heldUnder_iff (s : State) (c : Cur) (tk : Token) :
    heldUnder s c tk = true ↔ ∃ g, tk.holder = .grid g ∧ gridUnder s c.team.grid 64 g = true := by
  unfold heldUnder
  cases h : tk.holder with
  | grid g => simp
  | team u => simp
  | root => simp

theorem tokenHeldNow_iff (s : State) (asid : Nat) (h : W32) : tokenHeldNow s asid h = true ↔ ∃ q, findToken s asid h = some q ∧ q.2.hold = true := by
  unfold tokenHeldNow
  cases findToken s asid h with
  | none => simp
  | some q => simp

theorem adoptRefused_iff (s : State) (c : Cur) (p : Nat × Token) :
    (!heldUnder s c p.2 || terminal p.2 || attachedCount s c.team.uid ≥ 64) = true ↔
      ¬ ((∃ g, p.2.holder = .grid g ∧ gridUnder s c.team.grid 64 g = true) ∧ terminal p.2 = false ∧ attachedCount s c.team.uid < 64) := by
  rw [← heldUnder_iff]
  cases heldUnder s c p.2 <;> cases terminal p.2 <;> simp

theorem dependRefused_iff (s : State) (c : Cur) (e : W32) (p : Nat × Token) :
    (!mayChange c.team p.2 || !p.2.hold || p.2.deps.length ≥ 4 || tokenHeldNow s c.team.asid e) = true ↔
      ¬ (mayChange c.team p.2 = true ∧ p.2.hold = true ∧ p.2.deps.length < 4 ∧
        ¬ ∃ q, findToken s c.team.asid e = some q ∧ q.2.hold = true) := by
  rw [← tokenHeldNow_iff]
  cases mayChange c.team p.2 <;> cases p.2.hold <;> cases tokenHeldNow s c.team.asid e <;> simp

/-- A Boolean that says when a condition fails is false where it holds. -/
theorem false_of_iff_not {b : Bool} {P : Prop} (h : b = true ↔ ¬ P) (hp : P) : b = false :=
  Bool.eq_false_iff.mpr (fun hb => h.mp hb hp)

/-- Settles O50: the observations directly, and each change through `ChangesToken`. -/
theorem tokenInstructions : Obligations.TokenInstructions := by
  intro o h word one b x find now target two pri gone refused changed any owns small attachable other ended dependable
  refine ⟨?_, fun p => ?_, fun p => ?_, ?_, ?_, ?_, ?_, ?_, ?_, ?_, ?_, ?_, ?_, ?_, ?_, ?_, ?_, ?_, ?_, ?_, ?_, ?_, ?_, ?_, ?_, ?_⟩
  · refine goes_of (fun s => by rw [exec_tkwait, execTkwait]) (fun s uid tid c hn => ?_)
    replace hn : findToken s c.team.asid (opd32 c (srcA o)) = none := hn
    simp only [hn]
    rfl
  · refine waits_of (fun s => by rw [exec_tkwait, execTkwait]) (fun s uid tid c ⟨hp, ht⟩ => ?_)
    replace hp : findToken s c.team.asid (opd32 c (srcA o)) = some p := hp
    simp only [hp]
    exact if_pos (not_neg ht)
  · refine goes_of (fun s => by rw [exec_tkwait, execTkwait]) (fun s uid tid c ⟨hp, ht⟩ => ?_)
    replace hp : findToken s c.team.asid (opd32 c (srcA o)) = some p := hp
    simp only [hp, ht, Bool.not_true, Bool.false_eq_true, if_false, Bool.and_eq_true, beq_iff_eq]
    rfl
  · exact goes_of (fun s => by rw [exec_tktest, execTktest, runToken, List.append_nil]; rfl) (fun _ _ _ _ _ => rfl)
  · exact goes_of (fun _ => rfl) (fun _ _ _ _ _ => rfl)
  · exact changesToken_gone (tkcancel_changes o)
  · exact changesToken_gone (tkdetach_changes o)
  · exact changesToken_gone (tkadopt_changes o)
  · exact changesToken_gone (tkprio_changes o)
  · exact changesToken_gone (tkdepAdd_changes o)
  · exact changesToken_gone (tkdepRel_changes o)
  · exact execTkprio_large o
  · exact changesToken_refused (tkcancel_changes o) (fun s c p hw => ⟨trivial, by simpa [owns] using hw⟩)
  · exact changesToken_made (tkcancel_changes o) (fun s c p hw => ⟨trivial, by simpa [owns] using hw, rfl⟩)
  · exact changesToken_refused (tkdetach_changes o) (fun s c p hw => ⟨trivial, by simpa [owns] using hw⟩)
  · exact changesToken_made (tkdetach_changes o) (fun s c p hw => ⟨trivial, by simpa [owns] using hw, rfl⟩)
  · exact changesToken_refused (tkadopt_changes o) (fun s c p hw => ⟨trivial, (adoptRefused_iff s c p).mpr hw⟩)
  · exact changesToken_made (tkadopt_changes o) (fun s c p hw => ⟨trivial, false_of_iff_not (adoptRefused_iff s c p) hw, rfl⟩)
  · exact changesToken_refused (tkprio_changes o) (fun s c p hw => ⟨hw.1, by simpa [owns] using hw.2⟩)
  · exact changesToken_made (tkprio_changes o) (fun s c p hw => ⟨hw.1, by simpa [owns] using hw.2, rfl⟩)
  · exact changesToken_refused (tkdepAdd_changes o) (fun s c p hw => ⟨trivial, (dependRefused_iff s c _ p).mpr hw⟩)
  · exact changesToken_made (tkdepAdd_changes o) (fun s c p hw => ⟨trivial, false_of_iff_not (dependRefused_iff s c _ p) hw, rfl⟩)
  · exact changesToken_refused (tkdepRel_changes o) (fun s c p hw => ⟨trivial, by simpa [owns] using hw⟩)
  · exact changesToken_made (tkdepRel_changes o) (fun s c p hw => ⟨trivial, by simpa [owns] using hw, rfl⟩)
  · refine fun p => traps_of (fun s => by rw [exec_mflip, execMflip]) (fun s uid tid c ⟨hp, hn⟩ => ?_)
    refine (andThen_of_ok hp _).trans ?_
    have hnone : (if p.1.attr.getLsbD 4 then mirFrameOf p.2 c.team.asid (opd64 c (srcA o)) else none) = none := by
      rcases hn with hn | hn
      · rw [hn]; rfl
      · split
        · exact hn
        · rfl
    simp only [hnone]
  · refine fun p f s1 => goes_of (fun s => by rw [exec_mflip, execMflip]) (fun s uid tid c ⟨hp, ha, hf, hr, hc, ht⟩ => ?_)
    refine (andThen_of_ok hp _).trans ?_
    have hsome : (if p.1.attr.getLsbD 4 then mirFrameOf p.2 c.team.asid (opd64 c (srcA o)) else none) = some f := by
      rw [ha]; exact hf
    simp only [hsome]
    refine (andThen_of_ok hr _).trans ((if_pos (beq_iff_eq.mpr hc)).trans ?_)
    simp only [ht]
    rfl

end Sys2Proof.Machine
end

section
/-! `launch`, `launch.try`, `join` and `join.all` (O51). -/

namespace Sys2Proof.Machine

open Sys2Proof Sys2Proof.Laws

theorem exec_launch (o : Long) (s : State) : exec (.launch o) s = execLaunch o s := rfl
theorem exec_launchTry (o : Long) (s : State) : exec (.launchTry o) s = execLaunchTry o s := rfl
theorem exec_join (o : Long) (s : State) : exec (.join o) s = execJoin o s := rfl
theorem exec_joinAll (o : Long) (s : State) : exec (.joinAll o) s = execJoinAll o s := rfl

theorem ofNat_bool (b : Bool) : BitVec.ofNat 32 b.toNat = if b then (1 : W32) else 0 := by cases b <;> rfl

/-! ## A launch after its record has been read -/

section
variable {o : Long} {s s1 : State} {uid tid : Nat} {c : Cur} {p : Lrc × State} {full : State → Act} {more : List (Nat × Bool)}
  (hr : readLrc s uid tid c (opd64 c (srcA o)) true = .ok p)
include hr

theorem launchWith_deep (hd : 9 ≤ ((getGrid p.2 c.team.grid).map (·.depth)).getD 0) :
    launchWith o s uid tid c full more = .trap p.2 (trapOf .permission) := by
  rw [launchWith]
  exact (andThen_of_ok hr _).trans (if_pos hd)

theorem launchWith_released (hd : ((getGrid p.2 c.team.grid).map (·.depth)).getD 0 < 9)
    (hs : releasePart p.2 uid tid (teamCore c.team) c.team.asid 3 = .ok s1) :
    launchWith o s uid tid c full more =
      if ((getCtx s1 c.team.asid).map launchRoom).getD false then
        .done (applyWrites (launchGrid s1 c.team tid p.1 (((getGrid p.2 c.team.grid).map (·.depth)).getD 0 + 1)).2 uid tid
          { regs := result32 o.dst.toNat (launchGrid s1 c.team tid p.1 (((getGrid p.2 c.team.grid).map (·.depth)).getD 0 + 1)).1 .b32
            preds := more })
      else full s1 := by
  rw [launchWith]
  exact (andThen_of_ok hr _).trans ((if_neg (Nat.not_le.mpr hd)).trans (andThen_of_ok hs _))

theorem launchWith_room (hd : ((getGrid p.2 c.team.grid).map (·.depth)).getD 0 < 9)
    (hs : releasePart p.2 uid tid (teamCore c.team) c.team.asid 3 = .ok s1)
    (hroom : ((getCtx s1 c.team.asid).map launchRoom).getD false = true) :
    launchWith o s uid tid c full more =
      .done (applyWrites (launchGrid s1 c.team tid p.1 (((getGrid p.2 c.team.grid).map (·.depth)).getD 0 + 1)).2 uid tid
        { regs := result32 o.dst.toNat (launchGrid s1 c.team tid p.1 (((getGrid p.2 c.team.grid).map (·.depth)).getD 0 + 1)).1 .b32
          preds := more }) :=
  (launchWith_released hr hd hs).trans (if_pos hroom)

theorem launchWith_full (hd : ((getGrid p.2 c.team.grid).map (·.depth)).getD 0 < 9)
    (hs : releasePart p.2 uid tid (teamCore c.team) c.team.asid 3 = .ok s1)
    (hroom : ((getCtx s1 c.team.asid).map launchRoom).getD false = false) : launchWith o s uid tid c full more = full s1 :=
  (launchWith_released hr hd hs).trans (if_neg (Bool.eq_false_iff.mp hroom))

end

/-! ## Joins (R215) -/

theorem gridFinished_iff (g : Grid) : gridFinished g = true ↔ g.total ≤ g.ended := decide_eq_true_iff

theorem joinDone_eq (s : State) (uid tid : Nat) (o : Long) (gs : List Grid) : joinDone s uid tid o gs = .done (applyWrites
    (if gs.any (fun g => !g.endSet.isEmpty) then acquireEntries s uid tid (gs.flatMap (·.endSet)) else s) uid tid
      (outR [(o.dst.toNat, { val := if gs.any (·.hurt) then 1 else 0, tag := .b32 })])) := by
  rw [joinDone, ofNat_bool]
  rfl

/-- Settles O51: the launches are `launchWith`, and a join looks at the team's grids. -/
theorem launchAndJoin : Obligations.LaunchAndJoin := by
  intro o use pd reg ea depth room read placed child try_ h kid one joined
  refine ⟨fun p s1 => ⟨?_, ?_, ?_, ?_, ?_, ?_⟩, ?_, fun g => ⟨?_, ?_⟩, ?_, ?_⟩
  · exact goes_of (fun s => by rw [exec_launch, execLaunch]) (fun s uid tid c ⟨hr, hd, hs, hroom⟩ => launchWith_room hr hd hs hroom)
  · exact goes_of (fun s => by rw [exec_launchTry, execLaunchTry]) (fun s uid tid c ⟨hr, hd, hs, hroom⟩ => launchWith_room hr hd hs hroom)
  · exact traps_of (fun s => by rw [exec_launch, execLaunch]) (fun s uid tid c ⟨hr, hd, hs, hroom⟩ => launchWith_full hr hd hs hroom)
  · exact goes_of (fun s => by rw [exec_launchTry, execLaunchTry]) (fun s uid tid c ⟨hr, hd, hs, hroom⟩ => by
      exact launchWith_full hr hd hs hroom)
  · exact traps_of (fun s => by rw [exec_launch, execLaunch]) (fun s uid tid c ⟨hr, hd⟩ => launchWith_deep hr hd)
  · exact traps_of (fun s => by rw [exec_launchTry, execLaunchTry]) (fun s uid tid c ⟨hr, hd⟩ => launchWith_deep hr hd)
  · refine goes_of (fun s => by rw [exec_join, execJoin]) (fun s uid tid c hk => ?_)
    replace hk : (kidGrids s c.team).find? (fun g => g.handle == opd32 c (srcA o)) = none := hk
    simp only [hk]
    rfl
  · refine goes_of (fun s => by rw [exec_join, execJoin]) (fun s uid tid c ⟨hk, hf⟩ => ?_)
    replace hk : (kidGrids s c.team).find? (fun g => g.handle == opd32 c (srcA o)) = some g := hk
    simp only [hk, (gridFinished_iff g).mpr hf, if_true, joinDone_eq]
    rfl
  · refine waits_of (fun s => by rw [exec_join, execJoin]) (fun s uid tid c ⟨hk, hf⟩ => ?_)
    replace hk : (kidGrids s c.team).find? (fun g => g.handle == opd32 c (srcA o)) = some g := hk
    simp only [hk]
    exact if_neg (mt (gridFinished_iff g).mp (by omega))
  · refine goes_of (fun s => by rw [exec_joinAll, execJoinAll]) (fun s uid tid c hf => ?_)
    refine (if_pos (List.all_eq_true.mpr fun g hg => (gridFinished_iff g).mpr (hf g hg))).trans ?_
    rw [joinDone_eq]
  · refine waits_of (fun s => by rw [exec_joinAll, execJoinAll]) (fun s uid tid c ⟨g, hg, hf⟩ => ?_)
    exact if_neg fun hall => absurd ((gridFinished_iff g).mp (List.all_eq_true.mp hall g hg)) (by omega)

end Sys2Proof.Machine
end

section
/-! Ranges and queue rings (O52). -/

namespace Sys2Proof.Machine

open Sys2Proof Sys2Proof.Laws

theorem exec_rtsub (o : Long) (s : State) : exec (.rtsub o) s = execRtsub o s := rfl
theorem exec_rtget (o : Long) (s : State) : exec (.rtget o) s = execRtget o s := rfl
theorem exec_rtdone (o : Long) (s : State) : exec (.rtdone o) s = execRtdone o s := rfl
theorem exec_joinRng (o : Long) (s : State) : exec (.joinRng o) s = execJoinRng o s := rfl
theorem exec_qnote (o : Long) (s : State) : exec (.qnote o) s = execQnote o s := rfl

/-! ## Shares of a range (R328) -/

theorem shareOf_putShare (r : Range) (x : Nat × Nat × Nat) (v : Nat) :
    shareOf (putShare r x) v = if v = x.1 then some x else shareOf r v := by
  have hrest : v ≠ x.1 → (r.shares.filter (fun y => y.1 != x.1)).find? (fun y => y.1 == v) = r.shares.find? (fun y => y.1 == v) := fun hv => by
    rw [List.find?_filter]
    refine congrArg (fun p => r.shares.find? p) (funext fun y => ?_)
    by_cases hy : y.1 = v
    · simp [hy, hv]
    · simp [hy]
  unfold shareOf putShare
  by_cases hv : v = x.1
  · rw [if_pos hv, List.find?_cons_of_pos (by simp [hv])]
  · rw [if_neg hv, List.find?_cons_of_neg (by simpa using Ne.symm hv), hrest hv]

/-- The larger of two shares, the lower team serial among equals. -/
def largerShare (s : State) (best : Option (Nat × Nat × Nat)) (x : Nat × Nat × Nat) : Option (Nat × Nat × Nat) :=
  match best with
  | none => some x
  | some b => if shareLen b < shareLen x || (shareLen b == shareLen x && serialOf s x.1 < serialOf s b.1) then some x else some b

theorem largestShare_eq (s : State) (r : Range) (uid : Nat) :
    largestShare s r uid = (r.shares.filter (fun x => x.1 != uid && shareLen x != 0)).foldl (largerShare s) none := rfl

theorem largerShare_spec (s : State) (b a : Nat × Nat × Nat) :
    ∃ z, largerShare s (some b) a = some z ∧ (z = b ∨ z = a) ∧ shareLen b ≤ shareLen z ∧ shareLen a ≤ shareLen z := by
  by_cases h : (shareLen b < shareLen a || (shareLen b == shareLen a && serialOf s a.1 < serialOf s b.1)) = true
  · refine ⟨a, if_pos h, .inr rfl, ?_, Nat.le_refl _⟩
    simp only [Bool.or_eq_true, Bool.and_eq_true, decide_eq_true_eq, beq_iff_eq] at h
    omega
  · refine ⟨b, if_neg h, .inl rfl, Nat.le_refl _, ?_⟩
    simp only [Bool.or_eq_true, Bool.and_eq_true, decide_eq_true_eq, beq_iff_eq] at h
    omega

/-- The share found so far is one of those seen, and no smaller than any of them. -/
theorem largestFold_spec (s : State) : ∀ (l : List (Nat × Nat × Nat)) (b : Nat × Nat × Nat),
    ∃ z, l.foldl (largerShare s) (some b) = some z ∧ (z = b ∨ z ∈ l) ∧ shareLen b ≤ shareLen z ∧ ∀ w ∈ l, shareLen w ≤ shareLen z
  | [], b => ⟨b, rfl, .inl rfl, Nat.le_refl _, fun _ h => by cases h⟩
  | a :: l, b => by
    obtain ⟨b', hb, hor, hle, hle'⟩ := largerShare_spec s b a
    obtain ⟨z, hz, hm, hzle, hall⟩ := largestFold_spec s l b'
    refine ⟨z, ?_, ?_, Nat.le_trans hle hzle, List.forall_mem_cons.mpr ⟨Nat.le_trans hle' hzle, hall⟩⟩
    · rw [List.foldl_cons, hb, hz]
    · rcases hm with rfl | hm
      · exact hor.imp_right (fun h => by rw [h]; exact List.mem_cons_self ..)
      · exact .inr (List.mem_cons_of_mem _ hm)

/-- The largest share is another team's, not empty, and no other team has a larger one. -/
theorem largestShare_spec {s : State} {r : Range} {uid : Nat} {z : Nat × Nat × Nat} (h : largestShare s r uid = some z) :
    z.1 ≠ uid ∧ 0 < shareLen z ∧ ∀ w ∈ r.shares, w.1 ≠ uid → shareLen w ≤ shareLen z := by
  rw [largestShare_eq] at h
  have hmem : ∀ w, w ∈ r.shares.filter (fun x => x.1 != uid && shareLen x != 0) ↔ w ∈ r.shares ∧ w.1 ≠ uid ∧ shareLen w ≠ 0 := by
    simp [List.mem_filter]
  generalize r.shares.filter (fun x => x.1 != uid && shareLen x != 0) = l at h hmem
  cases l with
  | nil => cases h
  | cons a l =>
    obtain ⟨z', hz, hm, hle, hall⟩ := largestFold_spec s l a
    cases hz.symm.trans h
    have hz' : z ∈ a :: l := by
      rcases hm with rfl | hm
      · exact List.mem_cons_self ..
      · exact List.mem_cons_of_mem _ hm
    obtain ⟨-, hne, hpos⟩ := (hmem z).mp hz'
    refine ⟨hne, Nat.pos_of_ne_zero hpos, fun w hw hwn => ?_⟩
    by_cases h0 : shareLen w = 0
    · omega
    · rcases List.mem_cons.mp ((hmem w).mpr ⟨hw, hwn, h0⟩) with rfl | hw'
      · exact hle
      · exact hall w hw'

/-- The refill takes the upper half of the largest other share (R328). -/
theorem refillShare_spec {s : State} {r : Range} {uid u x y : Nat} (he : ((shareOf r uid).map shareLen).getD 0 = 0)
    (hl : largestShare s r uid = some (u, x, y)) :
    shareOf (refillShare s r uid) uid = some (uid, x + (y - x) / 2, y) ∧
    shareOf (refillShare s r uid) u = some (u, x, x + (y - x) / 2) ∧
    (∀ v, v ≠ uid → v ≠ u → shareOf (refillShare s r uid) v = shareOf r v) ∧ x < y ∧ u ≠ uid ∧
    ∀ z ∈ r.shares, z.1 ≠ uid → shareLen z ≤ y - x := by
  obtain ⟨hne, hpos, hall⟩ := largestShare_spec hl
  have hr : refillShare s r uid = putShare (putShare r (u, x, x + (y - x) / 2)) (uid, x + (y - x) / 2, y) := by
    simp only [refillShare, he, hl, bne_self_eq_false, Bool.false_eq_true, if_false]
  have hpos' : 0 < y - x := hpos
  refine ⟨?_, ?_, fun v hv hu => ?_, by omega, hne, hall⟩
  · rw [hr, shareOf_putShare, if_pos rfl]
  · rw [hr, shareOf_putShare, if_neg hne, shareOf_putShare, if_pos rfl]
  · rw [hr, shareOf_putShare, if_neg hv, shareOf_putShare, if_neg hu]

/-! ## `rtget` (R217) -/

/-- The range in hand of a `rtget` that names it, while elements of it are left. -/
def rangeInHand (s : State) (c : Cur) (a : Nat) : Option Range :=
  ((c.team.range).bind (fun h => if a = 0 ∨ a = h then getRange s c.team.asid (BitVec.ofNat 32 h) else none)).filter (fun r => !r.complete)

/-- A piece at the front of the team's share, refilled before. -/
def handOut (o : Long) (s : State) (uid tid : Nat) (c : Cur) (r : Range) : Act :=
  match shareOf (refillShare s r uid) uid with
  | none => .done (applyWrites s uid tid (outP (o.mod.toNat % 8) false))
  | some (_, lo, hi) =>
    if lo ≥ hi then .done (applyWrites s uid tid (outP (o.mod.toNat % 8) false))
    else
      let e := min (lo + (opd32 c (regOpd o.kb o.sb)).toNat) hi
      .done (applyWrites (setRange s c.team.asid (putShare (refillShare s r uid) (uid, e, hi))) uid tid
        { regs := result64 o.dst.toNat (cat64 (BitVec.ofNat 32 lo) (BitVec.ofNat 32 e)) .b32, preds := [(o.mod.toNat % 8, true)] })

theorem execRtget_eq (o : Long) (s : State) : execRtget o s =
    run (.rtget o) (sigP (useTyped 0x01 (srcA o) ++ useTyped 0x01 (regOpd o.kb o.sb) ++ useDst o.dst.toNat 2) [] [o.mod.toNat % 8])
      (fun s uid tid c =>
        if (opd32 c (regOpd o.kb o.sb)).toNat == 0 then .trap s (trapOf .reservedField)
        else ((rangeInHand s c (opd32 c (srcA o)).toNat).map (handOut o s uid tid c)).getD
          (.done (applyWrites s uid tid (outP (o.mod.toNat % 8) false)))) s := by
  rw [execRtget]
  congr 1
  funext s uid tid c
  refine congrArg (ite _ _) ?_
  unfold rangeInHand
  cases c.team.range with
  | none => rfl
  | some h =>
    simp only [Bool.or_eq_true, beq_iff_eq, Option.bind_some]
    cases (if (opd32 c (srcA o)).toNat = 0 ∨ (opd32 c (srcA o)).toNat = h then getRange s c.team.asid (BitVec.ofNat 32 h) else none) with
    | none => rfl
    | some r =>
      cases hc : r.complete with
      | true =>
        have hf : (some r).filter (fun r : Range => !r.complete) = none := by simp only [Option.filter, hc]; rfl
        rw [hf]
        exact if_pos hc
      | false =>
        have hf : (some r).filter (fun r : Range => !r.complete) = some r := by simp only [Option.filter, hc]; rfl
        rw [hf]
        exact (if_neg (Bool.eq_false_iff.mp hc)).trans rfl

theorem handOut_empty {o : Long} {s : State} {uid tid : Nat} {c : Cur} {r : Range}
    (h : ∀ x, shareOf (refillShare s r uid) uid = some x → x.2.2 ≤ x.2.1) :
    handOut o s uid tid c r = .done (applyWrites s uid tid (outP (o.mod.toNat % 8) false)) := by
  unfold handOut
  split
  · rfl
  case h_2 lo hi he => exact if_pos (h _ he)

theorem handOut_piece {o : Long} {s : State} {uid tid u x y : Nat} {c : Cur} {r : Range}
    (h : shareOf (refillShare s r uid) uid = some (u, x, y)) (hlt : x < y) :
    let e := min (x + (opd32 c (regOpd o.kb o.sb)).toNat) y
    handOut o s uid tid c r = .done (applyWrites (setRange s c.team.asid (putShare (refillShare s r uid) (uid, e, y))) uid tid
      { regs := result64 o.dst.toNat (cat64 (BitVec.ofNat 32 x) (BitVec.ofNat 32 e)) .b32, preds := [(o.mod.toNat % 8, true)] }) := by
  simp only [handOut, h]
  exact if_neg (by omega)

/-! ## `rtdone` and `join.rng` (R215, R218) -/

theorem rangeHurt_iff (s : State) (asid : Nat) (r : Range) :
    (r.hurt || s.teams.any (fun t => t.asid == asid && t.range == some r.handle && t.hurt)) = true ↔
      (r.hurt = true ∨ ∃ t ∈ s.teams, t.asid = asid ∧ t.range = some r.handle ∧ t.hurt = true) := by
  simp [and_assoc]

/-! ## `qnote` (R219) -/

theorem ownsNow_iff (s : State) (asid q : Nat) : ((getCtx s asid).map (fun x => ownsQueue x q)).getD false = true ↔
    ∃ x, getCtx s asid = some x ∧ ownsQueue x q = true := by
  cases getCtx s asid <;> simp

/-- A ring on the context's queue chip stays there (R425). -/
theorem ringQueue_here {s : State} {asid : Nat} (h : ∃ x, getCtx s asid = some x ∧ queueChip s x = chipId s) (q : Nat) (es : List LEntry) :
    ringQueue s asid q es = ringHere s asid q es := by
  obtain ⟨x, hx, hq⟩ := h
  simp only [ringQueue, hx, hq, beq_self_eq_true, if_true]

theorem execQnote_eq (o : Long) (s : State) : execQnote o s =
    run (.qnote o) (sigR (if o.form = .bi then [] else useTyped 0x01 (srcA o))) (fun s uid tid c =>
      let q := if o.form = .bi then o.imm.toNat else (opd32 c (srcA o)).toNat
      if !((getCtx s c.team.asid).map (fun x => ownsQueue x q)).getD false then .trap s (trapOf .permission)
      else
        andThen (releasePart s uid tid (teamCore c.team) c.team.asid 3) (fun s1 =>
          let s2 := ringQueue s1 c.team.asid q (creationSet s1 uid tid)
          .done (if loupeOn s2 c.team.asid then advanceEpoch s2 uid else s2))) s := by
  simp only [execQnote, beq_iff_eq]

/-- Settles O52: each branch of each instruction, and `refillShare_spec` for the halving of the largest share. -/
theorem rangesAndRings : Obligations.RangesAndRings := by
  refine ⟨fun o => ?_, fun s r uid u x y he hl => refillShare_spec he hl⟩
  intro b reg put sub full submit pd get grain a mine done lo hi counted h own one q ring owns
  refine ⟨fun p => ⟨?_, ?_⟩, ?_, ?_, fun r u x y => ?_, ?_, fun r => ?_, fun r => ?_, ?_, fun r => ⟨?_, ?_⟩, ?_, fun s1 => ?_⟩
  · refine goes_of (fun s => by rw [exec_rtsub, execRtsub]) (fun s uid tid c ⟨hr, hf⟩ => ?_)
    exact (andThen_of_ok hr _).trans (if_pos hf)
  · refine goes_of (fun s => by rw [exec_rtsub, execRtsub]) (fun s uid tid c ⟨hr, hf⟩ => ?_)
    exact (andThen_of_ok hr _).trans (if_neg (Bool.eq_false_iff.mp hf))
  · exact traps_of (fun s => by rw [exec_rtget, execRtget_eq]) (fun s uid tid c hg => by exact if_pos (beq_iff_eq.mpr hg))
  · refine goes_of (fun s => by rw [exec_rtget, execRtget_eq]) (fun s uid tid c ⟨hg, he⟩ => ?_)
    refine (if_neg (mt beq_iff_eq.mp hg)).trans ?_
    cases hm : rangeInHand s c (opd32 c (srcA o)).toNat with
    | none => rfl
    | some r => exact handOut_empty (he r hm)
  · refine goes_of (fun s => by rw [exec_rtget, execRtget_eq]) (fun s uid tid c ⟨hg, hm, hs, hlt⟩ => ?_)
    refine (if_neg (mt beq_iff_eq.mp hg)).trans ?_
    replace hm : rangeInHand s c (opd32 c (srcA o)).toNat = some r := hm
    rw [hm]
    exact handOut_piece hs hlt
  · refine goes_of (fun s => by rw [exec_rtdone, execRtdone]) (fun s uid tid c hn => ?_)
    cases hr : getRange s c.team.asid (opd32 c b) with
    | none => rfl
    | some r => exact if_pos (hn r hr)
  · refine goes_of (fun s => by rw [exec_rtdone, execRtdone]) (fun s uid tid c ⟨hr, hc, hle⟩ => ?_)
    simp only [b] at hr
    have hlt : ¬ (hi32 (opd64 c (srcA o))).toNat < (lo32 (opd64 c (srcA o))).toNat := Nat.not_lt.mpr hle
    simp only [hr, hc, Bool.false_eq_true, if_false, hlt, ofNat_bool]
    rfl
  · refine goes_of (fun s => by rw [exec_rtdone, execRtdone]) (fun s uid tid c ⟨hr, hc, hlt⟩ => ?_)
    simp only [b] at hr
    replace hlt : (hi32 (opd64 c (srcA o))).toNat < (lo32 (opd64 c (srcA o))).toNat := hlt
    simp only [hr, hc, Bool.false_eq_true, if_false, hlt, if_true, ofNat_bool]
    rfl
  · refine goes_of (fun s => by rw [exec_joinRng, execJoinRng]) (fun s uid tid c hn => ?_)
    replace hn : (if c.team.ranges.contains (opd32 c (srcA o)).toNat then getRange s c.team.asid (opd32 c (srcA o)) else none) = none := hn
    simp only [hn]
    rfl
  · refine goes_of (fun s => by rw [exec_joinRng, execJoinRng]) (fun s uid tid c ⟨hr, hc⟩ => ?_)
    replace hr : (if c.team.ranges.contains (opd32 c (srcA o)).toNat then getRange s c.team.asid (opd32 c (srcA o)) else none) = some r := hr
    simp only [hr, hc, if_true, ofNat_bool, rangeHurt_iff]
    rfl
  · refine waits_of (fun s => by rw [exec_joinRng, execJoinRng]) (fun s uid tid c ⟨hr, hc⟩ => ?_)
    replace hr : (if c.team.ranges.contains (opd32 c (srcA o)).toNat then getRange s c.team.asid (opd32 c (srcA o)) else none) = some r := hr
    simp only [hr, hc, Bool.false_eq_true, if_false]
    rfl
  · exact traps_of (fun s => by rw [exec_qnote, execQnote_eq]) (fun s uid tid c hn => by
      exact if_pos (not_neg (Bool.eq_false_iff.mpr (mt (ownsNow_iff ..).mp hn))))
  · refine goes_of (fun s => by rw [exec_qnote, execQnote_eq]) (fun s uid tid c ⟨ho, hr, hq⟩ => ?_)
    refine (if_neg (not_pos ((ownsNow_iff ..).mpr ho))).trans ((andThen_of_ok hr _).trans ?_)
    simp only [ringQueue_here hq]
    rfl

end Sys2Proof.Machine
end

section
/-! The device-tree instructions (O53). -/

namespace Sys2Proof.Machine

open Sys2Proof Sys2Proof.Laws

theorem exec_dvnew (o : Long) (s : State) : exec (.dvnew o) s = execDvnew o s := rfl
theorem exec_dvgrant (o : Long) (s : State) : exec (.dvgrant o) s = execDvgrant o s := rfl
theorem exec_dvfeat (o : Long) (s : State) : exec (.dvfeat o) s = execDvfeat o s := rfl
theorem exec_dvfrz (o : Long) (s : State) : exec (.dvfrz o) s = execDvfrz o s := rfl
theorem exec_dvthaw (o : Long) (s : State) : exec (.dvthaw o) s = execDvthaw o s := rfl
theorem exec_dvckpt (o : Long) (s : State) : exec (.dvckpt o) s = execDvckpt o s := rfl
theorem exec_dvrevoke (o : Long) (s : State) : exec (.dvrevoke o) s = execDvrevoke o s := rfl
theorem exec_dvinv (o : Long) (s : State) : exec (.dvinv o) s = execDvinv o s := rfl

/-! ## Commands on a child (R225) -/

section
variable {s : State} {uid tid : Nat} {o : Long} {k : Ctx} {f : State → Except Act (W32 × State)}

theorem onChild_waits (h : (takeTurn s k.asid uid tid).1 = false) :
    onChild s uid tid o k f = .hold (takeTurn s k.asid uid tid).2 .turn := by
  simp only [onChild, h, Bool.not_false, if_true]

theorem onChild_stops {x : Act} (h : (takeTurn s k.asid uid tid).1 = true) (hf : f (takeTurn s k.asid uid tid).2 = .error x) :
    onChild s uid tid o k f = x := by
  simp only [onChild, h, Bool.not_true, Bool.false_eq_true, if_false, hf]

theorem onChild_ends {v : W32} {s1 : State} (h : (takeTurn s k.asid uid tid).1 = true)
    (hf : f (takeTurn s k.asid uid tid).2 = .ok (v, s1)) :
    onChild s uid tid o k f = putStatus (endTurn s1 k.asid uid tid) uid tid o v := by
  simp only [onChild, h, Bool.not_true, Bool.false_eq_true, if_false, hf]

end

section
variable {i : Instr} {o : Long} {more : List RegUse} {f : State → Nat → Nat → Cur → Ctx → Except Act (W32 × State)}
  (hx : ∀ s, exec i s = runChild i o more f s)
include hx

theorem child_orphan : Goes i (sigChild o more) (fun s _ _ c => childOf s c.team.asid (opd32 c (srcA o)) = none)
    (fun s uid tid _ => applyWrites s uid tid (outR (result32 o.dst.toNat 4 .b32))) := by
  refine goes_of (fun s => by rw [hx, runChild]) (fun s uid tid c h => ?_)
  simp only [h]
  rfl

theorem child_queued (k : Ctx) : Waits i (sigChild o more)
    (fun s uid tid c => childOf s c.team.asid (opd32 c (srcA o)) = some k ∧ (takeTurn s k.asid uid tid).1 = false)
    (fun s uid tid _ => (takeTurn s k.asid uid tid).2) (fun _ _ _ _ => .turn) := by
  refine waits_of (fun s => by rw [hx, runChild]) (fun s uid tid c ⟨h, ht⟩ => ?_)
  simp only [h]
  exact onChild_waits ht

/-- A command in its turn that answers. -/
theorem child_ends {k : Ctx} {pre : State → Nat → Nat → Cur → Prop} {eff : State → Nat → Nat → Cur → State} {v : W32}
    (hp : ∀ s uid tid c, pre s uid tid c → (childOf s c.team.asid (opd32 c (srcA o)) = some k ∧ (takeTurn s k.asid uid tid).1 = true) ∧
      f (takeTurn s k.asid uid tid).2 uid tid c k = .ok (v, eff s uid tid c)) :
    Goes i (sigChild o more) pre
      (fun s uid tid c => applyWrites (endTurn (eff s uid tid c) k.asid uid tid) uid tid (outR (result32 o.dst.toNat v .b32))) := by
  refine goes_of (fun s => by rw [hx, runChild]) (fun s uid tid c h => ?_)
  obtain ⟨⟨hk, ht⟩, hf⟩ := hp s uid tid c h
  simp only [hk]
  exact onChild_ends ht hf

/-- A command in its turn that waits for its end. -/
theorem child_stops {k : Ctx} {pre : State → Nat → Nat → Cur → Prop} {eff : State → Nat → Nat → Cur → State}
    {w : State → Nat → Nat → Cur → Wait}
    (hp : ∀ s uid tid c, pre s uid tid c → (childOf s c.team.asid (opd32 c (srcA o)) = some k ∧ (takeTurn s k.asid uid tid).1 = true) ∧
      f (takeTurn s k.asid uid tid).2 uid tid c k = .error (.hold (eff s uid tid c) (w s uid tid c))) :
    Waits i (sigChild o more) pre eff w := by
  refine waits_of (fun s => by rw [hx, runChild]) (fun s uid tid c h => ?_)
  obtain ⟨⟨hk, ht⟩, hf⟩ := hp s uid tid c h
  simp only [hk]
  exact onChild_stops ht hf

end

/-! ## New children (R220, R223) -/

theorem freeAsid_lt {s : State} {a : Nat} (h : freeAsid s = some a) : a < 16384 :=
  List.mem_range.mp (List.mem_of_mem_drop (List.mem_of_find?_eq_some h))

/-- A context handle has its top bit set (R220). -/
theorem ctxHandle_top {c : Ctx} (hl : c.level ≤ 7) (ha : c.asid < 16384) : (ctxHandle c).getLsbD 31 = true := by
  rw [ctxHandle, BitVec.getLsbD_ofNat, Nat.testBit_eq_decide_div_mod_eq]
  have h : (2 ^ 31 + c.level * 2 ^ 14 + c.asid) / 2 ^ 31 % 2 = 1 := by omega
  rw [h]
  decide

theorem newOutcome_level {s : State} {p : Ctx} {b : Block} (h : newOutcome s p b = none) : p.level < 7 := by
  refine Classical.byContradiction fun hl => ?_
  rw [newOutcome, if_pos (by omega)] at h
  cases h

theorem childHandle_top {s : State} {p : Ctx} {b : Block} {q a : Nat} (hl : p.level < 7) (ha : a < 16384) :
    (ctxHandle (newChild s p a q b)).getLsbD 31 = true := ctxHandle_top (c := newChild s p a q b) hl ha

/-- A grant block names no image, or one that its memory holds. -/
theorem imageUsable {s : State} {p : Ctx} {a : W64} (h : a = 0 ∨ (findImage s p a).isSome = true) :
    (a != 0 && (findImage s p a).isNone) = false := by
  rcases h with rfl | h
  · rfl
  · rw [Option.isNone_eq_false_iff.mpr h, Bool.and_false]

theorem makeChild_empty {s : State} {p : Ctx} {b : Block} {q a : Nat} (ha : freeAsid s = some a) (hb : b.imga = 0) :
    makeChild s p b q = (ctxHandle (newChild s p a q b), addChild s p (newChild s p a q b)) := by
  have hb' : (b.imga == 0) = true := by rw [hb]; rfl
  unfold makeChild
  rw [ha]
  exact if_pos hb'

/-! ## The new context in the tree -/

theorem ctxs_foldl {α : Type} {f : State → α → State} (hf : ∀ s x, (f s x).ctxs = s.ctxs) (l : List α) (s : State) :
    (l.foldl f s).ctxs = s.ctxs := by
  induction l generalizing s with
  | nil => rfl
  | cons x r ih => exact (ih _).trans (hf s x)

theorem trimSit_ctxs (s : State) (asid : Nat) : (trimSit s asid).ctxs = s.ctxs := by
  refine ctxs_foldl (fun s k => ctxs_foldl (fun s _ => ?_) _ _) _ _
  split
  · rfl
  · rfl

theorem dropSitIn_ctxs (s : State) (gs : List (Nat × Nat × Nat)) : (dropSitIn s gs).ctxs = s.ctxs := by
  rw [dropSitIn, ctxs_foldl]
  exact fun _ _ => rfl

theorem zeroGrants_ctxs (s : State) (gs : List (Nat × Nat)) : (zeroGrants s gs).ctxs = s.ctxs := by
  rw [zeroGrants, ctxs_foldl]
  exact fun _ _ => rfl

theorem getCtx_of_ctxs {s s' : State} (h : s'.ctxs = s.ctxs) (a : Nat) : getCtx s' a = getCtx s a := by simp only [getCtx, h]

theorem getCtx_modCtx_none {s : State} {a b : Nat} {f : Ctx → Ctx} (h : getCtx s a = none) (hf : ∀ c, (f c).asid = c.asid) :
    getCtx (modCtx s b f) a = none := by
  unfold modCtx
  cases hb : getCtx s b with
  | none => exact h
  | some c =>
    refine (getCtx_setCtx_other fun he => ?_).trans h
    rw [hf, getCtx_asid hb] at he
    rw [he, h] at hb
    cases hb

theorem getCtx_appended {s s' : State} {c : Ctx} (h : getCtx s c.asid = none) (hs : s'.ctxs = s.ctxs ++ [c]) :
    getCtx s' c.asid = some c := by
  rw [getCtx, hs, List.find?_append, show s.ctxs.find? (fun x => x.asid == c.asid) = none from h]
  simp

theorem getCtx_addChild {s : State} {p c : Ctx} (h : ∀ x ∈ s.ctxs, x.asid ≠ c.asid) : getCtx (addChild s p c) c.asid = some c := by
  have h0 : getCtx s c.asid = none := List.find?_eq_none.mpr fun x hx => by simpa using h x hx
  have h1 : getCtx (giveGrants s p.asid c.grant.srng) c.asid = none := by
    refine (getCtx_of_ctxs (zeroGrants_ctxs _ _) _).trans (getCtx_modCtx_none h0 (fun _ => rfl))
  have h2 : getCtx (trimSit (dropSitIn (giveGrants s p.asid c.grant.srng) c.grant.srng) p.asid) c.asid = none :=
    (getCtx_of_ctxs ((trimSit_ctxs ..).trans (dropSitIn_ctxs ..)) _).trans h1
  rw [addChild]
  generalize trimSit (dropSitIn (giveGrants s p.asid c.grant.srng) c.grant.srng) p.asid = s1 at h2
  have h3 : getCtx (modCtx { s1 with nextUid := s1.nextUid + 1 } p.asid (fun x => { x with left := x.left - (1 + c.grant.dslot) }))
      c.asid = none := getCtx_modCtx_none h2 (fun _ => rfl)
  exact getCtx_appended h3 rfl

theorem revokeLeft_iff (s : State) (a : Nat) :
    s.ctxs.any (fun x => x.asid == a && !x.live) = true ↔ ∃ y ∈ s.ctxs, y.asid = a ∧ y.live = false := by simp

/-- Settles O53: the turn and the end of a command by `runChild`, the others by their own branches. -/
theorem deviceTree : Obligations.DeviceTree := by
  refine ⟨fun o => ?_, ?_⟩
  · intro put b kid sg turn over_ mine orphan queued new grd frozenBy lim ck key shot image far stopped n swept inv
    refine ⟨fun r p => ⟨fun s1 => ?_, ?_, fun v => ?_, fun q a s2 => ?_⟩, ?_, ?_, ?_, ?_, ?_, ?_, ?_, ?_, ?_, fun p r => ?_,
      fun p k r v s1 => ?_, fun k => ⟨?_, ?_, ?_, ?_, ?_, ?_, ?_, fun s3 => ?_⟩, ?_, ?_, ?_, ?_⟩
    · refine waits_of (fun s => by rw [exec_dvnew, execDvnew]) (fun s uid tid c ⟨⟨hp, hr⟩, hf⟩ => ?_)
      simp only [hp]
      refine (andThen_of_ok hr _).trans ?_
      replace hf : (if r.1.imga = 0 then none else imageFar r.2 p r.1.imga) = some s1 := hf
      simp only [beq_iff_eq, hf]
    · refine traps_of (fun s => by rw [exec_dvnew, execDvnew]) (fun s uid tid c ⟨⟨hp, hr⟩, hz, hf, hi⟩ => ?_)
      simp only [hp]
      refine (andThen_of_ok hr _).trans ?_
      replace hf : (if r.1.imga = 0 then none else imageFar r.2 p r.1.imga) = none := hf
      have hbad : (r.1.imga != 0 && (findImage r.2 p r.1.imga).isNone) = true := by rw [hi, bne_iff_ne.mpr hz]; rfl
      simp only [beq_iff_eq, hf, hbad, if_true, blockTrap, Nat.zero_mul, Nat.add_zero]
    · refine goes_of (fun s => by rw [exec_dvnew, execDvnew]) (fun s uid tid c ⟨⟨hp, hr⟩, hf, hi, hv⟩ => ?_)
      simp only [hp]
      refine (andThen_of_ok hr _).trans ?_
      replace hf : (if r.1.imga = 0 then none else imageFar r.2 p r.1.imga) = none := hf
      simp only [beq_iff_eq, hf, imageUsable hi, Bool.false_eq_true, if_false, hv]
      rfl
    · refine goes_of (fun s => by rw [exec_dvnew, execDvnew]) (fun s uid tid c ⟨⟨hp, hr⟩, hz, hv, hq, ha, ha2, s1, hst, hs2⟩ => ?_)
      simp only [hp]
      refine (andThen_of_ok hr _).trans ?_
      simp only [beq_iff_eq, hz, if_true, hv, hq, Option.getD_some,
        makeChild_empty ha hz, childHandle_top (newOutcome_level hv) (freeAsid_lt ha)]
      refine (andThen_of_ok hst _).trans ?_
      rw [← hs2, makeChild_empty ha2 hz]
      rfl
    · exact child_orphan (exec_dvfeat o)
    · exact child_orphan (exec_dvfrz o)
    · exact child_orphan (exec_dvthaw o)
    · exact child_orphan (exec_dvckpt o)
    · exact child_queued (exec_dvfeat o)
    · exact child_queued (exec_dvfrz o)
    · exact child_queued (exec_dvthaw o)
    · exact child_queued (exec_dvckpt o)
    · refine goes_of (fun s => by rw [exec_dvgrant, execDvgrant]; rfl) (fun s uid tid c ⟨hp, hb, hk⟩ => ?_)
      obtain ⟨p, hp⟩ := Option.isSome_iff_exists.mp hp
      replace hk : childOf s c.team.asid (opd32 c (srcA o)) = none := hk
      simp only [hp, getCtx_asid hp, hk, hb, if_true]
      rfl
    · refine goes_of (fun s => by rw [exec_dvgrant, execDvgrant]; rfl) (fun s uid tid c ⟨hp, hb, hk, hr⟩ => ?_)
      replace hk : childOf s c.team.asid (opd32 c (srcA o)) = none := hk
      simp only [hp, getCtx_asid hp, hk, hb, Bool.false_eq_true, if_false]
      exact andThen_of_ok hr _
    · refine goes_of (fun s => by rw [exec_dvgrant, execDvgrant]; rfl) (fun s uid tid c ⟨hp, hpa, hb, hk, hr, ht, hg⟩ => ?_)
      replace hk : childOf s c.team.asid (opd32 c (srcA o)) = some k := hk
      simp only [hp, hpa, hk, hb, Bool.false_eq_true, if_false]
      refine (andThen_of_ok hr _).trans ?_
      exact onChild_ends ht hg
    · exact child_ends (exec_dvfeat o) (fun s uid tid c h => ⟨h, rfl⟩)
    · exact child_ends (exec_dvfrz o) (fun s uid tid c ⟨hm, hs⟩ => ⟨hm, if_pos hs⟩)
    · exact child_stops (exec_dvfrz o) (fun s uid tid c ⟨hm, hs⟩ => ⟨hm, if_neg (Bool.eq_false_iff.mp hs)⟩)
    · exact child_ends (exec_dvthaw o) (fun s uid tid c ⟨hm, hn⟩ => ⟨hm, if_pos (by simpa using hn)⟩)
    · exact child_ends (exec_dvthaw o) (fun s uid tid c ⟨hm, hn⟩ => ⟨hm, if_neg (by simpa using hn)⟩)
    · exact child_stops (exec_dvckpt o) (fun s uid tid c ⟨hm, hs⟩ => ⟨hm, if_pos (not_neg hs)⟩)
    · exact child_ends (exec_dvckpt o) (fun s uid tid c ⟨hm, hs, hl⟩ => ⟨hm, (if_neg (not_pos hs)).trans (if_pos hl)⟩)
    · exact child_ends (exec_dvckpt o) (fun s uid tid c ⟨hm, hs, hl, hst⟩ => ⟨hm, by
        exact (if_neg (not_pos hs)).trans ((if_neg (Nat.not_lt.mpr hl)).trans (orStop_of_ok hst _))⟩)
    · refine ⟨?_, ?_, ?_, fun k => ⟨?_, ?_, ?_⟩⟩
      · exact goes_of (fun s => by rw [exec_dvrevoke, execDvrevoke]; rfl) (fun s uid tid c ⟨hb, hl⟩ => by
          exact (if_pos hb).trans (if_neg (mt (revokeLeft_iff ..).mp hl)))
      · exact waits_of (fun s => by rw [exec_dvrevoke, execDvrevoke]; rfl) (fun s uid tid c ⟨hb, hl⟩ => by
          exact (if_pos hb).trans (if_pos ((revokeLeft_iff ..).mpr hl)))
      · refine goes_of (fun s => by rw [exec_dvrevoke, execDvrevoke]; rfl) (fun s uid tid c ⟨hb, hk⟩ => ?_)
        refine (if_neg (Bool.eq_false_iff.mp hb)).trans ?_
        replace hk : childOf s c.team.asid (opd32 c (srcA o)) = none := hk
        simp only [hk]
        rfl
      · refine waits_of (fun s => by rw [exec_dvrevoke, execDvrevoke]; rfl) (fun s uid tid c ⟨hb, hk, ht⟩ => ?_)
        refine (if_neg (Bool.eq_false_iff.mp hb)).trans ?_
        replace hk : childOf s c.team.asid (opd32 c (srcA o)) = some k := hk
        simp only [hk]
        exact if_pos (not_neg ht)
      · refine goes_of (fun s => by rw [exec_dvrevoke, execDvrevoke]; rfl) (fun s uid tid c ⟨hb, ⟨hk, ht⟩, hl⟩ => ?_)
        refine (if_neg (Bool.eq_false_iff.mp hb)).trans ?_
        replace hk : childOf s c.team.asid (opd32 c (srcA o)) = some k := hk
        simp only [hk]
        exact (if_neg (not_pos ht)).trans (if_neg (mt (revokeLeft_iff ..).mp hl))
      · refine waits_of (fun s => by rw [exec_dvrevoke, execDvrevoke]; rfl) (fun s uid tid c ⟨hb, ⟨hk, ht⟩, hl⟩ => ?_)
        refine (if_neg (Bool.eq_false_iff.mp hb)).trans ?_
        replace hk : childOf s c.team.asid (opd32 c (srcA o)) = some k := hk
        simp only [hk]
        exact (if_neg (not_pos ht)).trans (if_pos ((revokeLeft_iff ..).mpr hl))
    · exact goes_of (fun s => by rw [exec_dvinv, execDvinv]) (fun s uid tid c hn => by exact if_pos (beq_iff_eq.mpr hn))
    · exact goes_of (fun s => by rw [exec_dvinv, execDvinv]) (fun s uid tid c ⟨hn, ho⟩ => by
        exact (if_neg (mt beq_iff_eq.mp hn)).trans (if_neg (Bool.eq_false_iff.mp ho)))
    · exact waits_of (fun s => by rw [exec_dvinv, execDvinv]) (fun s uid tid c ⟨hn, ho⟩ => by
        exact (if_neg (mt beq_iff_eq.mp hn)).trans (if_pos ho))
  · intro s p a q b
    refine ⟨rfl, rfl, rfl, fun hl => if_pos (by omega), fun hl hs => ?_, fun hf => getCtx_addChild hf⟩
    rw [newOutcome, if_neg (by omega), if_pos (by simp [hs])]
    rfl

end Sys2Proof.Machine
end

section
/-! Handler queues (O54). -/

namespace Sys2Proof.Machine

open Sys2Proof Sys2Proof.Laws

theorem exec_hqbind (o : Long) (s : State) : exec (.hqbind o) s = execHqbind o s := rfl
theorem exec_hqbindOff (o : Long) (s : State) : exec (.hqbindOff o) s = execHqbindOff o s := rfl
theorem exec_hqpop (o : Long) (s : State) : exec (.hqpop o) s = execHqpop o s := rfl
theorem exec_hqpopWait (o : Long) (s : State) : exec (.hqpopWait o) s = execHqpopWait o s := rfl
theorem exec_hqret (o : Long) (s : State) : exec (.hqret o) s = execHqret o s := rfl

/-! ## Entries offered to a chain (R344) -/

theorem setPortRegs_asked (s : State) (p : Port) (r : PortRegs) : (setPortRegs s p r).host.asked = s.host.asked := by cases p <;> rfl

theorem noticeAt_asked (s : State) (p : Port) (n : Notice) : (noticeAt s p n).host.asked = s.host.asked := by
  unfold noticeAt ringWrite
  dsimp only
  repeat' split
  · rfl
  all_goals exact setPortRegs_asked ..

theorem postNotice_asked (s : State) (n : Notice) : (postNotice s n).host.asked = s.host.asked := by
  rw [postNotice, noticeAt_asked, noticeAt_asked]

/-- What a notice that takes an answer is about is remembered. -/
theorem askNotice_asked (s : State) (n : Notice) (about : Concern) (rpl : Bool) (a : W64) (wr : Bool) :
    ∃ q ∈ (askNotice s n about rpl a wr).2.host.asked, q.id = (askNotice s n about rpl a wr).1 ∧ q.about = about := by
  refine ⟨{ id := (pickId 1 s.host.nextNotice).1, about := about, rpl := rpl, addr := a, wr := wr }, ?_, rfl, rfl⟩
  rw [askNotice, postNotice_asked]
  exact List.mem_append_right _ (List.mem_singleton.mpr rfl)

theorem postEntry_uncovered {s : State} {h : Hqe} {c : Ctx} (hn : ∀ b ∈ c.bindings, covers s b h.ctx = false) (r : List Ctx) :
    postEntry s h (c :: r) = postEntry s { h with unh := true } r := by
  have hf : c.bindings.find? (fun b => covers s b h.ctx) = none := List.find?_eq_none.mpr fun b hb => Bool.eq_false_iff.mp (hn b hb)
  rw [postEntry, hf]

theorem postEntry_queued {s : State} {h : Hqe} {c : Ctx} (hc : ∃ b ∈ c.bindings, covers s b h.ctx = true) (he : h.about ≠ .event)
    (r : List Ctx) : ∃ b : Binding, postEntry s h (c :: r) = (.queued c.asid (pickId 0 c.nextHqe).1,
      setCtx s { c with hqes := c.hqes ++ [{ h with id := (pickId 0 c.nextHqe).1, under := b.team }], nextHqe := (pickId 0 c.nextHqe).2 }) := by
  obtain ⟨b, hb⟩ := Option.isSome_iff_exists.mp (List.find?_isSome.mpr hc)
  have he' : (h.about == .event) = false := beq_eq_false_iff_ne.mpr he
  refine ⟨b, ?_⟩
  rw [postEntry, hb]
  simp only [he', Bool.false_and, Bool.false_eq_true, if_false]

theorem postEntry_root {s : State} {h : Hqe} (he : h.about ≠ .event) :
    ∃ id t, postEntry s h [] = (.notice id, t) ∧ ∃ q ∈ t.host.asked, q.id = id ∧ q.about = h.about := by
  have he' : (h.about == .event) = false := beq_eq_false_iff_ne.mpr he
  rw [postEntry]
  simp only [he', Bool.false_eq_true, if_false]
  exact ⟨_, _, rfl, askNotice_asked ..⟩

/-! ## Popping (R345) -/

section
variable {o : Long} {s : State} {uid tid : Nat} {c : Cur} {empty : State → Act} {p : Site × State}
  (hp : letPass s uid tid c { ea := opd64 c (srcA o), size := 64, align := 64, rd := false, wr := true, winOnly := true } = .ok p)
include hp

theorem popWith_empty (hn : popNext p.2 c.team.asid uid = none) : popWith o s uid tid c empty = empty p.2 := by
  rw [popWith]
  refine (andThen_of_ok hp _).trans ?_
  simp only [hn]

theorem popWith_taken {h : Hqe} {s1 : State} (hn : popNext p.2 c.team.asid uid = some h)
    (hw : writeSite p.2 uid tid c (opd64 c (srcA o)) p.1 ((List.range 64).zip (natBytes 64 (hqeNat h))) .plain
      (writerSets p.2 uid tid (carryKey p.2 p.1) 64 0 false) = .ok s1) :
    popWith o s uid tid c empty = putStatus (popEntry s1 c.team.asid h) uid tid o 1 := by
  rw [popWith]
  refine (andThen_of_ok hp _).trans ?_
  simp only [hn]
  exact andThen_of_ok hw _

end

/-! ## Answers (R346) -/

section
variable {s : State} {u tid : Nat} {t : Team} {th : Thread} {p : Park} (ht : getTeam s u = some t) (hth : getThread t tid = some th)
  (hst : th.st = .parked p)
include ht hth hst

theorem answerThread_parked (action : Nat) : answerThread s u tid p action = match action with
    | 0 => (true, modThread s u tid (fun x => { x with st := .ready, age := 0, pass := byReticle x.frc }))
    | 1 => (true, modThread s u tid (fun x =>
        { x with st := .ready, age := 0, pc := x.frc.pc + BitVec.ofNat 64 (4 * wordLen x.frc.word0), landing := none }))
    | _ => (true, killThread s u tid) := by
  have hgone : (th.st == .gone) = false := by rw [hst]; rfl
  have hpark : (th.st != .parked p) = false := by rw [hst, bne_self_eq_false]
  simp only [answerThread, ht, Option.bind_some, hth, hgone, hpark, Bool.false_eq_true, if_false] <;> rfl

end

/-- A thread changed in place stands so in its team. -/
theorem modThread_found {s : State} {u tid : Nat} {t : Team} {th : Thread} (ht : getTeam s u = some t) (hth : getThread t tid = some th)
    (f : Thread → Thread) :
    getTeam (modThread s u tid f) u = some (setThread t tid (f th)) ∧ getThread (setThread t tid (f th)) tid = some (f th) := by
  refine ⟨?_, getThread_setThread hth⟩
  simp only [modThread, modTeam, ht, hth]
  exact getTeam_setTeam_same ht rfl

/-! ## `hqret` (R346) -/

theorem execHqret_eq (o : Long) (s : State) : execHqret o s =
    run (.hqret o) (sigChild o (if o.form = .bi then [] else useTyped 0x01 (regOpd o.kb o.sb))) (fun s uid tid c =>
      let action := if o.form = .bi then o.imm.toNat else (opd32 c (regOpd o.kb o.sb)).toNat
      if action > 2 then .trap s (trapOf .reservedField)
      else
        match (getCtx s c.team.asid).bind (fun x => x.popped.find? (fun h => h.id == opd32 c (srcA o))) with
        | none => putStatus s uid tid o dvNotChild
        | some h =>
          let s1 := modCtx s c.team.asid (fun x => { x with popped := x.popped.erase h })
          let r := answer s1 h.about (.entry c.team.asid h.id) h.id action h.addr h.stage.toNat h.wr
          putStatus r.2 uid tid o (if r.1 then dvOk else dvNotChild)) s := by
  simp only [execHqret, beq_iff_eq] <;> rfl

/-- Settles O54: an entry's place by the first binding of the chain that covers it, and each instruction by its branches. -/
theorem handlerQueues : Obligations.HandlerQueues := by
  refine ⟨fun s h c r => ⟨fun hn => postEntry_uncovered hn r, fun hc he hg => ?_⟩, fun s h he => postEntry_root he, fun o => ?_,
    fun s u tid t th p ht hth hst => ?_⟩
  · obtain ⟨b, hb⟩ := postEntry_queued hc he r
    have hlt : ∀ a, a ≠ c.asid → c.asid ≠ a := fun a ha => Ne.symm ha
    exact ⟨_, _, hb, ⟨_, b.team, getCtx_setCtx hg rfl, rfl⟩, rfl, fun a ha => getCtx_setCtx_other (hlt a ha)⟩
  · intro put one who held pop ea pass taken b ret action entry answer_
    refine ⟨?_, fun k x => ?_, fun k => ?_, ?_, fun k => ?_, fun p => ⟨?_, ?_⟩, fun p h s1 => ⟨?_, ?_⟩, ?_, ?_, fun h => ?_⟩
    · refine goes_of (fun s => by rw [exec_hqbind, execHqbind]; rfl) (fun s uid tid c hw => ?_)
      replace hw : bindingOf s c.team.asid (opd32 c (srcA o)) = none := hw
      simp only [hw]
      rfl
    · refine goes_of (fun s => by rw [exec_hqbind, execHqbind]; rfl) (fun s uid tid c ⟨hw, hx⟩ => ?_)
      replace hw : bindingOf s c.team.asid (opd32 c (srcA o)) = some k := hw
      replace hx : ((getCtx s c.team.asid).map (fun x => x.bindings)).bind (fun l => l.find? (fun b => b.child == k)) = some x := hx
      simp only [hw, hx, beq_iff_eq]
      rfl
    · refine goes_of (fun s => by rw [exec_hqbind, execHqbind]; rfl) (fun s uid tid c ⟨hw, hx⟩ => ?_)
      replace hw : bindingOf s c.team.asid (opd32 c (srcA o)) = some k := hw
      replace hx : ((getCtx s c.team.asid).map (fun x => x.bindings)).bind (fun l => l.find? (fun b => b.child == k)) = none := hx
      simp only [hw, hx]
      rfl
    · refine goes_of (fun s => by rw [exec_hqbindOff, execHqbindOff]; rfl) (fun s uid tid c hw => ?_)
      replace hw : bindingOf s c.team.asid (opd32 c (srcA o)) = none := hw
      simp only [hw]
      rfl
    · refine goes_of (fun s => by rw [exec_hqbindOff, execHqbindOff]; rfl) (fun s uid tid c hw => ?_)
      replace hw : bindingOf s c.team.asid (opd32 c (srcA o)) = some k := hw
      simp only [hw]
      rfl
    · exact goes_of (fun s => by rw [exec_hqpop, execHqpop]) (fun s uid tid c ⟨hp, hn⟩ => by exact popWith_empty hp hn)
    · exact waits_of (fun s => by rw [exec_hqpopWait, execHqpopWait]) (fun s uid tid c ⟨hp, hn⟩ => by exact popWith_empty hp hn)
    · exact goes_of (fun s => by rw [exec_hqpop, execHqpop]) (fun s uid tid c ⟨hp, hn, hw⟩ => by exact popWith_taken hp hn hw)
    · exact goes_of (fun s => by rw [exec_hqpopWait, execHqpopWait]) (fun s uid tid c ⟨hp, hn, hw⟩ => by exact popWith_taken hp hn hw)
    · exact traps_of (fun s => by rw [exec_hqret, execHqret_eq]; rfl) (fun s uid tid c ha => by exact if_pos ha)
    · refine goes_of (fun s => by rw [exec_hqret, execHqret_eq]; rfl) (fun s uid tid c ⟨ha, he⟩ => ?_)
      refine (if_neg (Nat.not_lt.mpr ha)).trans ?_
      replace he : (getCtx s c.team.asid).bind (fun x => x.popped.find? (fun h => h.id == opd32 c (srcA o))) = none := he
      simp only [he]
      rfl
    · refine goes_of (fun s => by rw [exec_hqret, execHqret_eq]; rfl) (fun s uid tid c ⟨ha, he⟩ => ?_)
      refine (if_neg (Nat.not_lt.mpr ha)).trans ?_
      replace he : (getCtx s c.team.asid).bind (fun x => x.popped.find? (fun h => h.id == opd32 c (srcA o))) = some h := he
      simp only [he]
      rfl
  · refine ⟨?_, ?_, answerThread_parked ht hth hst 2⟩
    · rw [answerThread_parked ht hth hst 0]
      obtain ⟨h1, h2⟩ := modThread_found ht hth (fun x => { x with st := .ready, age := 0, pass := byReticle x.frc })
      exact ⟨_, _, rfl, h1, h2, rfl, rfl, rfl⟩
    · rw [answerThread_parked ht hth hst 1]
      obtain ⟨h1, h2⟩ := modThread_found ht hth (fun x =>
        { x with st := .ready, age := 0, pc := x.frc.pc + BitVec.ofNat 64 (4 * wordLen x.frc.word0), landing := none })
      exact ⟨_, _, rfl, h1, h2, rfl, rfl, rfl⟩

end Sys2Proof.Machine
end

section
/-! Tokens and the engines' events (O56). -/

namespace Sys2Proof.Machine

open Sys2Proof Sys2Proof.Laws

/-! ## Events that happen where a condition holds -/

section
variable {i : Instr} {s t : State} {P : Prop} {b : Bool}

theorem happens_of_ite (hx : exec i s = if b then .next t else .fault .notEnabled) (hb : b = true ↔ P) : Happens i s P t :=
  ⟨fun hp => hx.trans (if_pos (hb.mpr hp)), fun hn => hx.trans (if_neg (mt hb.mp hn))⟩

/-- Where the model asks first what forbids the event. -/
theorem happens_unless (hx : exec i s = if b then .fault .notEnabled else .next t) (hb : b = true ↔ ¬ P) : Happens i s P t :=
  ⟨fun hp => hx.trans (if_neg fun h => hb.mp h hp), fun hn => hx.trans (if_pos (hb.mpr hn))⟩

/-- An event that is a step of the machine or none. -/
theorem happens_of_option {x : Option State} (hx : exec i s = x.elim (.fault .notEnabled) .next)
    (ht : x = if b then some t else none) (hb : b = true ↔ P) : Happens i s P t := by
  refine happens_of_ite (hx.trans ?_) hb
  rw [ht]
  cases b <;> rfl

theorem true_iff_not (h : b = false ↔ P) : b = true ↔ ¬ P := by rw [← h, Bool.not_eq_false]

theorem happens_step {x : Option State} (hx : exec i s = x.elim (.fault .notEnabled) .next) : Happens i s (x.isSome = true) (x.getD s) := by
  cases x with
  | none => exact ⟨fun h => absurd h Bool.false_ne_true, fun _ => hx⟩
  | some t => exact ⟨fun _ => hx, fun h => absurd rfl h⟩

end

/-! ## Tables of cores and slots -/

theorem find_upsert_self {α : Type} (p : α → Bool) (v : α) (hv : p v = true) : ∀ l : List α, (upsert p v l).find? p = some v
  | [] => by simp [upsert, hv]
  | x :: r => by
    unfold upsert
    cases hx : p x with
    | true => simp [hv]
    | false => simp [hx, find_upsert_self p v hv r]

theorem find_upsert_other {α : Type} (p q : α → Bool) (v : α) (hv : q v = false) (hpq : ∀ x, p x = true → q x = false) :
    ∀ l : List α, (upsert p v l).find? q = l.find? q
  | [] => by simp [upsert, hv]
  | x :: r => by
    unfold upsert
    cases hx : p x with
    | true => simp [hv, hpq x hx]
    | false => simp [List.find?_cons, find_upsert_other p q v hv hpq r]

theorem getCore_id (s : State) (k : Nat) : (getCore s k).id = k := by
  unfold getCore
  split
  case h_1 x hx => simpa using List.find?_some hx
  case h_2 => rfl

theorem getCore_setCore {s : State} {c : CoreSt} {k : Nat} (h : c.id = k) : getCore (setCore s c) k = c := by
  subst h
  rw [getCore, setCore_cores, find_upsert_self _ _ (by simp)]

/-! ## A new token (R280) -/

/-- The token that `createToken` makes in a slot. -/
def newToken (s : State) (t : Team) (issuer : Nat) (mod : BitVec 6) (hb : List LEntry) (op : Op) (slot : Nat) (gen : BitVec 12) : Token :=
  { slot := slot, gen := gen, asid := t.asid, team := t.uid, serial := t.serial, issuer := issuer, holder := .team t.uid
    hold := mod.getLsbD 5, unord := mod.getLsbD 4, scope := mod.extractLsb' 2 2, pri := mod.extractLsb' 0 2, born := s.stamp, op := op
    hb := if mod.getLsbD 4 then hb else addEntries hb (orderedSet t (classCode op) (issuerOf op issuer)) }

theorem createToken_eq {s : State} {t : Team} {issuer slot : Nat} {mod : BitVec 6} {hb : List LEntry} {op : Op} {gen : BitVec 12}
    (h : (pickFrom s (freeSlots (getCore s (teamCore t)))).1 = some (slot, gen)) :
    createToken s t issuer mod hb op = (tokenHandle s (teamCore t) (newToken s t issuer mod hb op slot gen),
      setCore { nextFree s with stamp := s.stamp + 1 } { getCore s (teamCore t) with
        tokens := upsert (fun x => x.slot == slot) (newToken s t issuer mod hb op slot gen) (getCore s (teamCore t)).tokens
        gens := putKey (getCore s (teamCore t)).gens slot gen }) := by
  unfold createToken
  dsimp only
  split
  case h_1 hn => cases h.symm.trans hn
  case h_2 slot' gen' hs =>
    cases h.symm.trans hs
    rfl

theorem getToken_created {s : State} {t : Team} {issuer slot : Nat} {mod : BitVec 6} {hb : List LEntry} {op : Op} {gen : BitVec 12}
    (h : (pickFrom s (freeSlots (getCore s (teamCore t)))).1 = some (slot, gen)) (n : Nat) :
    getToken (createToken s t issuer mod hb op).2 (teamCore t) n =
      (upsert (fun x => x.slot == slot) (newToken s t issuer mod hb op slot gen) (getCore s (teamCore t)).tokens).find? (fun x => x.slot == n) := by
  rw [createToken_eq h, getToken]
  refine congrArg (fun c : CoreSt => c.tokens.find? (fun x => x.slot == n)) (getCore_setCore ?_)
  exact getCore_id s (teamCore t)

theorem pickFrom_mem {α : Type} {s : State} {l : List α} (h : l ≠ []) : ∃ x ∈ l, (pickFrom s l).1 = some x := by
  have hlt : Config.pick s.freeCtr % l.length < l.length := Nat.mod_lt _ (List.length_pos_iff.mpr h)
  exact ⟨_, List.getElem_mem hlt, List.getElem?_eq_getElem hlt⟩

theorem createToken_spec (s : State) (t : Team) (issuer : Nat) (mod : BitVec 6) (hb : List LEntry) (op : Op)
    (h : freeSlots (getCore s (teamCore t)) ≠ []) :
    ∃ slot gen, (slot, gen) ∈ freeSlots (getCore s (teamCore t)) ∧
      (createToken s t issuer mod hb op).1 = tokenHandle s (teamCore t) (newToken s t issuer mod hb op slot gen) ∧
      getToken (createToken s t issuer mod hb op).2 (teamCore t) slot = some (newToken s t issuer mod hb op slot gen) ∧
      ∀ n, n ≠ slot → getToken (createToken s t issuer mod hb op).2 (teamCore t) n = getToken s (teamCore t) n := by
  obtain ⟨⟨slot, gen⟩, hm, hp⟩ := pickFrom_mem (s := s) h
  refine ⟨slot, gen, hm, ?_, ?_, fun n hn => ?_⟩
  · rw [createToken_eq hp]
  · have htok := getToken_created (s := s) (t := t) (issuer := issuer) (mod := mod) (hb := hb) (op := op) hp slot
    rw [htok]
    exact find_upsert_self (fun x : Token => x.slot == slot) _ (by simp [newToken]) _
  · rw [getToken_created hp]
    refine find_upsert_other (fun x : Token => x.slot == slot) (fun x => x.slot == n) _ (by simpa [newToken] using Ne.symm hn) (fun x hx => ?_) _
    rw [beq_iff_eq.mp hx]
    simpa using Ne.symm hn

/-! ## Events of a token -/

theorem exec_teamEnd (u : Nat) (s : State) : exec (.teamEnd u) s = execTeamEnd u s := rfl
theorem exec_tokenStart (core slot : Nat) (s : State) : exec (.tokenStart core slot) s = execTokenStart core slot s := rfl
theorem exec_kBlockEnd (core slot : Nat) (s : State) : exec (.kBlockEnd core slot) s = execKBlockEnd core slot s := rfl
theorem exec_sectorAcknowledged (core slot i j : Nat) (s : State) :
    exec (.sectorAcknowledged core slot i j) s = execSectorAcknowledged core slot i j s := rfl
theorem exec_collChunkEnd (core slot : Nat) (r : List RemoteRank) (s : State) :
    exec (.collChunkEnd core slot r) s = execCollChunkEnd core slot r s := rfl
theorem exec_shuffleSendPhase (core slot : Nat) (s : State) : exec (.shuffleSendPhase core slot) s = execShuffleSendPhase core slot s := rfl
theorem exec_prismGroupTimeout (p : Nat) (s : State) : exec (.prismGroupTimeout p) s = execPrismGroupTimeout p s := rfl
theorem exec_wcbAgeingDrain (core n : Nat) (s : State) : exec (.wcbAgeingDrain core n) s = execWcbAgeingDrain core n s := rfl
theorem exec_accessPerformed (core n : Nat) (s : State) : exec (.accessPerformed core n) s = execAccessPerformed core n s := rfl
theorem exec_pendingWriteCompletion (u tid : Nat) (s : State) :
    exec (.pendingWriteCompletion u tid) s = execPendingWriteCompletion u tid s := rfl

theorem copyOf_some {tk : Token} {c : CopyOp} (h : copyOf tk = some c) : tk.op = .copy c := by
  unfold copyOf at h
  split at h
  case h_1 c' ho => cases h; exact ho
  case h_2 => cases h

theorem collOf_some {tk : Token} {c : CollOp} (h : collOf tk = some c) : tk.op = .coll c := by
  unfold collOf at h
  split at h
  case h_1 c' ho => cases h; exact ho
  case h_2 => cases h

section
variable {s : State} {core slot : Nat} {tk : Token} (htk : getToken s core slot = some tk)
include htk

theorem tokenStart_happens : Happens (.tokenStart core slot) s (canStart s core tk = true ∧ firstPick s core tk = true)
    (setToken s core { tk with st := .running, age := 0, firstAt := s.cycle + 1 }) := by
  refine happens_of_ite ?_ Bool.and_eq_true_iff
  simp only [exec_tokenStart, execTokenStart, htk]

theorem kBlockEnd_happens {m : MmaOp} {k : Bool} {t : Team} (ho : tk.op = .mma m k) (ht : getTeam s tk.team = some t) :
    Happens (.kBlockEnd core slot) s (mayAccess s tk = true ∧ tk.splitting = false ∧ teamResident t = true) (kBlock s core tk m k t) := by
  refine happens_of_ite (b := mayAccess s tk && !tk.splitting && teamResident t) ?_ (by simp [and_assoc])
  simp only [exec_kBlockEnd, execKBlockEnd, htk, ho, ht]

/-- The event of a sector is the step that `sectorEvent` gives. -/
theorem sectorAcknowledged_eq (i j : Nat) :
    exec (.sectorAcknowledged core slot i j) s = (sectorEvent s core tk i j).elim (.fault .notEnabled) .next := by
  rw [exec_sectorAcknowledged, execSectorAcknowledged, htk, Option.bind_some]
  cases sectorEvent s core tk i j <;> rfl

theorem copySector_happens {c : CopyOp} {i j : Nat} {sl : Slice} {p : W64 × List SrcByte} (hc : copyOf tk = some c)
    (hs : c.slices[i]? = some sl) (hp : sliceSector sl.what j = some p) :
    Happens (.sectorAcknowledged core slot i j) s
      (sectorReady s core tk c i j sl = true ∧ (sectorBegun sl j = true ∨ sectorNext s core tk i j = true))
      (sectorStep s core tk i j sl p.1 p.2) := by
  refine happens_of_option (b := sectorReady s core tk c i j sl && (sectorBegun sl j || sectorNext s core tk i j))
    (sectorAcknowledged_eq htk i j) ?_ (by simp)
  simp only [sectorEvent, copyOf_some hc, hs, hp]

theorem shuffleSector_happens {c : CollOp} (j : Nat) (hc : collOf tk = some c) (hk : c.kind = 6) :
    Happens (.sectorAcknowledged core slot 0 j) s (segmentReady s core tk c j = true ∧ sectorNext s core tk 0 j = true)
      (segmentSend s core tk c j) := by
  refine happens_of_option (b := segmentReady s core tk c j && sectorNext s core tk 0 j) (sectorAcknowledged_eq htk 0 j) ?_ (by simp)
  simp only [sectorEvent, collOf_some hc, bne_self_eq_false, Bool.false_eq_true, if_false, hk, beq_self_eq_true, if_true]

theorem rankSector_happens {c : CollOp} (j : Nat) (hc : collOf tk = some c) (hk : c.kind ≠ 6) :
    Happens (.sectorAcknowledged core slot 0 j) s (rankReady s core tk c j = true ∧ (j ∈ c.acked ∨ sectorNext s core tk 0 j = true))
      (rankSector s core tk c j) := by
  refine happens_of_option (b := rankReady s core tk c j && (c.acked.contains j || sectorNext s core tk 0 j)) (sectorAcknowledged_eq htk 0 j)
    ?_ (by simp)
  simp only [sectorEvent, collOf_some hc, bne_self_eq_false, Bool.false_eq_true, if_false, beq_iff_eq, hk]

/-- The event of a chunk is the step that `groupChunkEnd` gives. -/
theorem collChunkEnd_eq {c : CollOp} (hc : collOf tk = some c) (remote : List RemoteRank) :
    exec (.collChunkEnd core slot remote) s = (groupChunkEnd s tk c remote).elim (.fault .notEnabled) .next := by
  rw [exec_collChunkEnd, execCollChunkEnd, htk]
  simp only [hc, Option.bind_some]
  cases groupChunkEnd s tk c remote <;> rfl

theorem shuffleChunk_happens {c : CollOp} (remote : List RemoteRank) (hc : collOf tk = some c) (hk : c.kind = 6) (hs : c.sending = true) :
    Happens (.collChunkEnd core slot remote) s ((shuffleChunkEnd s tk c remote).isSome = true) ((shuffleChunkEnd s tk c remote).getD s) := by
  refine happens_step ((collChunkEnd_eq htk hc remote).trans ?_)
  simp only [groupChunkEnd, hk, hs, beq_self_eq_true, Bool.and_self, if_true]

theorem rankChunk_happens {c : CollOp} {ranks : List (Nat × Token × CollOp)} (remote : List RemoteRank) (hc : collOf tk = some c)
    (hk : c.kind ≠ 6) (hr : runningRanks s tk c = some ranks) :
    Happens (.collChunkEnd core slot remote) s
      (chunkReady s ranks = true ∧ remoteFits s c remote = true ∧ (chunkStep s ranks remote).isSome = true)
      ((chunkStep s ranks remote).getD s) := by
  have hk' : (c.kind == 6) = false := beq_eq_false_iff_ne.mpr hk
  have hx : exec (.collChunkEnd core slot remote) s =
      (if chunkReady s ranks && remoteFits s c remote then chunkStep s ranks remote else none).elim (.fault .notEnabled) .next := by
    rw [collChunkEnd_eq htk hc remote]
    simp only [groupChunkEnd, hk', Bool.false_and, Bool.false_eq_true, if_false, hr]
  cases hb : (chunkReady s ranks && remoteFits s c remote) with
  | true =>
    rw [hb, if_pos rfl] at hx
    obtain ⟨h1, h2⟩ := Bool.and_eq_true_iff.mp hb
    obtain ⟨hyes, hno⟩ := happens_step hx
    exact ⟨fun h => hyes h.2.2, fun hn => hno fun h => hn ⟨h1, h2, h⟩⟩
  | false =>
    rw [hb, if_neg Bool.false_ne_true] at hx
    refine ⟨fun h => ?_, fun _ => hx⟩
    rw [h.1, h.2.1] at hb
    cases hb

/-- A group that does not run here: word of a rank elsewhere that differs ends it (R197). -/
theorem spoilChunk_happens {c : CollOp} (remote : List RemoteRank) (hc : collOf tk = some c)
    (h : (c.kind ≠ 6 ∧ runningRanks s tk c = none) ∨ (c.kind = 6 ∧ c.sending = false)) :
    Happens (.collChunkEnd core slot remote) s (terminal tk = false ∧ (∃ r ∈ remote, r.word = .differs) ∧
      ∀ r ∈ remote, r.rank ∈ remoteRanks s c) (spoilGroup s tk) := by
  refine happens_of_option
    (b := !terminal tk && remote.any (fun r => r.word == .differs) && remote.all (fun r => (remoteRanks s c).contains r.rank))
    (collChunkEnd_eq htk hc remote) ?_ (by simp [and_assoc])
  rcases h with ⟨hk, hr⟩ | ⟨hk, hs⟩
  · have hk' : (c.kind == 6) = false := beq_eq_false_iff_ne.mpr hk
    simp only [groupChunkEnd, hk', Bool.false_and, Bool.false_eq_true, if_false, hr]
  · simp only [groupChunkEnd, hk, hs, Bool.and_false, Bool.false_eq_true, if_false, beq_self_eq_true, if_true]

theorem sendPhase_happens {c : CollOp} {ranks : List (Nat × Token × CollOp)} (hc : collOf tk = some c) (hk : c.kind = 6)
    (hr : runningRanks s tk c = some ranks) :
    Happens (.shuffleSendPhase core slot) s (c.sending = false ∧ (∀ p ∈ ranks, tokenHeld s p.1 p.2.1 = false ∧ mayAccess s p.2.1 = true) ∧
        ∀ h ∈ s.fab.haveWait, ¬ (h.1 = ftagOf s tk.asid ∧ h.2.1 = c.grp))
      (ranks.foldl (fun st p =>
        shuffleFinish (setColl st p.1 p.2.1.slot (fun d => { d with sending := true })) p.1 p.2.1.slot) s) := by
  refine happens_unless (b := c.kind != 6 || c.sending || ranks.any (fun p => tokenHeld s p.1 p.2.1 || !mayAccess s p.2.1)
    || s.fab.haveWait.any (fun h => h.1 == ftagOf s tk.asid && h.2.1 == c.grp)) ?_ ?_
  · simp only [exec_shuffleSendPhase, execShuffleSendPhase, htk, hc, hr]
  · exact true_iff_not (by simp [hk, and_assoc])

end

/-! ## The other events -/

section
variable {s : State}

theorem teamEnd_happens {u : Nat} {t : Team} (ht : getTeam s u = some t) :
    Happens (.teamEnd u) s (teamOver s t = true) (runQueues (endTeam s t)) := by
  refine happens_of_ite ?_ Iff.rfl
  simp only [exec_teamEnd, execTeamEnd, ht]

theorem prismTimeout_happens {port : Nat} {h : PrismSeg} {r : List PrismSeg} (hs : (getPrism s port).segs = h :: r) :
    Happens (.prismGroupTimeout port) s (slotsFree s port (prismGroup s h r).1 = true)
      (prismSettle port ((getPrism (prismFlush s port) port).segs.length) (prismFlush s port)) := by
  refine happens_of_ite ?_ Iff.rfl
  simp only [exec_prismGroupTimeout, execPrismGroupTimeout, hs]

theorem wcbDrain_happens {core n : Nat} {e : WcbEntry} (he : (getCore s core).wcb[n]? = some e) :
    Happens (.wcbAgeingDrain core n) s (wcbLimit s e ≤ e.age) (drainEntry s core e) := by
  refine happens_of_ite (b := decide (e.age ≥ wcbLimit s e)) ?_ decide_eq_true_iff
  simp only [exec_wcbAgeingDrain, execWcbAgeingDrain, he, decide_eq_true_eq]

theorem accessPerformed_happens {core n : Nat} {h : HeldStore} (hh : (getCore s core).held[n]? = some h) :
    Happens (.accessPerformed core n) s (∀ e ∈ (getCore s core).held.take n, ∀ p ∈ e.data, ∀ q ∈ h.data, p.1 ≠ q.1)
      (performStore (setCore s { getCore s core with held := (getCore s core).held.eraseIdx n }) h) := by
  refine happens_unless (b := ((getCore s core).held.take n).any (fun e => e.data.any (fun p => h.data.any (fun q => p.1 == q.1)))) ?_ ?_
  · simp only [exec_accessPerformed, execAccessPerformed, hh]
  · simp

theorem pendingWrites_happens {u tid : Nat} {t : Team} {th : Thread} (ht : getTeam s u = some t) (hth : getThread t tid = some th) :
    Happens (.pendingWriteCompletion u tid) s (th.pending ≠ [] ∨ th.st = .stalled) (modThread s u tid (fun x =>
      { x with pending := [], drain := false, st := if x.st = .stalled then .ready else x.st, age := 0 })) := by
  refine happens_unless (b := th.pending.isEmpty && th.st != .stalled) ?_ (by simp)
  simp only [exec_pendingWriteCompletion, execPendingWriteCompletion, ht, hth, Option.bind_some, beq_iff_eq]

end

/-- Settles O56: the new token's slot in its core's table, and each event by its condition. -/
theorem engineEvents : Obligations.EngineEvents := by
  refine ⟨fun s t issuer mod hb op hf => ?_, fun s => ⟨fun u t ht => teamEnd_happens ht, fun core slot tk htk => ⟨tokenStart_happens htk,
    fun m k t ho ht => kBlockEnd_happens htk ho ht, fun c i j sl p hc hs hp => copySector_happens htk hc hs hp,
    fun c j hc => ⟨shuffleSector_happens htk j hc, rankSector_happens htk j hc⟩,
    fun c remote hc => ⟨shuffleChunk_happens htk remote hc, fun ranks hk hr => rankChunk_happens htk remote hc hk hr,
      spoilChunk_happens htk remote hc⟩,
    fun c hc hk ranks hr => sendPhase_happens htk hc hk hr⟩, fun port h r hs => prismTimeout_happens hs,
    fun core n e he => wcbDrain_happens he, fun core n h hh => accessPerformed_happens hh,
    fun u tid t th ht hth => pendingWrites_happens ht hth, fun u tid core slot i j => ⟨fun hn => ⟨?_, ?_⟩, fun hn => ⟨?_, ?_, ?_, ?_, ?_⟩, fun hn => ?_⟩⟩⟩
  · obtain ⟨slot, gen, hm, hh, hget, hother⟩ := createToken_spec s t issuer mod hb op hf
    exact ⟨newToken s t issuer mod hb op slot gen, hget, hh, hm, rfl, rfl, rfl, rfl, rfl, rfl, rfl, rfl, rfl, hother⟩
  · simp only [exec_teamEnd, execTeamEnd, hn]
  · simp only [exec_pendingWriteCompletion, execPendingWriteCompletion, hn, Option.bind_none]
  · simp only [exec_tokenStart, execTokenStart, hn]
  · simp only [exec_kBlockEnd, execKBlockEnd, hn]
  · simp only [exec_sectorAcknowledged, execSectorAcknowledged, hn, Option.bind_none]
  · simp only [exec_collChunkEnd, execCollChunkEnd, hn]
  · simp only [exec_shuffleSendPhase, execShuffleSendPhase, hn]
  · simp only [exec_prismGroupTimeout, execPrismGroupTimeout, hn]

end Sys2Proof.Machine
end

section
/-! Worked encodings, power-on and the step (O1, O4, O6). -/

namespace Sys2Proof.Machine

open Sys2Proof Sys2Proof.Laws

/-- Settles O1: the decoder evaluated on the worked words. -/
theorem workedWordsDecode : Obligations.WorkedWordsDecode := ⟨rfl, rfl, rfl, rfl, rfl, rfl⟩

/-- Settles O6: the fields of `State.reset`. -/
theorem resetLeaves : Obligations.ResetLeaves := ⟨rfl, rfl, rfl, rfl, rfl, rfl, rfl, rfl, rfl, fun _ => rfl, rfl⟩

/-! ## The step -/

theorem step_input {s : State} {i : Instr} {r : List Instr} (h : s.inputs = i :: r) :
    step s = exec (takeInput s i r).1 (takeInput s i r).2 := by
  simp only [step, h]

/-- An input with no tie runs by itself. -/
theorem takeInput_alone {s : State} {i : Instr} {r : List Instr} (h : ∀ j rest, r = j :: rest → settleTie s i j = none) :
    takeInput s i r = (i, { s with inputs := r }) := by
  cases r with
  | nil => rfl
  | cons j rest => simp only [takeInput, h j rest rfl]

theorem takeInput_tie {s : State} {i j first last : Instr} {rest : List Instr} {lost : Port}
    (h : settleTie s i j = some (first, last, lost)) :
    takeInput s i (j :: rest) = (first, { s with inputs := last :: rest, host := { s.host with tieLost := lost } }) := by
  simp only [takeInput, h]

/-- Of two writes to one register the one of the port that lost the last tie comes first (R403). -/
theorem settleTie_shared {s : State} {i j : Instr} {p q : Port} {off : Nat} (hi : sharedWrite i = some (p, off))
    (hj : sharedWrite j = some (q, off)) (hpq : p ≠ q) :
    settleTie s i j = if p = s.host.tieLost then some (i, j, q) else some (j, i, p) := by
  simp only [settleTie, hi, hj, beq_eq_false_iff_ne.mpr hpq, bne_self_eq_false, Bool.or_self, Bool.false_eq_true, if_false, beq_iff_eq]

/-- The thread at the head runs what its words decode to. -/
theorem step_head {s s1 : State} {uid tid : Nat} {r : List (Nat × Nat)} {t : Team} {th : Thread} {ws rest : List W32} {i : Instr}
    (hin : s.inputs = []) (hr : running s = true) (ha : s.fab.arrived = []) (hi : (pruned s).issue = (uid, tid) :: r)
    (ht : getTeam s uid = some t) (hth : getThread t tid = some th)
    (hw : instrWords (pruned s) uid tid (teamCore t) t.asid th.pc = (.ok ws, s1)) (hd : decode ws = .ok (i, rest)) :
    step s = exec i s1 := by
  have ht' : getTeam (pruned s) uid = some t := ht
  simp only [step, hin, runStep, hr, Bool.not_true, Bool.false_eq_true, if_false, ha, hi, ht', hth, issueThread, hw, issueWords, hd]

/-- A word of this chip comes from its bytes, the lowest first. -/
theorem fetchWord_here {s s1 : State} {uid tid core asid i : Nat} {pc : W64} {site : Site}
    (hf : fetchSite s asid (pc + BitVec.ofNat 64 (4 * i)) = (.ok site, s1)) (hc : site.chip = chipId s1)
    (hp : poisoned s1 site.key 4 = false) :
    (fetchWord s uid tid core asid pc i).1 = .ok (BitVec.ofNat 32 (bytesNat (readKey s1 site.key 4))) := by
  simp only [fetchWord, hf, hc, beq_self_eq_true, if_true, hp, Bool.false_eq_true, if_false]

/-- Settles O4: the branches of `step` for an input and for the thread at the head. -/
theorem stepRunsDecoded : Obligations.StepRunsDecoded := by
  refine ⟨fun s s1 uid tid r t th ws rest i => step_head, fun s s1 uid tid core asid i pc site => fetchWord_here, fun s i r h => ⟨fun hn => ?_,
    fun j rest p q off hr hi hj hpq => ⟨fun hp => ?_, fun hp => ?_⟩⟩⟩
  · rw [step_input h, takeInput_alone hn]
  · subst hr
    rw [step_input h, takeInput_tie ((settleTie_shared hi hj hpq).trans (if_pos hp))]
  · subst hr
    rw [step_input h, takeInput_tie ((settleTie_shared hi hj hpq).trans (if_neg hp))]

end Sys2Proof.Machine
end

section
/-! The scheduler's and the clock's events (O57). -/

namespace Sys2Proof.Machine

open Sys2Proof Sys2Proof.Laws

theorem exec_schedulerRound (s : State) : exec .schedulerRound s = execSchedulerRound s := rfl
theorem exec_teamPlacement (g : Nat) (s : State) : exec (.teamPlacement g) s = execTeamPlacement g s := rfl
theorem exec_teamRestore (u : Nat) (s : State) : exec (.teamRestore u) s = execTeamRestore u s := rfl
theorem exec_starvationPreemption (a : Nat) (s : State) : exec (.starvationPreemption a) s = execStarvationPreemption a s := rfl
theorem exec_forcedSave (core a : Nat) (s : State) : exec (.forcedSave core a) s = execForcedSave core a s := rfl
theorem exec_barrierStall (u tid : Nat) (s : State) : exec (.barrierStall u tid) s = execBarrierStall u tid s := rfl
theorem exec_revokeDrainDeadline (a : Nat) (s : State) : exec (.revokeDrainDeadline a) s = execRevokeDrainDeadline a s := rfl
theorem exec_queueRead (a q : Nat) (s : State) : exec (.queueRead a q) s = execQueueRead a q s := rfl
theorem exec_cycleCharge (s : State) : exec .cycleCharge s = .next { returnPermits (cycleEnd s) with part := 0 } := rfl

variable {s : State} {a : Nat}

/-! ## Rounds, placement and preemption (R312 to R327) -/

theorem schedulerRound_happens (s : State) : Happens .schedulerRound s (roundMembers (syncRing s) ≠ []) (beginRound (syncRing s)) :=
  happens_unless (b := (roundMembers (syncRing s)).isEmpty) rfl (by simp)

theorem teamPlacement_happens {g : Nat} {x : Grid} {c : Ctx} (hx : getGrid (syncRing s) g = some x)
    (hc : getCtx (syncRing s) x.asid = some c) :
    Happens (.teamPlacement g) s
      ((∃ y, nextOf (syncRing s) x.asid = some (.fresh y) ∧ y.uid = g) ∧
        (hasCredit (syncRing s) c.asid = true ∧ servedFirst (syncRing s) c.asid = true) ∧ spotFree (syncRing s) (freshCore (syncRing s) x) = true)
      (placeFresh (roomFor (turnRing (syncRing s) c.asid) (.fresh x)) c x) := by
  by_cases hy : ∃ y, nextOf (syncRing s) x.asid = some (.fresh y)
  · obtain ⟨y, hy⟩ := hy
    refine happens_of_ite (b := y.uid == g && hasCredit (syncRing s) c.asid && servedFirst (syncRing s) c.asid
      && spotFree (syncRing s) (freshCore (syncRing s) x)) ?_ (by simp [hy, and_assoc])
    simp only [exec_teamPlacement, execTeamPlacement, hx, hc, hy]
  · refine happens_of_ite (b := false) ?_ (by simpa using fun y h => absurd ⟨y, h⟩ hy)
    simp only [exec_teamPlacement, execTeamPlacement, hx, hc]
    split
    case h_1 _ _ _ y _ h => exact absurd ⟨y, h⟩ hy
    case h_2 => rfl

theorem teamRestore_happens {u : Nat} {t : Team} (ht : getTeam (syncRing s) u = some t) :
    Happens (.teamRestore u) s
      ((∃ y, nextOf (syncRing s) t.asid = some (.back y) ∧ y.uid = u) ∧
        (hasCredit (syncRing s) t.asid = true ∧ servedFirst (syncRing s) t.asid = true) ∧ spotFree (syncRing s) (backCore (syncRing s) t) = true)
      (placeBack (roomFor (turnRing (syncRing s) t.asid) (.back t)) t) := by
  by_cases hy : ∃ y, nextOf (syncRing s) t.asid = some (.back y)
  · obtain ⟨y, hy⟩ := hy
    refine happens_of_ite (b := y.uid == u && hasCredit (syncRing s) t.asid && servedFirst (syncRing s) t.asid
      && spotFree (syncRing s) (backCore (syncRing s) t)) ?_ (by simp [hy, and_assoc])
    simp only [exec_teamRestore, execTeamRestore, ht, hy]
  · refine happens_of_ite (b := false) ?_ (by simpa using fun y h => absurd ⟨y, h⟩ hy)
    simp only [exec_teamRestore, execTeamRestore, ht]
    split
    case h_1 y h => exact absurd ⟨y, h⟩ hy
    case h_2 => rfl

theorem placeBack_here {t : Team} {core : Nat} {pos : List (Nat × Nat × Nat)} {runs : List Nat} (hr : t.range = none)
    (h : backCore s t = some (.here core pos runs)) :
    placeBack s t = modCtx (restoreOn (sendLeaf s core) t core pos runs) t.asid (fun c => { c with starve := 0 }) := by
  simp [placeBack, h, spotHere, hr]

section
variable {c : Ctx} {x : Int × Nat × Nat} {r : List (Int × Nat × Nat)} (hc : getCtx s a = some c) (hx : starvers s a = x :: r)
include hc hx

theorem starvation_not (h : ctxActive s c = false ∨ c.starve < starveLimit) :
    exec (.starvationPreemption a) s = .fault .notEnabled := by
  have hb : (ctxActive s c && decide (c.starve ≥ starveLimit)) = false := by
    rcases h with h | h
    · simp [h]
    · simp [show ¬ starveLimit ≤ c.starve from Nat.not_le.mpr h]
  simp only [exec_starvationPreemption, execStarvationPreemption, hc, hx, hb]
  rfl

theorem starvation_asks (ha : ctxActive s c = true) (hl : starveLimit ≤ c.starve)
    (hy : ∃ y ∈ starvers s a, y.1 = x.1 ∧ leafFree s y.2.1 = true) :
    ∃ y ∈ starvers s a, y.1 = x.1 ∧ leafFree s y.2.1 = true ∧ exec (.starvationPreemption a) s =
      .next (modCtx (requestPreempt (sendLeaf (nextFree s) y.2.1) y.2.1 y.2.2) a (fun k => { k with starve := 0 })) := by
  rw [hx] at hy ⊢
  have hne : (x :: r).filter (fun y => y.1 == x.1 && leafFree s y.2.1) ≠ [] := by
    obtain ⟨y, hm, h1, h2⟩ := hy
    exact List.ne_nil_of_mem (List.mem_filter.mpr ⟨hm, by simp [h1, h2]⟩)
  obtain ⟨y, hm, hp⟩ := pickFrom_mem (s := s) hne
  obtain ⟨hm, hq⟩ := List.mem_filter.mp hm
  obtain ⟨h1, h2⟩ := Bool.and_eq_true_iff.mp hq
  refine ⟨y, hm, beq_iff_eq.mp h1, h2, ?_⟩
  have hb : (ctxActive s c && decide (c.starve ≥ starveLimit)) = true := by simp [ha, hl]
  simp only [exec_starvationPreemption, execStarvationPreemption, hc, hx, hb, if_true, hp]
  rfl

end

theorem forcedSave_happens {core : Nat} {p : Preempt} (hp : (getCore s core).prq.find? (fun q => q.asid == a) = some p) :
    Happens (.forcedSave core a) s (forceDue s core p = true)
      (preemptStep (postForced (modCore s core (fun c =>
          { c with prq := c.prq.map (fun q => if q.asid = a then { q with forced := true } else q) })) a
        (((teamsHere s core a).map (fun t => (t.threads.filter unsaved).length)).sum) core) core) := by
  refine happens_unless (b := !forceDue s core p) ?_ (by simp)
  simp only [exec_forcedSave, execForcedSave, hp, beq_iff_eq]

/-! ## Deadlines and queues -/

theorem barrierStall_happens {u tid : Nat} {t : Team} {th : Thread} (ht : getTeam s u = some t) (hth : getThread t tid = some th) :
    Happens (.barrierStall u tid) s ((stallDue s t tid th).isSome = true)
      (trapAt s u tid { cause := .barrierStall, aux := (stallDue s t tid th).getD 0 + t.bwd.toNat * 2 ^ 32 }) := by
  refine happens_of_ite (b := (stallDue s t tid th).isSome) ?_ Iff.rfl
  simp only [exec_barrierStall, execBarrierStall, ht, hth]
  cases stallDue s t tid th <;> rfl

theorem revokeDrainDeadline_happens {c : Ctx} (hc : (revokeTops s).find? (fun x => x.asid == a) = some c) :
    Happens (.revokeDrainDeadline a) s (drainDue s c = true) (advanceRevoke s c true) := by
  refine happens_of_ite (b := drainDue s c) ?_ Iff.rfl
  simp only [exec_revokeDrainDeadline, execRevokeDrainDeadline, hc]

section
variable {q : Nat} {c : Ctx} (hc : getCtx s a = some c)
include hc

theorem queueRead_not (h : readable s c q = false ∨ hubAsks s a = true) : exec (.queueRead a q) s = .fault .notEnabled := by
  have hb : (!readable s c q || hubAsks s a) = true := by rcases h with h | h <;> simp [h]
  simp only [exec_queueRead, execQueueRead, hc, hb, if_true]

variable (hr : readable s c q = true) (ha : hubAsks s a = false)
include hr ha

theorem queueRead_ok {x : W64} {s2 : State} (hq : qcbAddr s c q = (.ok x, s2)) :
    exec (.queueRead a q) s = .next (if x = 0 then readOver s2 a q else consume a q x (2 ^ 20 + 1) s2) := by
  simp only [exec_queueRead, execQueueRead, hc, hr, ha, hq, Bool.not_true, Bool.or_self, Bool.false_eq_true, if_false, beq_iff_eq]

theorem queueRead_error {e : Miss} {s2 : State} (hq : qcbAddr s c q = (.error e, s2)) : exec (.queueRead a q) s =
    .next (if (gotStop s2 a e).1 then (gotStop s2 a e).2 else malformed (gotStop s2 a e).2 a q 0 0) := by
  simp only [exec_queueRead, execQueueRead, hc, hr, ha, hq, Bool.not_true, Bool.or_self, Bool.false_eq_true, if_false]

end

/-! ## The clock -/

theorem tickTime_nsRest_lt (s : State) : (tickTime s).nsRest < max 1 s.care.fclk :=
  Nat.mod_lt _ (Nat.lt_of_lt_of_le Nat.one_pos (Nat.le_max_left _ _))

/-- No part of a nanosecond is lost. -/
theorem tickTime_ns (s : State) :
    (tickTime s).ns * max 1 s.care.fclk + (tickTime s).nsRest = s.ns * max 1 s.care.fclk + s.nsRest + 1000 := by
  have hdm := Nat.div_add_mod' (s.nsRest + 1000) (max 1 s.care.fclk)
  simp only [tickTime, Nat.add_mul]
  omega

/-- Settles O57: each event is its condition and its step; the starved context's core is one of those that the pick chooses among. -/
theorem schedulerEvents : Obligations.SchedulerEvents := by
  intro s
  exact ⟨schedulerRound_happens s, fun _ _ _ hx hc => teamPlacement_happens hx hc, fun _ _ ht => teamRestore_happens ht,
    fun _ _ _ _ _ hr h => placeBack_here hr h, fun _ _ _ _ hc hx => ⟨starvation_not hc hx, starvation_asks hc hx⟩,
    fun _ _ _ hp => forcedSave_happens hp, fun _ _ _ _ ht hth => barrierStall_happens ht hth, fun _ _ hc => revokeDrainDeadline_happens hc,
    fun _ _ _ hc => ⟨queueRead_not hc, fun hr ha _ _ => queueRead_ok hc hr ha, fun hr ha _ _ => queueRead_error hc hr ha⟩,
    exec_cycleCharge s, rfl, tickTime_nsRest_lt s, tickTime_ns s⟩

end Sys2Proof.Machine
end

section
/-! The fabric's events (O58). -/

namespace Sys2Proof.Machine

open Sys2Proof Sys2Proof.Laws

theorem exec_flitReceive (port : Nat) (f : Flit) (s : State) : exec (.flitReceive port f) s = execFlitReceive port f s := rfl
theorem exec_lossOfLock (port : Nat) (s : State) : exec (.lossOfLock port) s = execLossOfLock port s := rfl
theorem exec_linkRetrain (port peer : Nat) (s : State) : exec (.linkRetrain port peer) s = execLinkRetrain port peer s := rfl
theorem exec_csbPacket (port : Nat) (p : Packet) (s : State) : exec (.csbPacket port p) s = execCsbPacket port p s := rfl
theorem exec_usbPacket (port : Nat) (p : Packet) (s : State) : exec (.usbPacket port p) s = execUsbPacket port p s := rfl
theorem exec_rsdPacket (port : Nat) (p : Packet) (s : State) : exec (.rsdPacket port p) s = execRsdPacket port p s := rfl
theorem exec_havePacket (port : Nat) (p : Packet) (s : State) : exec (.havePacket port p) s = execHavePacket port p s := rfl
theorem exec_sackPacket (port : Nat) (p : Packet) (s : State) : exec (.sackPacket port p) s = execSackPacket port p s := rfl
theorem exec_replyReservationTimeout (core seq : Nat) (s : State) :
    exec (.replyReservationTimeout core seq) s = execReplyReservationTimeout core seq s := rfl
theorem exec_pathHoldTimeout (peer : Nat) (s : State) : exec (.pathHoldTimeout peer) s = execPathHoldTimeout peer s := rfl

variable {s : State} {port : Nat}

/-! ## Flits (R361 to R363) -/

/-- What a flit in order leaves before its packet is looked at. -/
def afterFlit (s : State) (port : Nat) (lp : LinkPort) (f : Flit) : State :=
  movePrism (pump (serveReplay s { takeFraming lp f with rxNext := lp.rxNext + 1, fails := 0, askReplay := false } f) port) port

section
variable {f : Flit} {lp : LinkPort} (hp : getPort s port = some lp)
include hp

theorem flit_unusable (h : ¬ (lp.up = true ∧ lp.disabled = false)) : exec (.flitReceive port f) s = .fault .notEnabled := by
  have hb : (!lp.up || lp.disabled) = true := by
    cases hu : lp.up <;> cases hd : lp.disabled <;> simp_all
  simp only [exec_flitReceive, execFlitReceive, hp, hb, if_true]

variable (hok : lp.up = true ∧ lp.disabled = false)
include hok

/-- A flit that does not follow in order asks for replay, and a replayed one that fails again is counted. -/
theorem flit_outOfOrder (h : f.crcOk = false ∨ f.seq ≠ lp.rxNext) :
    exec (.flitReceive port f) s = .next
      (if (!f.crcOk && lp.askReplay && f.seq == lp.rxNext) && decide (lp.fails + 1 ≥ 8) then
        lostLink (setPort s { lp with askReplay := true, fails := if !f.crcOk && lp.askReplay && f.seq == lp.rxNext then lp.fails + 1 else lp.fails }) port
      else setPort s { lp with askReplay := true, fails := if !f.crcOk && lp.askReplay && f.seq == lp.rxNext then lp.fails + 1 else lp.fails }) := by
  obtain ⟨hu, hd⟩ := hok
  have hb : (!f.crcOk || f.seq != lp.rxNext) = true := by simpa using h
  simp only [exec_flitReceive, execFlitReceive, hp, hu, hd, hb, Bool.not_true, Bool.or_self, Bool.false_eq_true, if_false, if_true]

theorem flit_asksReplay (h : f.crcOk = false ∨ f.seq ≠ lp.rxNext) (ha : ¬ (f.crcOk = false ∧ lp.askReplay = true ∧ f.seq = lp.rxNext)) :
    exec (.flitReceive port f) s = .next (setPort s { lp with askReplay := true }) := by
  have hb : (!f.crcOk && lp.askReplay && f.seq == lp.rxNext) = false := Bool.eq_false_iff.mpr (by simpa [and_assoc] using ha)
  rw [flit_outOfOrder hp hok h, hb]
  rfl

theorem flit_failsAgain (ha : f.crcOk = false ∧ lp.askReplay = true ∧ f.seq = lp.rxNext) :
    exec (.flitReceive port f) s = .next (
      if lp.fails + 1 ≥ 8 then lostLink (setPort s { lp with askReplay := true, fails := lp.fails + 1 }) port
      else setPort s { lp with askReplay := true, fails := lp.fails + 1 }) := by
  have hb : (!f.crcOk && lp.askReplay && f.seq == lp.rxNext) = true := by simp [ha]
  rw [flit_outOfOrder hp hok (.inl ha.1), hb]
  simp

theorem flit_accepted (hc : f.crcOk = true) (hs : f.seq = lp.rxNext) :
    exec (.flitReceive port f) s = .next (f.pkt.elim (afterFlit s port lp f) (fun p =>
      if headerOk p then intoPool (afterFlit s port lp f) port p else dropHeader (afterFlit s port lp f) port lp.peer p)) := by
  obtain ⟨hu, hd⟩ := hok
  have hb : (!f.crcOk || f.seq != lp.rxNext) = false := by simp [hc, hs]
  simp only [exec_flitReceive, execFlitReceive, hp, hu, hd, hb, Bool.not_true, Bool.or_self, Bool.false_eq_true, if_false]
  cases f.pkt <;> rfl

end

theorem mem_arrived_intoPool {p : Packet} {lp : LinkPort} (h : getPort s port = some lp) : (port, p) ∈ (intoPool s port p).fab.arrived := by
  simp [intoPool, h]

/-! ## Links (R364, R365) -/

section
variable {lp : LinkPort} (hp : getPort s port = some lp)
include hp

theorem lossOfLock_happens : Happens (.lossOfLock port) s (lp.up = true) (lostLink s port) := by
  refine happens_of_ite (b := lp.up) ?_ Iff.rfl
  simp only [exec_lossOfLock, execLossOfLock, hp]

theorem linkRetrain_happens (peer : Nat) : Happens (.linkRetrain port peer) s (lp.up = false) (if lp.peer = peer
    then retrainLink (setPort s { lp with disabled := false }) port peer
    else linkNotice (setPort s { lp with disabled := true }) 6 port peer none) := by
  refine happens_unless (b := lp.up) ?_ (by simp)
  simp only [exec_linkRetrain, execLinkRetrain, hp, beq_iff_eq]
  refine ite_congr rfl (fun _ => rfl) fun _ => ?_
  split <;> rfl

end

/-! ## Packets from a link and within the chip (R366 to R375) -/

/-- What a packet of a kind must be for its event to happen. -/
def GoodPacket (s : State) (port kind : Nat) (p : Packet) : Prop :=
  (getPort s port).isSome = true ∧ p.kind.toNat = kind ∧ p.len.toNat = p.data.length ∧ p.len.toNat ≤ 256 ∧ headerOk p = true

/-- What becomes of a good packet that arrived: dropped with its tag, sent on, or served. -/
def afterArrival (s1 : State) (p : Packet) (here : State → State) : State :=
  if tagLive s1 p.ftag = false then dropReply s1 p
  else if p.dchip.toNat ≠ chipId s1 then (if p.rly = true then s1 else relayOn s1 p.score.toNat p.dchip.toNat p)
  else here s1

section
variable {i : Instr} {p : Packet} {kind : Nat}

theorem fromLink_happens {here : State → State} (hx : exec i s = fromLink kind port p s here) :
    Happens i s (GoodPacket s port kind p) (afterArrival (leavePool s port p) p here) := by
  refine happens_unless (b := (getPort s port).isNone || p.kind.toNat != kind || p.len.toNat != p.data.length
    || p.len.toNat > 256 || !headerOk p) ?_ ?_
  · rw [hx, fromLink]
    refine ite_congr rfl (fun _ => rfl) fun _ => ?_
    unfold afterArrival
    by_cases ht : tagLive (leavePool s port p) p.ftag = true <;> by_cases hd : p.dchip.toNat = chipId (leavePool s port p) <;>
      simp [ht, hd]
  · unfold GoodPacket
    cases getPort s port with
    | none => simp
    | some lp => exact true_iff_not (by simp [and_assoc])

theorem fromHub_happens {work : State → State} (hx : exec i s = fromHub kind p s work) :
    Happens i s (p.kind.toNat = kind ∧ p ∈ s.fab.local_ ∧ rankWaits s p.dcore.toNat p = false)
      (if (kind = 7 ∨ kind = 8) ∧ rankPaused s p.dcore.toNat p = true then { s with fab := { s.fab with local_ := s.fab.local_.erase p } }
        else work { s with fab := { s.fab with local_ := s.fab.local_.erase p } }) := by
  refine happens_of_ite (b := p.kind.toNat == kind && s.fab.local_.contains p && !rankWaits s p.dcore.toNat p) ?_ (by simp [and_assoc])
  simp only [hx, fromHub, Bool.and_eq_true, Bool.or_eq_true, beq_iff_eq]

end

theorem onChip_of_ge {n : Nat} (h : 15 ≤ n) : onChip n = true := decide_eq_true h

theorem onChip_of_lt {n : Nat} (h : n < 15) : onChip n = false := decide_eq_false (Nat.not_le.mpr h)

section
variable (s : State) (p : Packet)

theorem ctlPacket_happens (port : Nat) :
    Happens (.ctlPacket port p) s (GoodPacket s port 11 p) (afterArrival (leavePool s port p) p (fun st =>
      if p.data = [] then
        (if ∃ c, getCtx st (tagAsid p.ftag) = some c ∧ ownsQueue c p.addr.toNat = true then ringHere st (tagAsid p.ftag) p.addr.toNat []
          else st)
      else if p.data.head? = some placeCode ∧ p.data.length = 18 then placeHere st p
      else if p.data.head? = some endCode ∧ p.data.length = 18 then endedThere st p
      else { st with fab := { st.fab with commands := st.fab.commands ++ [p] } })) := by
  refine fromLink_happens ((show exec (.ctlPacket port p) s = execCtlPacket port p s from rfl).trans ?_)
  unfold execCtlPacket
  refine congrArg (fromLink 11 port p s) (funext fun st => ?_)
  simp only [List.isEmpty_iff, Option.any_eq_true, Bool.and_eq_true, beq_iff_eq]

theorem csbPacket_full {port : Nat} (hp : port < 15) (hk : ∃ k ∈ (pktComps p).map (·.dcore), Config.decodeSlots ≤ (getCore s k).decode.length)
    (hd : p.dchip.toNat = chipId s) : exec (.csbPacket port p) s = .fault .notEnabled := by
  have hb : (p.dchip.toNat == chipId s && ((pktComps p).map (·.dcore)).any (fun k => decide ((getCore s k).decode.length ≥ Config.decodeSlots)))
      = true := Bool.and_eq_true_iff.mpr ⟨beq_iff_eq.mpr hd, List.any_eq_true.mpr (by simpa using hk)⟩
  simp only [exec_csbPacket, execCsbPacket, onChip_of_lt hp, hb, Bool.false_eq_true, if_false, if_true]

theorem csbPacket_happens {port : Nat} (hp : port < 15) (hk : ∀ k ∈ (pktComps p).map (·.dcore), (getCore s k).decode.length < Config.decodeSlots) :
    Happens (.csbPacket port p) s (GoodPacket s port 6 p)
      (afterArrival (leavePool s port p) p (fun st => intoCores st ((pktComps p).map (·.dcore)) p)) := by
  have hany : ((pktComps p).map (·.dcore)).any (fun k => decide ((getCore s k).decode.length ≥ Config.decodeSlots)) = false :=
    List.any_eq_false.mpr fun k hm => by simpa using hk k hm
  refine fromLink_happens ?_
  simp only [exec_csbPacket, execCsbPacket, onChip_of_lt hp, hany, Bool.and_false, Bool.false_eq_true, if_false]

theorem csbPacket_decoded {port : Nat} (hp : 15 ≤ port) :
    Happens (.csbPacket port p) s (p ∈ (getCore s (port - 256)).decode ∧ rankWaits s (port - 256) p = false) (decodeSlot s (port - 256) p) := by
  refine happens_of_ite (b := (getCore s (port - 256)).decode.contains p && !rankWaits s (port - 256) p) ?_ (by simp)
  simp only [exec_csbPacket, execCsbPacket, onChip_of_ge hp, if_true]

end

/-- A packet of the shuffles is taken from a link or from the chip's own list, by the number of its port. -/
theorem onChip_exec {i : Instr} {n : Nat} {x y : Host.Outcome State Fault Refusal} (hx : exec i s = if onChip n then y else x) :
    (n < 15 → exec i s = x) ∧ (15 ≤ n → exec i s = y) :=
  ⟨fun h => by rw [hx, onChip_of_lt h]; rfl, fun h => by rw [hx, onChip_of_ge h]; rfl⟩

theorem serveRequest_again {p r : Packet} (kind : Nat) (work : State → List Byte × State) (h : performedBefore s p = some r) :
    serveRequest p kind work s = sendToward s p.dcore.toNat p.schip.toNat r := by
  unfold serveRequest
  split
  case h_1 r' h2 => cases h.symm.trans h2; rfl
  case h_2 h2 => cases h.symm.trans h2

/-! ## Timeouts (R396 to R398) -/

theorem replyReservation_none {core seq : Nat}
    (h : (getCore s core).outst.find? (fun x => x.dead && x.seq.toNat == seq && decide (s.ns ≥ x.since + oneMs)) = none) :
    exec (.replyReservationTimeout core seq) s = .fault .notEnabled := by
  simp only [exec_replyReservationTimeout, execReplyReservationTimeout, h]

theorem replyReservation_some {core seq : Nat} {x : Outst}
    (h : (getCore s core).outst.find? (fun x => x.dead && x.seq.toNat == seq && decide (s.ns ≥ x.since + oneMs)) = some x) :
    exec (.replyReservationTimeout core seq) s = .next (setCore s { getCore s core with outst := (getCore s core).outst.erase x }) := by
  simp only [exec_replyReservationTimeout, execReplyReservationTimeout, h]

theorem pathHold_happens (s : State) (peer : Nat) :
    Happens (.pathHoldTimeout peer) s ((s.cores.filter (fun c => c.outst.any (heldTooLong s c.id peer))).map (·.id) ≠ []
        ∨ ∃ t ∈ s.teams, ∃ th ∈ t.threads, waitedTooLong s t peer th = true)
      (((s.cores.filter (fun c => c.outst.any (heldTooLong s c.id peer))).map (·.id)).foldl (fun st c => giveUpCore st peer c)
        { s with teams := s.teams.map (fun t =>
          { t with threads := t.threads.map (fun th => if waitedTooLong s t peer th then markLost th else th) }) }) := by
  refine happens_unless (b := ((s.cores.filter (fun c => c.outst.any (heldTooLong s c.id peer))).map (·.id)).isEmpty
    && !s.teams.any (fun t => t.threads.any (waitedTooLong s t peer))) rfl ?_
  rw [not_or, Classical.not_not, Bool.and_eq_true, List.isEmpty_iff, Bool.not_eq_true', ← Bool.not_eq_true]
  simp only [List.any_eq_true]

/-- Settles O58: every packet of a link goes through one rule of arrival, every packet within the chip through one of its own. -/
theorem fabricEvents : Obligations.FabricEvents := by
  intro s
  refine ⟨fun port f lp hp => ?_, fun port lp hp => ⟨lossOfLock_happens hp, linkRetrain_happens hp⟩, fun port p => ?_,
    fun p r kind work h => serveRequest_again kind work h, fun core seq => ⟨replyReservation_none, fun _ h => replyReservation_some h⟩,
    fun peer => pathHold_happens s peer⟩
  · refine ⟨flit_unusable hp, fun hok => flit_asksReplay hp hok, fun hok => flit_failsAgain hp hok, fun hok hc hs hn => ?_,
      fun q hok hc hs hq hh => ?_, fun q hok hc hs hq hh => ?_, fun _ _ _ h => mem_arrived_intoPool h⟩
    · rw [flit_accepted hp hok hc hs, hn]
      rfl
    · rw [flit_accepted hp hok hc hs, hq, Option.elim_some, hh]
      rfl
    · rw [flit_accepted hp hok hc hs, hq, Option.elim_some, hh]
      rfl
  · have husb := onChip_exec (exec_usbPacket port p s)
    have hrsd := onChip_exec (exec_rsdPacket port p s)
    have hhave := onChip_exec (exec_havePacket port p s)
    have hsack := onChip_exec (exec_sackPacket port p s)
    exact ⟨fromLink_happens rfl, fromLink_happens rfl, fromLink_happens rfl, fromLink_happens rfl, fromLink_happens rfl, fromLink_happens rfl,
      ctlPacket_happens s p port,
      fun hl => ⟨csbPacket_full s p hl, csbPacket_happens s p hl, fromLink_happens (husb.1 hl), fromLink_happens (hrsd.1 hl),
        fromLink_happens (hhave.1 hl), fromLink_happens (hsack.1 hl)⟩,
      fun hg => ⟨csbPacket_decoded s p hg, fromHub_happens (husb.2 hg), fromHub_happens (hrsd.2 hg), fromHub_happens (hhave.2 hg),
        fromHub_happens (hsack.2 hg)⟩⟩

end Sys2Proof.Machine
end

section
/-! The host's events (O59). -/

namespace Sys2Proof.Machine

open Sys2Proof Sys2Proof.Laws

theorem exec_dbell (fn : Nat) (data : W32) (s : State) : exec (.dbell fn data) s = execDbell fn data s := rfl
theorem exec_atsTranslationCompletion (rq : AtsReq) (rd wr : Bool) (s : State) :
    exec (.atsTranslationCompletion rq rd wr) s = execAtsTranslationCompletion rq rd wr s := rfl
theorem exec_pageRequestResponse (fn index : Nat) (code : PrgCode) (s : State) :
    exec (.pageRequestResponse fn index code) s = execPageRequestResponse fn index code s := rfl
theorem exec_nresp (port : Port) (data : W64) (s : State) : exec (.nresp port data) s = execNresp port data s := rfl
theorem exec_s0invgo (port : Port) (data : W32) (s : State) : exec (.s0invgo port data) s = execS0invgo port data s := rfl
theorem exec_nrctl (port : Port) (data : W32) (s : State) : exec (.nrctl port data) s = execNrctl port data s := rfl
theorem exec_noticeRingTail (port : Port) (data : W32) (s : State) : exec (.noticeRingTail port data) s = execNoticeRingTail port data s := rfl
theorem exec_functionLevelReset (vf : Nat) (s : State) : exec (.functionLevelReset vf) s = execFunctionLevelReset vf s := rfl
theorem exec_hostMemoryAccess (acc : HostAccess) (s : State) : exec (.hostMemoryAccess acc) s = execHostMemoryAccess acc s := rfl
theorem exec_semaphoreTake (port : Port) (n lease : Nat) (s : State) : exec (.semaphoreTake port n lease) s = execSemaphoreTake port n lease s := rfl
theorem exec_semaphoreRelease (port : Port) (n : Nat) (s : State) : exec (.semaphoreRelease port n) s = execSemaphoreRelease port n s := rfl
theorem exec_semaphoreLeaseExpiry (n : Nat) (s : State) : exec (.semaphoreLeaseExpiry n) s = execSemaphoreLeaseExpiry n s := rfl
theorem exec_flashWindowWrite (port : Port) (obj : FlashObj) (off : Nat) (data : List Byte) (s : State) :
    exec (.flashWindowWrite port obj off data) s = execFlashWindowWrite port obj off data s := rfl
theorem exec_registerWrite (port : Port) (off : Nat) (data : W64) (s : State) :
    exec (.registerWrite port off data) s = execRegisterWrite port off data s := rfl

variable (s : State)

/-! ## Translation, pages and notices (R393, R394, R400, R401) -/

theorem atsTranslationCompletion_happens (rq : AtsReq) (rd wr : Bool) :
    let asked := fun (m : HostMsg) => match m with
      | .atsRequest q _ => q == rq
      | _ => false
    let s1 := setAts s ((rq, rd, wr) :: s.host.ats.filter (fun e => e.1 != rq))
    Happens (.atsTranslationCompletion rq rd wr) s (s.host.out.any asked = true)
      { s1 with host := { s1.host with out := s1.host.out.filter (fun m => !asked m) } } := by
  intro asked s1
  exact happens_unless (b := !s.host.out.any asked) rfl (by simp)

section
variable {s} {fn index : Nat} (code : PrgCode)

theorem pageRequestResponse_none (h : s.host.prgs.find? (fun g => g.fn == fn && g.index == index && g.sent) = none) :
    exec (.pageRequestResponse fn index code) s = .next s := by
  simp only [exec_pageRequestResponse, execPageRequestResponse, h]

theorem pageRequestResponse_some {g : Prg} (h : s.host.prgs.find? (fun g => g.fn == fn && g.index == index && g.sent) = some g) :
    let rest := ({ s with host := { s.host with prgs := s.host.prgs.filter (fun x => !(x.fn == fn && x.index == index)) } } : State)
    exec (.pageRequestResponse fn index code) s =
      .next (sendGroup (if code = .success then pageServed rest g.asid g.rq else pageFailed rest g.asid g.rq) fn) := by
  simp only [exec_pageRequestResponse, execPageRequestResponse, h, beq_iff_eq]

end

section
variable {s} (port : Port) {data : W64}

theorem nresp_ignored (h : s.host.asked.find? (fun q => q.id == data.setWidth 32) = none ∨ bitsAt data.toNat 33 32 = 3) :
    exec (.nresp port data) s = .next s := by
  rw [exec_nresp]
  unfold execNresp
  dsimp only
  split
  case h_1 => rfl
  case h_2 q hq =>
    rcases h with h | h
    · cases hq.symm.trans h
    · rw [if_pos (beq_iff_eq.mpr h)]

theorem nresp_answers {q : Asked} (h : s.host.asked.find? (fun q => q.id == data.setWidth 32) = some q)
    (ha : bitsAt data.toNat 33 32 ≠ 3) :
    exec (.nresp port data) s = .next (answer { s with host := { s.host with asked := s.host.asked.filter (fun x => x.id != data.setWidth 32) } }
      q.about (.notice (data.setWidth 32)) (data.setWidth 32) (bitsAt data.toNat 33 32) q.addr 0 q.wr).2 := by
  have hb : (bitsAt data.toNat 33 32 == 3) = false := beq_eq_false_iff_ne.mpr ha
  simp only [exec_nresp, execNresp, h, hb, Bool.false_eq_true, if_false]

end

/-! ## The notice rings and the stage-0 invalidation (R389 to R392) -/

section
variable {s} (port : Port) {data : W32}

theorem s0invgo_ignored (h : data.getLsbD 0 = false ∨ s.host.s0invl = 0) : exec (.s0invgo port data) s = .next s := by
  simp only [exec_s0invgo, execS0invgo]
  rcases h with h | h
  · rw [h]
    rfl
  · split
    · rfl
    · rw [if_pos (by simp [h])]

theorem s0invgo_sweeps (hd : data.getLsbD 0 = true) (hl : s.host.s0invl ≠ 0) :
    exec (.s0invgo port data) s = .next (s0Sweep
      (invalidate { s with host := { s.host with s0invgo := true } } (rootAsid s) s.host.s0inva.toNat s.host.s0invl.toNat)) := by
  have hb : (s.host.s0invl.toNat == 0) = false := beq_eq_false_iff_ne.mpr fun h => hl (BitVec.eq_of_toNat_eq h)
  simp only [exec_s0invgo, execS0invgo, hd, hb, Bool.not_true, Bool.false_eq_true, if_false]

theorem nrctl_on (h : data.getLsbD 31 = true ∧ 7 ≤ bitsAt data.toNat 4 0 ∧ bitsAt data.toNat 4 0 ≤ 16) :
    exec (.nrctl port data) s = .next (flushWaiting (portRegs s port).waiting.length
      (setPortRegs s port { portRegs s port with en := true, log := bitsAt data.toNat 4 0, lost := 0 }) port) := by
  have hb : (data.getLsbD 31 && decide (7 ≤ bitsAt data.toNat 4 0 ∧ bitsAt data.toNat 4 0 ≤ 16)) = true := by simp [h]
  simp only [exec_nrctl, execNrctl, hb, if_true]

theorem nrctl_off (h : ¬ (data.getLsbD 31 = true ∧ 7 ≤ bitsAt data.toNat 4 0 ∧ bitsAt data.toNat 4 0 ≤ 16)) :
    exec (.nrctl port data) s = .next (setPortRegs s port { portRegs s port with en := false, log := bitsAt data.toNat 4 0, lost := 0 }) := by
  have hb : (data.getLsbD 31 && decide (7 ≤ bitsAt data.toNat 4 0 ∧ bitsAt data.toNat 4 0 ≤ 16)) = false := Bool.eq_false_iff.mpr (by simpa using h)
  simp only [exec_nrctl, execNrctl, hb, Bool.false_eq_true, if_false]

end

/-! ## A function's reset (R399) -/

theorem functionLevelReset_none {vf : Nat} (h : vf = 0 ∨ functionContext s vf = none) : exec (.functionLevelReset vf) s = .next s := by
  have hn : (if vf == 0 then none else functionContext s vf) = none := by
    rcases h with rfl | h
    · rfl
    · rw [h, ite_self]
  simp only [exec_functionLevelReset, execFunctionLevelReset, hn]

theorem functionLevelReset_some {vf : Nat} {c : Ctx} (hv : vf ≠ 0) (h : functionContext s vf = some c) :
    exec (.functionLevelReset vf) s = .next (beginRevoke (modCtx s c.asid (fun x => { x with cxr := { x.cxr with vf := 0 } })) c.asid) := by
  have hn : (if vf == 0 then none else functionContext s vf) = some c := (if_neg (by simpa using hv)).trans h
  simp only [exec_functionLevelReset, execFunctionLevelReset, hn]

/-! ## The host's own accesses (R402, R409) -/

/-- An access of some bytes happens where there is a byte and the range can be reached. -/
theorem access_happens {i : Instr} {t : State} {z r : Bool} {P Q : Prop}
    (hx : exec i s = if z || !r then .fault .notEnabled else .next t) (hz : z = true ↔ ¬ P) (hr : r = true ↔ Q) : Happens i s (P ∧ Q) t := by
  refine happens_unless hx ?_
  rw [Bool.or_eq_true, hz, Bool.not_eq_true', ← Bool.not_eq_true, hr, Classical.not_and_iff_not_or_not]

theorem fetchAdd_happens (pa : Nat) (v : W64) :
    Happens (.hostMemoryAccess (.fetchAdd pa v)) s (pa % 8 = 0 ∧ hostReach s pa 8 = true)
      (let key := frameKey s pa
       if poisoned s key 8 = true then sendHost s (.poisoned pa)
        else sendHost (hostPut s key (natBytes 8 ((bytesNat (readKey s key 8) + v.toNat) % 2 ^ 64))) (.readData (readKey s key 8))) := by
  refine access_happens s (z := pa % 8 != 0) (r := hostReach s pa 8) ?_ (by simp) Iff.rfl
  simp only [exec_hostMemoryAccess, execHostMemoryAccess]
  refine ite_congr rfl (fun _ => rfl) fun _ => ?_
  split <;> rfl

theorem frameKey_of_no_mirrors {s : State} (pa : Nat) (h : s.mirrors = []) : frameKey s pa = pa := by
  simp [frameKey, h, getKey]

/-! ## Semaphores (R403) and the flash window -/

section
variable (port : Port) (n lease : Nat)

theorem semaphoreTake_happens :
    Happens (.semaphoreTake port n lease) s (n < 32)
      (if semOwner s n = none ∨ semOwner s n = some port
        then setSem s n (some (port, if min (lease % 2 ^ 20) 1000000 = 0 then 0 else s.ns + min (lease % 2 ^ 20) 1000000 * 1000000)) else s) := by
  refine happens_unless (b := decide (n ≥ 32)) ?_ (by simp)
  simp only [exec_semaphoreTake, execSemaphoreTake, decide_eq_true_eq, beq_iff_eq]
  refine ite_congr rfl (fun _ => rfl) fun _ => ?_
  cases semOwner s n with
  | none => simp
  | some o => by_cases ho : o = port <;> simp [ho]

theorem semaphoreRelease_happens :
    Happens (.semaphoreRelease port n) s (n < 32) (if semOwner s n = some port then setSem s n none else s) := by
  refine happens_unless (b := decide (n ≥ 32)) ?_ (by simp)
  simp only [exec_semaphoreRelease, execSemaphoreRelease, decide_eq_true_eq, beq_iff_eq]

variable {s n}

theorem semaphoreLeaseExpiry_happens {q : Nat × Port × Nat} (h : s.host.sems.find? (fun p => p.1 == n) = some q) :
    Happens (.semaphoreLeaseExpiry n) s (q.2.2 ≠ 0 ∧ q.2.2 ≤ s.ns) (setSem s n none) := by
  refine happens_of_ite (b := q.2.2 != 0 && decide (s.ns ≥ q.2.2)) ?_ (by simp)
  simp only [exec_semaphoreLeaseExpiry, execSemaphoreLeaseExpiry, h]

theorem semaphoreLeaseExpiry_free (h : s.host.sems.find? (fun p => p.1 == n) = none) :
    exec (.semaphoreLeaseExpiry n) s = .fault .notEnabled := by
  simp only [exec_semaphoreLeaseExpiry, execSemaphoreLeaseExpiry, h]

variable (obj : FlashObj) (off : Nat) (data : List Byte)

theorem flashWindowWrite_other (h : semOwner s 0 ≠ some port) : exec (.flashWindowWrite port obj off data) s = .next s := by
  have hb : (semOwner s 0 != some port) = true := bne_iff_ne.mpr h
  simp only [exec_flashWindowWrite, execFlashWindowWrite, hb, if_true]

theorem flashWindowWrite_owner (h : semOwner s 0 = some port) : exec (.flashWindowWrite port obj off data) s =
    .next { s with care := match obj with
      | .firmware => { s.care with firmware := flashBytes s.care.firmware off data }
      | .owner => { s.care with owner := flashBytes s.care.owner off data }
      | .config => { s.care with record := flashBytes s.care.record off data } } := by
  have hb : (semOwner s 0 != some port) = false := bne_eq_false_iff_eq.mpr h
  cases obj <;> simp only [exec_flashWindowWrite, execFlashWindowWrite, hb, Bool.false_eq_true, if_false]

end

end Sys2Proof.Machine
end

section
/-! The registers of the host's ports (O59). -/

namespace Sys2Proof.Machine

open Sys2Proof Sys2Proof.Laws

variable (s : State) (port : Port)

/-! ## Register writes (R405, R407) -/

section
variable (data : W64)

/-- The state after a write to one of the two checkpoint registers. -/
theorem registerWrite_ckBase : exec (.registerWrite port 0x218 data) s =
    .next (if semOwner s 1 = some port then { s with care := { s.care with ckBase := data } } else s) := by
  simp [exec_registerWrite, execRegisterWrite]

theorem registerWrite_ckCtl : exec (.registerWrite port 0x210 data) s =
    .next (if semOwner s 1 = some port ∧ s.care.ckSt ≠ 1 ∧ data.getLsbD 31 = false then { s with care :=
        { s.care with ckOp := BitVec.ofNat 2 (bitsAt data.toNat 30 29), ckScope := data.getLsbD 28 } } else s) := by
  simp only [exec_registerWrite, execRegisterWrite]
  refine congrArg Host.Outcome.next ?_
  rw [if_neg (by decide), if_neg (by decide), if_neg (by decide), if_neg (by decide), if_pos (by decide)]
  simp only [Bool.and_eq_true, beq_iff_eq, bne_iff_ne, Bool.not_eq_true', and_assoc]

theorem registerWrite_rootWord {off : Nat} (hn : off ∉ [0x100, 0x120, 0x128, 0x300, 0x210, 0x218]) (hr : off < 0x10000 ∨ 0x30000 ≤ off) :
    exec (.registerWrite port off data) s = .next (match rootWordAt off with
      | some i => writeRootWord s i data
      | none => s) := by
  simp only [List.mem_cons, List.not_mem_nil, or_false, not_or] at hn
  obtain ⟨h1, h2, h3, h4, h5, h6⟩ := hn
  have hc : (decide (0x10000 ≤ off) && decide (off < 0x10000 + 0x400 * 128)) = false := by
    rcases hr with h | h <;> simp <;> omega
  simp only [exec_registerWrite, execRegisterWrite, beq_false_of_ne h1, beq_false_of_ne h2, beq_false_of_ne h3, beq_false_of_ne h4,
    beq_false_of_ne h5, beq_false_of_ne h6, hc, Bool.false_eq_true, if_false] <;> rfl

theorem rootWordAt_low {off : Nat} (h : off < 0x500) : rootWordAt off = none := if_pos h

theorem registerWrite_comparator {core n w : Nat} (hc : core < 128) (hn : n < 16) (hw : w < 0x40) :
    exec (.registerWrite port (0x10000 + 0x400 * core + 0x40 * n + w) data) s =
      .next (if Config.comparators ≤ n then s else modCore s core (fun c =>
        { c with retic := putKey c.retic n (writeComparator ((getKey c.retic n).getD {}) w data) })) := by
  have hcore : (0x10000 + 0x400 * core + 0x40 * n + w - 0x10000) / 0x400 = core := by omega
  have hnum : (0x10000 + 0x400 * core + 0x40 * n + w - 0x10000) % 0x400 / 0x40 = n := by omega
  have hword : (0x10000 + 0x400 * core + 0x40 * n + w) % 0x40 = w := by omega
  have hin : (decide (0x10000 ≤ 0x10000 + 0x400 * core + 0x40 * n + w)
      && decide (0x10000 + 0x400 * core + 0x40 * n + w < 0x10000 + 0x400 * 128)) = true := by
    simp only [Bool.and_eq_true, decide_eq_true_eq]
    omega
  have hne : ∀ k < 0x10000, (0x10000 + 0x400 * core + 0x40 * n + w == k) = false := fun k hk => beq_false_of_ne (by omega)
  simp only [exec_registerWrite, execRegisterWrite, hne 0x100 (by omega), hne 0x120 (by omega), hne 0x128 (by omega), hne 0x300 (by omega),
    hne 0x210 (by omega), hne 0x218 (by omega), hin, hcore, hnum, hword, Bool.false_eq_true, if_false, if_true, ge_iff_le]

end

/-! ## Register reads -/

theorem readRegister_semaphore {n : Nat} (hn : n < 32) : readRegister s port (0x400 + 8 * n) = readSemaphore s n := by
  have hin : (decide (0x400 ≤ 0x400 + 8 * n) && decide (0x400 + 8 * n < 0x500)) = true := by
    simp only [Bool.and_eq_true, decide_eq_true_eq]
    omega
  have hword : ((0x400 + 8 * n) % 8 == 0) = true := beq_iff_eq.mpr (by omega)
  have hnum : (0x400 + 8 * n - 0x400) / 8 = n := by omega
  simp only [readRegister, hin, hword, hnum, if_true]

/-- The number by which a semaphore's word names its owner (R403). -/
def ownerCode : Option Port → Nat
  | none => 0
  | some .a => 1
  | some .b => 2

theorem readSemaphore_toNat (n : Nat) : ∃ left < 2 ^ 20, (readSemaphore s n).toNat = ownerCode (semOwner s n) * 2 ^ 32 + left := by
  unfold readSemaphore semOwner
  cases s.host.sems.find? (fun p => p.1 == n) with
  | none => exact ⟨0, by decide, rfl⟩
  | some q =>
    obtain ⟨k, p, till⟩ := q
    have hleft : (till - s.ns) / 1000000 % 2 ^ 20 < 2 ^ 20 := Nat.mod_lt _ (by decide)
    refine ⟨_, hleft, ?_⟩
    dsimp only [Option.map_some]
    generalize (till - s.ns) / 1000000 % 2 ^ 20 = left at hleft ⊢
    refine (BitVec.toNat_ofNat _ _).trans ?_
    cases p with
    | a => exact Nat.mod_eq_of_lt (show 1 * 2 ^ 32 + left < 2 ^ 64 by omega)
    | b => exact Nat.mod_eq_of_lt (show 2 * 2 ^ 32 + left < 2 ^ 64 by omega)

theorem ownerCode_lt (o : Option Port) : ownerCode o < 4 := by
  rcases o with _ | _ | _ <;> decide

theorem readSemaphore_bit31 (n : Nat) : (readSemaphore s n).getLsbD 31 = false := by
  obtain ⟨left, hlt, h⟩ := readSemaphore_toNat s n
  have hdiv : (readSemaphore s n).toNat / 2 ^ 31 % 2 = 0 := by omega
  rw [BitVec.getLsbD, Nat.testBit_eq_decide_div_mod_eq, hdiv]
  rfl

theorem readSemaphore_owner (n : Nat) : ((readSemaphore s n).extractLsb' 32 2).toNat = ownerCode (semOwner s n) := by
  obtain ⟨left, hlt, h⟩ := readSemaphore_toNat s n
  have hown := ownerCode_lt (semOwner s n)
  rw [BitVec.extractLsb'_toNat, Nat.shiftRight_eq_div_pow, h]
  omega

/-! ## Comparators (R407) -/

/-- The word of a comparator's fields is a sum over disjoint bits. -/
theorem readComparator_word (c : Comparator) : (readComparator c 8).toNat = c.en.toNat * 2 ^ 31 + c.act.toNat * 2 ^ 30 + c.rd.toNat * 2 ^ 29
    + c.wr.toNat * 2 ^ 28 + c.anyc.toNat * 2 ^ 27 + c.szl.toNat * 2 ^ 21 + c.asid.toNat := by
  have h1 := Bool.toNat_lt c.en
  have h2 := Bool.toNat_lt c.act
  have h3 := Bool.toNat_lt c.rd
  have h4 := Bool.toNat_lt c.wr
  have h5 := Bool.toNat_lt c.anyc
  have h6 := c.szl.isLt
  have h7 := c.asid.isLt
  exact (BitVec.toNat_ofNat _ _).trans (Nat.mod_eq_of_lt (by omega))

theorem readComparator_reserved (c : Comparator) : ((readComparator c 8).extractLsb' 14 7).toNat = 0 := by
  have h7 := c.asid.isLt
  rw [BitVec.extractLsb'_toNat, Nat.shiftRight_eq_div_pow, readComparator_word]
  omega

theorem and_shiftedMask (d k i : Nat) : d &&& (2 ^ k - 1) <<< i = (d / 2 ^ i % 2 ^ k) <<< i := by
  refine Nat.eq_of_testBit_eq fun n => ?_
  by_cases hi : i ≤ n
  · simp [Nat.testBit_shiftLeft, Nat.testBit_two_pow_sub_one, hi, Nat.testBit_mod_two_pow, Nat.testBit_div_two_pow, Bool.and_comm]
  · simp [Nat.testBit_shiftLeft, hi]

theorem and_comparatorMask (d : Nat) : d &&& 0xFFE03FFF = d / 2 ^ 21 % 2 ^ 11 * 2 ^ 21 + d % 2 ^ 14 := by
  rw [show 0xFFE03FFF = (2 ^ 11 - 1) <<< 21 ||| (2 ^ 14 - 1) from rfl, Nat.and_or_distrib_left, Nat.and_two_pow_sub_one_eq_mod,
    and_shiftedMask, ← Nat.shiftLeft_add_eq_or_of_lt (by omega), Nat.shiftLeft_eq]

theorem read_writeComparator (c : Comparator) (data : W64) : readComparator (writeComparator c 8 data) 8 = data &&& 0xFFE03FFF := by
  have hfields : writeComparator c 8 data = { c with
      en := data.toNat.testBit 31, act := data.toNat.testBit 30, rd := data.toNat.testBit 29, wr := data.toNat.testBit 28
      anyc := data.toNat.testBit 27, szl := BitVec.ofNat 6 (bitsAt data.toNat 26 21), asid := BitVec.ofNat 14 (bitsAt data.toNat 13 0) } := rfl
  refine BitVec.eq_of_toNat_eq ?_
  rw [hfields, readComparator_word, BitVec.toNat_and, show ((0xFFE03FFF : W64)).toNat = 0xFFE03FFF from rfl, and_comparatorMask]
  simp only [bitsAt, Nat.toNat_testBit, BitVec.toNat_ofNat]
  omega

/-! ## The settling theorem -/

/-- The registers of a port: what a write to each changes, and what its reads give. -/
theorem registers_hold (data : W64) :
    let wr := fun (off : Nat) (t : State) => exec (.registerWrite port off data) s = .next t
    let mine := semOwner s 1 = some port
    (mine → wr 0x218 { s with care := { s.care with ckBase := data } }) ∧ (¬ mine → wr 0x218 s ∧ wr 0x210 s) ∧
    (mine → s.care.ckSt ≠ 1 → data.getLsbD 31 = false → wr 0x210 { s with care :=
      { s.care with ckOp := BitVec.ofNat 2 (bitsAt data.toNat 30 29), ckScope := data.getLsbD 28 } }) ∧
    (s.care.ckSt = 1 ∨ data.getLsbD 31 = true → wr 0x210 s) := by
  intro wr mine
  have hbase := registerWrite_ckBase s port data
  have hctl := registerWrite_ckCtl s port data
  refine ⟨fun h => by rwa [if_pos h] at hbase, fun h => ⟨by rwa [if_neg h] at hbase, by rwa [if_neg fun ⟨hm, _⟩ => h hm] at hctl⟩,
    fun hm hs hd => by rwa [if_pos ⟨hm, hs, hd⟩] at hctl, fun h => ?_⟩
  rwa [if_neg fun ⟨_, hs, hd⟩ => h.elim hs fun ht => by rw [ht] at hd; exact absurd hd (by decide)] at hctl

/-- Settles O59: an event each; the registers are read and written field by field. -/
theorem hostEvents : Obligations.HostEvents := by
  intro s
  refine ⟨fun fn data => rfl, fun rq rd wr => atsTranslationCompletion_happens s rq rd wr,
    fun fn index code => ⟨pageRequestResponse_none code, fun g h => pageRequestResponse_some code h⟩, fun rq pages => rfl,
    fun port data => ⟨nresp_ignored port, fun q => nresp_answers port⟩, fun port data => ⟨s0invgo_ignored port, s0invgo_sweeps port⟩,
    fun port data => ⟨nrctl_on port, nrctl_off port, ?_⟩, fun vf => ⟨functionLevelReset_none s, fun c => functionLevelReset_some s⟩,
    fun pa len core off data v => ⟨access_happens s rfl (by simp) Iff.rfl, access_happens s rfl (by simp) Iff.rfl,
      access_happens s rfl (by simp) Iff.rfl, access_happens s rfl (by simp) Iff.rfl, fetchAdd_happens s pa v, frameKey_of_no_mirrors pa⟩,
    fun port n lease => ⟨semaphoreTake_happens s port n lease, semaphoreRelease_happens s port n, fun q => semaphoreLeaseExpiry_happens,
      semaphoreLeaseExpiry_free⟩,
    fun port obj off data => ⟨flashWindowWrite_other port obj off data, flashWindowWrite_owner port obj off data⟩, fun port data => ?_⟩
  · rfl
  · obtain ⟨h1, h2, h3, h4⟩ := registers_hold s port data
    refine ⟨rfl, rfl, rfl, rfl, h1, h2, h3, h4, fun off => registerWrite_rootWord s port data, fun off => rootWordAt_low,
      fun core n w => registerWrite_comparator s port data, ⟨rfl, rfl, rfl, rfl, rfl, rfl, fun n hn => ?_, fun c => ?_⟩, fun vf => ⟨rfl, fun h => ?_⟩⟩
    · refine ⟨readRegister_semaphore s port hn, readSemaphore_bit31 s n, (readSemaphore_owner s n).trans ?_⟩
      rcases semOwner s n with _ | _ | _ <;> rfl
    · exact ⟨readComparator_reserved c, rfl, read_writeComparator c data⟩
    · simp [readVf, h]

end Sys2Proof.Machine
end

section
/-! The module's events (O60): starts, resets, power, checkpoints and errors. -/

namespace Sys2Proof.Machine

open Sys2Proof Sys2Proof.Laws

theorem exec_start (r : StartInput) (s : State) : exec (.start r) s = execStart r s := rfl
theorem exec_wdog (s : State) : exec .wdog s = execWdog s := rfl
theorem exec_bootctlRst (port : Port) (both : Bool) (s : State) : exec (.bootctlRst port both) s = execBootctlRst port both s := rfl
theorem exec_powerLimitInterval (watts celsius : Nat) (s : State) :
    exec (.powerLimitInterval watts celsius) s = execPowerLimitInterval watts celsius s := rfl
theorem exec_tierPortLost (x : Bool) (n : Nat) (s : State) : exec (.tierPortLost x n) s = execTierPortLost x n s := rfl
theorem exec_scrub (at_ : ErrPlace) (bad : Bool) (s : State) : exec (.scrub at_ bad) s = execScrub at_ bad s := rfl

variable {s : State}

/-! ## Starts, hangs and resets (R405 to R408) -/

theorem mayStart_iff : mayStart s = true ↔ s.care.phase = .off ∨ s.care.phase = .resetting := by
  simp [mayStart]

section
variable (r : StartInput)

theorem start_not (h : ¬ (s.care.phase = .off ∨ s.care.phase = .resetting)) : exec (.start r) s = .fault .notEnabled := by
  have hm : mayStart s = false := Bool.eq_false_iff.mpr (mt mayStart_iff.mp h)
  simp only [exec_start, execStart, hm, Bool.not_false, if_true]

section
variable (h : s.care.phase = .off ∨ s.care.phase = .resetting)
include h

theorem start_pinhole (ha : 3 ≤ s.care.att) : exec (.start r) s = .next (startPinhole s) := by
  simp only [exec_start, execStart, mayStart_iff.mpr h, Bool.not_true, Bool.false_eq_true, if_false, ge_iff_le, if_pos ha]

variable (ha : s.care.att < 3)
include ha

theorem start_fails {cause : Nat} (hf : startFault { s.care with att := s.care.att + 1 } r = some cause) :
    exec (.start r) s = .next (moduleReset { s with care := { s.care with att := s.care.att + 1, last := cause } } s.care.srce) := by
  simp only [exec_start, execStart, mayStart_iff.mpr h, Bool.not_true, Bool.false_eq_true, if_false, ge_iff_le, if_neg (Nat.not_le.mpr ha), hf]

theorem start_succeeds (hf : startFault { s.care with att := s.care.att + 1 } r = none) :
    exec (.start r) s = .next (startUp { s with care := { s.care with att := s.care.att + 1 } } r) := by
  simp only [exec_start, execStart, mayStart_iff.mpr h, Bool.not_true, Bool.false_eq_true, if_false, ge_iff_le, if_neg (Nat.not_le.mpr ha), hf]

end
end

theorem startPinhole_phase (s : State) : (startPinhole s).care.phase = .pinhole := rfl

theorem startUp_att (s : State) (r : StartInput) : (startUp s r).care.att = 0 := rfl

/-- What a reset of the module leaves of its registers and its work. -/
theorem moduleReset_leaves (s : State) (n : Nat) :
    (moduleReset s n).care.phase = .resetting ∧ (moduleReset s n).care.srce = n ∧ (moduleReset s n).care.att = s.care.att ∧
      (moduleReset s n).teams = [] ∧ (moduleReset s n).ctxs = [] ∧ (moduleReset s n).host.sems = [] :=
  ⟨rfl, rfl, rfl, rfl, rfl, rfl⟩

theorem moduleReset_last (s : State) (n : Nat) : (moduleReset s n).care.last = s.care.last := rfl

theorem wdog_happens (s : State) : Happens .wdog s ((s.care.phase = .off ∨ s.care.phase = .resetting) ∧ s.care.att < 3)
    (moduleReset { s with care := { s.care with att := s.care.att + 1, last := 7 } } s.care.srce) := by
  refine happens_unless (b := !mayStart s || decide (s.care.att ≥ 3)) rfl ?_
  rw [← mayStart_iff]
  cases mayStart s <;> simp

theorem reset_happens {i : Instr} {t : State} (hx : exec i s = if s.care.phase == .off then .fault .notEnabled else .next t) :
    Happens i s (s.care.phase ≠ .off) t :=
  happens_unless hx (by simp)

theorem bootctlRst_one (port : Port) : exec (.bootctlRst port false) s = .next (moduleReset s (if port = .a then 1 else 2)) := by
  simp only [exec_bootctlRst, execBootctlRst, Bool.false_eq_true, if_false, beq_iff_eq]

theorem bootctlRst_both (port : Port) : exec (.bootctlRst port true) s = .next (moduleReset s (if s.host.tieLost = .a then 1 else 2)) := by
  simp only [exec_bootctlRst, execBootctlRst, if_true, beq_iff_eq]

theorem powerOff_leaves (s : State) (b : Bool) :
    (powerOff s b).care.phase = .off ∧ (powerOff s b).care.att = if b then s.care.att else 0 := ⟨rfl, rfl⟩

/-! ## The power and temperature interval (R410) -/

/-- The clock after an interval: down past a limit, up well under the power limit. -/
def nextClock (lim f watts celsius : Nat) : Nat :=
  if lim < watts ∨ 100 < celsius then max 1000 (f - 100) else if 100 * watts < 95 * lim then min 2700 (f + 100) else f

/-- Throttling by power goes on until the power is well under its limit. -/
def powerThrottled (s : State) (watts : Nat) : Bool :=
  decide (plimOf s < watts) || (s.care.thr.getLsbD 0 && decide (95 * plimOf s ≤ 100 * watts))

/-- The module's registers after an interval. -/
def afterInterval (s : State) (watts celsius : Nat) : Care :=
  { s.care with
    pwr := watts, tj := celsius, fclk := nextClock (plimOf s) s.care.fclk watts celsius
    thr := BitVec.ofNat 2 ((powerThrottled s watts).toNat + 2 * (decide (100 < celsius)).toNat) }

theorem powerLimit_not (watts celsius : Nat) (h : s.care.phase ≠ .running) : exec (.powerLimitInterval watts celsius) s = .fault .notEnabled := by
  have hb : (s.care.phase != .running) = true := bne_iff_ne.mpr h
  simp only [exec_powerLimitInterval, execPowerLimitInterval, hb, if_true]

theorem powerLimit_running (watts celsius : Nat) (h : s.care.phase = .running) :
    exec (.powerLimitInterval watts celsius) s = .next { s with care := afterInterval s watts celsius } := by
  have hb : (s.care.phase != .running) = false := bne_eq_false_iff_eq.mpr h
  simp only [exec_powerLimitInterval, execPowerLimitInterval, hb, Bool.false_eq_true, if_false, afterInterval, nextClock, powerThrottled,
    Bool.or_eq_true, decide_eq_true_eq, gt_iff_lt, ge_iff_le]

theorem afterInterval_hot (watts celsius : Nat) : (afterInterval s watts celsius).thr.getLsbD 1 = true ↔ 100 < celsius := by
  unfold afterInterval
  cases powerThrottled s watts <;> by_cases h : 100 < celsius <;> simp [h]

theorem afterInterval_power {watts : Nat} (celsius : Nat) (h : plimOf s < watts) : (afterInterval s watts celsius).thr.getLsbD 0 = true := by
  have hp : powerThrottled s watts = true := by simp [powerThrottled, h]
  unfold afterInterval
  by_cases hc : 100 < celsius <;> simp [hc, hp]

/-! ## Checkpoints (R411) -/

/-- The state in which a checkpoint operation has begun. -/
def begun (s : State) (data : W32) (op : Nat) : State :=
  { s with care := { s.care with
    ckGo := true, ckOp := BitVec.ofNat 2 op, ckScope := data.getLsbD 28, ckSt := 1, ckDone := 0, ckCause := 0, ckAt := s.care.ckBase } }

theorem checkpointGo_happens {i : Instr} {op : Nat} {port : Port} {data : W32} {go : State → State} {t : State}
    (hx : exec i s = checkpointGo op port data s go) (ht : go (begun s data op) = t) :
    Happens i s (data.getLsbD 31 = true ∧ bitsAt data.toNat 30 29 = op ∧ (s.care.phase = .running ∨ s.care.phase = .pinhole))
      (if semOwner s 1 = some port ∧ s.care.ckSt ≠ 1 then t else s) := by
  subst ht
  refine happens_unless (b := !data.getLsbD 31 || bitsAt data.toNat 30 29 != op || !(s.care.phase == .running || s.care.phase == .pinhole)) ?_ ?_
  · rw [hx, checkpointGo]
    refine ite_congr rfl (fun _ => rfl) fun _ => ?_
    by_cases hm : semOwner s 1 = some port <;> by_cases hs : s.care.ckSt = 1 <;> simp [hm, hs, begun]
  · exact true_iff_not (by simp [and_assoc, Classical.or_iff_not_imp_left])

theorem tierPortLost_happens (x : Bool) (n : Nat) :
    let lost := if (x, n) ∈ s.care.lostTier then s.care.lostTier else (x, n) :: s.care.lostTier
    let s1 : State := { s with care := { s.care with lostTier := lost } }
    Happens (.tierPortLost x n) s (n < if x then 4 else 6)
      (if s.care.ckSt = 1 ∧ s.care.ckScope = x then endCheckpoint s1 3 0xFF else s1) := by
  intro lost s1
  refine happens_unless (b := decide (n ≥ if x then 4 else 6)) ?_ (by simp)
  simp only [exec_tierPortLost, execTierPortLost, decide_eq_true_eq, Bool.and_eq_true, beq_iff_eq, List.contains_iff_mem]
  rfl

/-! ## Errors that a scrub finds (R395) -/

theorem scrub_happens {at_ : ErrPlace} {reach : Bool} {t : State} (hx : execScrub at_ true s = if !reach then .fault .notEnabled else .next t) :
    Happens (.scrub at_ true) s (reach = true) t :=
  happens_unless (b := !reach) hx (by simp)

/-- The state with a line marked as lost. -/
def spoiled (s : State) (l : Nat) : State := { s with poison := if l ∈ s.poison then s.poison else l :: s.poison }

theorem spoiled_eq (s : State) (l : Nat) : { s with poison := if s.poison.contains l then s.poison else l :: s.poison } = spoiled s l := by
  simp only [spoiled, List.contains_iff_mem]

theorem scrub_line (pa : Nat) : Happens (.scrub (.line pa) true) s (hostReach s pa 1 = true)
    (containOwner (spoiled s (pa / 128)) (ownerOf s (pa / 128)) (pa / 128 * 128 + ownerOf s (pa / 128) * 2 ^ 52) (paCore pa)) := by
  rw [← spoiled_eq]
  exact scrub_happens rfl

theorem scrub_slice (core off : Nat) : Happens (.scrub (.slice core off) true) s (sliceReach core off 1 = true)
    (containOwner (spoiled s (sliceKey core off / 128)) (grantHolder s core (off / 65536))
      (grantHolder s core (off / 65536) * 2 ^ 52 + 2 ^ 66) core) := by
  rw [← spoiled_eq]
  exact scrub_happens rfl

end Sys2Proof.Machine
end

section
/-! The attestation messages, and the module's events together (O60). -/

namespace Sys2Proof.Machine

open Sys2Proof Sys2Proof.Laws

theorem exec_getVersion (port : Port) (s : State) : exec (.getVersion port) s = execGetVersion port s := rfl
theorem exec_negotiateAlgorithms (port : Port) (sig hash : Nat) (s : State) :
    exec (.negotiateAlgorithms port sig hash) s = execNegotiateAlgorithms port sig hash s := rfl
theorem exec_getDigests (port : Port) (s : State) : exec (.getDigests port) s = execGetDigests port s := rfl
theorem exec_getCertificate (port : Port) (slot off len : Nat) (s : State) :
    exec (.getCertificate port slot off len) s = execGetCertificate port slot off len s := rfl
theorem exec_challenge (port : Port) (slot : Nat) (nonce : List Byte) (s : State) : exec (.challenge port slot nonce) s = execChallenge port slot nonce s := rfl
theorem exec_getMeasurements (port : Port) (index : Nat) (nonce : List Byte) (s : State) :
    exec (.getMeasurements port index nonce) s = execGetMeasurements port index nonce s := rfl

variable {s st : State} {i : Instr} {port : Port} {asked body : List Byte}

/-! ## Signed responses (R416, R418) -/

/-- The event answers with a signed message wherever the module runs. -/
def Tells (port : Port) (i : Instr) (s st : State) (asked body : List Byte) : Prop :=
  Happens i s (s.care.phase = .running ∨ s.care.phase = .pinhole) (sendHost st (.spdm port (body ++ edSign (aliasKey s) (asked ++ body))))

/-- What a port receives that may have no agreed algorithms: the message, or UnexpectedRequest. -/
def heldBody (s : State) (port : Port) (body : List Byte) : List Byte := if port ∈ s.care.spdm then body else spdmError 4

theorem tells_of_respond (hx : exec i s = respond st port asked body) (hp : st.care.phase = s.care.phase) (hk : aliasKey st = aliasKey s) :
    Tells port i s st asked body := by
  refine happens_of_ite (b := s.care.phase == .running || s.care.phase == .pinhole) ?_ (by simp)
  rw [hx, respond, hp, hk]

theorem respondSlot_zero (hc : st.care = s.care) : respondSlot st port 0 asked body = respond st port asked (heldBody s port body) := by
  unfold respondSlot heldBody
  rw [hc]
  by_cases h : port ∈ s.care.spdm <;> simp [h]

theorem respondSlot_other {slot : Nat} (hc : st.care = s.care) (hs : slot ≠ 0) :
    respondSlot st port slot asked body = respond st port asked (heldBody s port (spdmError 1)) := by
  unfold respondSlot heldBody
  rw [hc]
  by_cases h : port ∈ s.care.spdm <;> simp [h, hs]

theorem tells_getVersion (s : State) (port : Port) :
    Tells port (.getVersion port) s { s with care := { s.care with spdm := s.care.spdm.filter (· != port) } } []
      [0x10, 0x04, 0, 0, 0, 1, 0x00, 0x13] :=
  tells_of_respond (exec_getVersion port s) rfl rfl

theorem tells_getCapabilities (s : State) (port : Port) :
    Tells port (.getCapabilities port) s s [] (spdm 0x61 0 0 ([0, Config.spdmExponent, 0, 0, 0x16, 0, 0, 0]
      ++ natBytes 4 Config.spdmSize.toNat ++ natBytes 4 Config.spdmSize.toNat)) :=
  tells_of_respond rfl rfl rfl

theorem tells_agreement {sig hash : Nat} (h : sig = 0 ∧ hash = 0) :
    Tells port (.negotiateAlgorithms port sig hash) s
      { s with care := { s.care with spdm := if port ∈ s.care.spdm then s.care.spdm else port :: s.care.spdm } } [] (algorithms true true) := by
  obtain ⟨rfl, rfl⟩ := h
  refine tells_of_respond ?_ rfl rfl
  simp only [exec_negotiateAlgorithms, execNegotiateAlgorithms, beq_self_eq_true, Bool.and_self, if_true, List.contains_iff_mem]

theorem tells_noAgreement {sig hash : Nat} (h : ¬ (sig = 0 ∧ hash = 0)) :
    Tells port (.negotiateAlgorithms port sig hash) s s [] (algorithms (sig == 0) (hash == 0)) := by
  have hb : (sig == 0 && hash == 0) = false := Bool.eq_false_iff.mpr (by simpa using h)
  refine tells_of_respond ?_ rfl rfl
  simp only [exec_negotiateAlgorithms, execNegotiateAlgorithms, hb, Bool.false_eq_true, if_false]

theorem tells_getDigests (s : State) (port : Port) :
    Tells port (.getDigests port) s s [] (heldBody s port (spdm 0x01 1 1 (digest (certChain s)))) :=
  tells_of_respond ((exec_getDigests port s).trans (respondSlot_zero rfl)) rfl rfl

/-- GET_CERTIFICATE gives the part of the chain that was asked for and says how much is left. -/
theorem tells_getCertificate {off : Nat} (len : Nat) (h : off < (certChain s).length) :
    Tells port (.getCertificate port 0 off len) s s [] (heldBody s port (
      let part := ((certChain s).drop off).take len
      spdm 0x02 0 0 (natBytes 2 part.length ++ natBytes 2 ((certChain s).length - off - part.length) ++ part))) := by
  refine tells_of_respond ((exec_getCertificate port 0 off len s).trans ?_) rfl rfl
  unfold execGetCertificate
  dsimp only
  rw [if_pos h]
  exact respondSlot_zero rfl

theorem tells_noCertificate {slot : Nat} (off len : Nat) (h : slot ≠ 0) :
    Tells port (.getCertificate port slot off len) s s [] (heldBody s port (spdmError 1)) :=
  tells_of_respond ((exec_getCertificate port slot off len s).trans (respondSlot_other rfl h)) rfl rfl

theorem tells_challenge (s : State) (port : Port) (nonce : List Byte) :
    Tells port (.challenge port 0 nonce) s (nextFree s) nonce
      (heldBody s port (spdm 0x03 0 1 (digest (certChain s) ++ spdmNonce s ++ List.replicate 10 0))) :=
  tells_of_respond ((exec_challenge port 0 nonce s).trans (respondSlot_zero rfl)) rfl rfl

theorem tells_noChallenge {slot : Nat} (nonce : List Byte) (h : slot ≠ 0) :
    Tells port (.challenge port slot nonce) s (nextFree s) nonce (heldBody s port (spdmError 1)) :=
  tells_of_respond ((exec_challenge port slot nonce s).trans (respondSlot_other rfl h)) rfl rfl

theorem tells_getMeasurements (s : State) (port : Port) (index : Nat) (nonce : List Byte) :
    Tells port (.getMeasurements port index nonce) s (nextFree s) nonce (heldBody s port (measureBody s.care.measures index (spdmNonce s))) :=
  tells_of_respond ((exec_getMeasurements port index nonce s).trans (respondSlot_zero rfl)) rfl rfl

/-! ## One measurement -/

theorem filter_numbered_none (n : Nat) : ∀ (m : List (List Byte)) (o : Nat), n < o →
    (m.mapIdx (fun k v => (k + o, v))).filter (fun p => p.1 == n) = []
  | [], _, _ => by simp
  | x :: r, o, h => by
    have hr := filter_numbered_none n r (o + 1) (Nat.lt_succ_of_lt h)
    simpa [List.mapIdx_cons, Nat.ne_of_gt h, Nat.add_assoc, Nat.add_comm 1 o] using hr

/-- Of blocks numbered from some number on, one has a given number. -/
theorem filter_numbered_one {v : List Byte} : ∀ (m : List (List Byte)) (o n : Nat), m[n]? = some v →
    (m.mapIdx (fun k v => (k + o, v))).filter (fun p => p.1 == n + o) = [(n + o, v)]
  | [], _, _, h => by simp at h
  | x :: r, o, 0, h => by
    have hr := filter_numbered_none o r (o + 1) (Nat.lt_succ_self o)
    obtain rfl : x = v := by simpa using h
    simpa [List.mapIdx_cons, Nat.add_assoc, Nat.add_comm 1 o] using hr
  | x :: r, o, n + 1, h => by
    have hr := filter_numbered_one r (o + 1) n (by simpa using h)
    rw [List.mapIdx_cons, List.filter_cons_of_neg (by simp only [beq_iff_eq]; omega)]
    simpa [Nat.add_assoc, Nat.add_comm 1 o] using hr

theorem measureBody_one {m : List (List Byte)} {index : Nat} {v : List Byte} (nonce : List Byte) (h1 : 1 ≤ index)
    (hv : m[index - 1]? = some v) (hall : index ≠ 0xFF) : measureBody m index nonce =
      spdm 0x60 0 0 ([1] ++ natBytes 3 (measureBlock index v).length ++ measureBlock index v ++ nonce ++ List.replicate 10 0) := by
  have hone := filter_numbered_one m 1 (index - 1) hv
  rw [Nat.sub_add_cancel h1] at hone
  have hn : (index == 0) = false := beq_false_of_ne (by omega)
  unfold measureBody
  simp only [beq_false_of_ne hall, Bool.false_or, hone, bne, hn, List.isEmpty_cons, Bool.and_false, Bool.false_eq_true, if_false,
    List.flatMap_cons, List.flatMap_nil, List.append_nil, List.length_singleton, BitVec.ofNat_eq_ofNat]

/-! ## The settling theorem -/

/-- The checkpoint operations, each where its command asks for it, under semaphore 1. -/
theorem checkpoints_happen (s : State) (port : Port) (data : W32) :
    let asks := fun (op : Nat) => data.getLsbD 31 = true ∧ bitsAt data.toNat 30 29 = op ∧ (s.care.phase = .running ∨ s.care.phase = .pinhole)
    let free := semOwner s 1 = some port ∧ s.care.ckSt ≠ 1
    Happens (.checkpointSave port data) s (asks 0) (if free then
      (if tierThere (begun s data 0) (begun s data 0).care.ckScope
        then checkpointStep (freezeAll (eraseImage (begun s data 0) (begun s data 0).care.ckScope (begun s data 0).care.ckAt))
        else endCheckpoint (begun s data 0) 3 1) else s) ∧
    Happens (.checkpointRestore port data) s (asks 1) (if free then
      (if tierUp (begun s data 1) (begun s data 1).care.ckScope = false then endCheckpoint (begun s data 1) 3 1
        else if findCheckpoint (begun s data 1) = none then endCheckpoint (begun s data 1) 3 2 else checkpointStep (freezeAll (begun s data 1))) else s) ∧
    Happens (.checkpointThaw port data) s (asks 2) (if free then
      endCheckpoint { begun s data 2 with ctxs := s.ctxs.map (fun c => { c with freezes := c.freezes.filter (· != moduleIssuer) }) } 2 0 else s) := by
  have hsave : exec (.checkpointSave port data) s = execCheckpointSave port data s := rfl
  have hrestore : exec (.checkpointRestore port data) s = execCheckpointRestore port data s := rfl
  have hthaw : exec (.checkpointThaw port data) s = execCheckpointThaw port data s := rfl
  refine ⟨checkpointGo_happens hsave rfl, checkpointGo_happens hrestore ?_, checkpointGo_happens hthaw rfl⟩
  simp only [Bool.not_eq_true', Option.isNone_iff_eq_none]

theorem starts_hold (s : State) (r : StartInput) :
    let may := s.care.phase = .off ∨ s.care.phase = .resetting
    let c1 : Care := { s.care with att := s.care.att + 1 }
    (¬ may → exec (.start r) s = .fault .notEnabled) ∧
    (may → 3 ≤ s.care.att → exec (.start r) s = .next (startPinhole s) ∧ (startPinhole s).care.phase = .pinhole) ∧
    (∀ cause, may → s.care.att < 3 → startFault c1 r = some cause →
      ∃ t, exec (.start r) s = .next t ∧ t.care.phase = .resetting ∧ t.care.att = s.care.att + 1 ∧ t.care.last = cause ∧
        t.care.srce = s.care.srce ∧ t.teams = [] ∧ t.ctxs = []) ∧
    (may → s.care.att < 3 → startFault c1 r = none →
      exec (.start r) s = .next (startUp { s with care := c1 } r) ∧ (startUp { s with care := c1 } r).care.att = 0) := by
  refine ⟨start_not r, fun hm ha => ⟨start_pinhole r hm ha, startPinhole_phase s⟩, fun cause hm ha hf => ?_,
    fun hm ha hf => ⟨start_succeeds r hm ha hf, startUp_att _ r⟩⟩
  exact ⟨_, start_fails r hm ha hf, rfl, rfl, rfl, rfl, rfl, rfl⟩

theorem intervals_hold (s : State) (watts celsius : Nat) :
    (s.care.phase ≠ .running → exec (.powerLimitInterval watts celsius) s = .fault .notEnabled) ∧
    (s.care.phase = .running → ∃ t, exec (.powerLimitInterval watts celsius) s = .next t ∧ t = { s with care := t.care } ∧
      t.care.pwr = watts ∧ t.care.tj = celsius ∧
      (plimOf s < watts ∨ 100 < celsius → t.care.fclk = max 1000 (s.care.fclk - 100)) ∧
      (watts ≤ plimOf s → celsius ≤ 100 → 100 * watts < 95 * plimOf s → t.care.fclk = min 2700 (s.care.fclk + 100)) ∧
      (watts ≤ plimOf s → celsius ≤ 100 → 95 * plimOf s ≤ 100 * watts → t.care.fclk = s.care.fclk) ∧
      (t.care.thr.getLsbD 1 = true ↔ 100 < celsius) ∧ (plimOf s < watts → t.care.thr.getLsbD 0 = true)) := by
  refine ⟨powerLimit_not watts celsius, fun h => ⟨_, powerLimit_running watts celsius h, rfl, rfl, rfl, fun hp => if_pos hp, fun hw hc hl => ?_,
    fun hw hc hl => ?_, afterInterval_hot watts celsius, afterInterval_power celsius⟩⟩
  · exact (if_neg (not_or.mpr ⟨Nat.not_lt.mpr hw, Nat.not_lt.mpr hc⟩)).trans (if_pos hl)
  · exact (if_neg (not_or.mpr ⟨Nat.not_lt.mpr hw, Nat.not_lt.mpr hc⟩)).trans (if_neg (Nat.not_lt.mpr hl))

/-- Settles O60: an event each; every attestation message goes through one rule of response. -/
theorem moduleEvents : Obligations.ModuleEvents := by
  intro s
  refine ⟨starts_hold s, wdog_happens s, fun port => ⟨rfl, bootctlRst_one port, bootctlRst_both port⟩, reset_happens rfl, reset_happens rfl,
    moduleReset_leaves s, rfl, fun b => rfl, powerOff_leaves s, reset_happens rfl, intervals_hold s, checkpoints_happen s,
    fun x n => tierPortLost_happens x n, fun port sig hash slot off len index nonce => ?_, fun pa core off => ?_⟩
  · exact ⟨tells_getVersion s port, tells_getCapabilities s port, tells_agreement, tells_noAgreement, tells_getDigests s port,
      fun h => ⟨tells_noCertificate off len h, tells_noChallenge nonce h⟩, tells_getCertificate len, tells_challenge s port nonce,
      tells_getMeasurements s port index nonce, fun v h1 hv hall => measureBody_one (spdmNonce s) h1 hv hall⟩
  · exact ⟨fun at_ => rfl, rfl, scrub_line pa, scrub_slice core off, rfl, rfl⟩

end Sys2Proof.Machine
end
